-- ==== Sys2Proof/Word.lean ====
section
/-! DEFINITION. The word types of the machine (00_scope R8: little-endian bytes; 02_words: 32-bit words) and the
index types of its agents (00_scope R2: 160 cores in 10 islands of 16, 80 slices, 12 tenants). -/

namespace Sys2Proof

/-- A byte. -/
abbrev Byte := BitVec 8
/-- A 16-bit half word. -/
abbrev W16 := BitVec 16
/-- A 32-bit word: a code word, a lane of a vector register, a token value. -/
abbrev W32 := BitVec 32
/-- A 64-bit word: a scalar register, an address register, a system register. -/
abbrev W64 := BitVec 64
/-- A 128-bit value: a watermark register (05_copies R106). -/
abbrev W128 := BitVec 128
/-- A 256-bit value: a handle, a port configuration, a recipe entry. -/
abbrev W256 := BitVec 256

/-- A core of the module, number 16 × island + column (14_scalar R315). -/
abbrev CoreId := Fin 160
/-- A slice of the module (04_fabric R74). -/
abbrev SliceId := Fin 80
/-- A router of the fabric (04_fabric R78). -/
abbrev RouterId := Fin 240
/-- An island. -/
abbrev IslandId := Fin 10
/-- A tenant. -/
abbrev Tenant := Fin 12
/-- A scalar context of a core, X0 to X3. -/
abbrev CtxId := Fin 4

end Sys2Proof
end

