-- ==== Sys2Proof/Syntax.lean ====
section
/-! DEFINITION. The instructions: one constructor for each row of spec/opcode_table.json, in its order. Rows 0 to 79
are the words of X, 80 to 123 those of L and S, 124 to 209 those of C, and 210 to 296 the steps that the device
takes without a word (spec/95). A device step carries as operands what it is about: which agent, which item in flight,
and what the outside world supplies (log 8). -/

namespace Sys2Proof

/-- The issuing agents of a core: contexts X0 to X3, L, C and S (R301, 01_journey R17). -/
inductive Agent where
  | x (k : CtxId)
  | l
  | c
  | s
  deriving DecidableEq, Repr, Inhabited

/-- Retention hints (02_words R33). -/
inductive Hint where
  | dflt | stream | sticky | bypass
  deriving DecidableEq, Repr

/-- Scopes (02_words R33). -/
inductive Scope where
  | core | island | device | system
  deriving DecidableEq, Repr

/-- The three peers of a sequencer, in the order X, L, C, S without the sequencer itself (R34, R36, R37). -/
inductive Peer where
  | first | second | third
  deriving DecidableEq, Repr

/-- Element formats (R44). -/
inductive Fmt where
  | f32 | bf16 | fp16 | e4m3 | e5m2 | fp4 | i32 | i8 | i4 | n8 | n4 | e8m0
  deriving DecidableEq, Repr

/-- Rounding codes (R44). -/
inductive Rnd where
  | rne | rtz | rup | rdn | rod | dyn
  deriving DecidableEq, Repr

/-- Conditions of `cmp` (R45). -/
inductive Cond where
  | eq | ne | lt | le | gt | ge | uo | ord
  deriving DecidableEq, Repr

/-- Axis of `rot`, `bcast` and `red` (R45): row is code 0. -/
inductive Axis where
  | row | col
  deriving DecidableEq, Repr

/-- Operations of `red` (R45). -/
inductive RedOp where
  | fadd | fmax | fmin | add | max | min | and | or
  deriving DecidableEq, Repr

/-- Operations of an atomic (R40). -/
inductive AtomOp where
  | add | min | max | and | or | xor | swap | cas
  deriving DecidableEq, Repr

/-- Orderings of an atomic (R40). -/
inductive AtomOrd where
  | relaxed | acquire | release | acqRel
  deriving DecidableEq, Repr

/-- Operations of `acopy` (R39). -/
inductive AccOp where
  | add | min | max
  deriving DecidableEq, Repr

/-- Formats of `acopy` (R39). -/
inductive AccFmt where
  | f32 | bf16 | i32
  deriving DecidableEq, Repr

/-- Formats of `tsave` and `tload` (R42). -/
inductive TileFmt where
  | f32 | bf16 | fp16
  deriving DecidableEq, Repr

/-- The mod field of a vector word (R41): none, a mask select m1 to m7, or a guard by a stage bit. -/
inductive VMod where
  | plain
  | mask (k : BitVec 3)
  | guard (g : BitVec 3)
  deriving DecidableEq, Repr

/-- A guard alone, for the words that take no mask select. -/
abbrev Guard := Option (BitVec 3)

/-- The token field (R37): [5:3] pops, [2:0] pushes. -/
abbrev Token := BitVec 6

/-- Operands of an X memory word (format XM, R33). `ord` is the scope when bit 13 is set. -/
structure XMem where
  d : BitVec 5
  a : BitVec 5
  hint : Hint
  ord : Option Scope
  off : BitVec 11
  deriving DecidableEq, Repr

/-- Operands of a copy word (format SC, R36): handle, watermark, scratchpad register, hint, barrier operand, token. -/
structure Sc where
  h : BitVec 6
  w : BitVec 4
  a : BitVec 4
  hint : Hint
  bar : Bool
  t : Token
  deriving DecidableEq, Repr

/-- Operands of an atomic (format ST, R40). -/
structure Atom where
  a : BitVec 4
  v : BitVec 4
  res : BitVec 4
  op : AtomOp
  ord : AtomOrd
  scope : Scope
  u : Bool
  t : Token
  deriving DecidableEq, Repr

/-- Operands of `mma` and `mmaz` (R42). -/
structure Mma where
  tile : BitVec 3
  ra : BitVec 3
  rb : BitVec 3
  st : BitVec 2
  kc : BitVec 4
  zs : Bool
  ta : Bool
  tb : Bool
  ns : Bool
  t : Token
  deriving DecidableEq, Repr

/-- Operands of a three-register vector word (R41). -/
structure V3 where
  d : BitVec 7
  a : BitVec 7
  b : BitVec 7
  m : VMod
  deriving DecidableEq, Repr

/-- Operands of a two-register vector word (R41, R46). -/
structure V2 where
  d : BitVec 7
  a : BitVec 7
  m : VMod
  deriving DecidableEq, Repr

/-- The four network inputs of a router, in the order of R85. -/
inductive Lane where
  | down | up | east | west
  deriving DecidableEq, Repr

/-- What the line check codes find in one access to a channel (03_memory R73): errors corrected, the sectors of the line in which
they find an uncorrectable error when they are read, and whether they find one in a line that the access writes back; `back` errors are
corrected in such a line. -/
structure Ecc where
  corrected : Nat
  bad : BitVec 4
  evicted : Bool
  back : Nat := 0
  deriving DecidableEq, Repr

/-- An access in which the line check codes find nothing. -/
def Ecc.clean : Ecc := { corrected := 0, bad := 0, evicted := false }

/-- What a 100 ns tick is told of the islands' currents (16_energy R363): the current of each without filler, in mA, and how many
filler operations cores issue (log 8). -/
structure Slope where
  load : List Nat
  filler : List (CoreId × Nat)
  deriving DecidableEq, Repr

/-- How a completion of the host ends a request of the device (18_host R388): with data, as Unsupported Request, as Completer
Abort, or poisoned. -/
inductive Cpl where
  | ok (data : List Byte)
  | unsupported
  | abort
  | poisoned
  deriving DecidableEq, Repr

/-- An access of the host through BAR2 within one 128-byte line (18_host R390), an AtomicOp aimed at the module (R387), or its choice of the
Resizable BAR size of BAR2. -/
inductive HostAcc where
  | read (n : Nat)
  | write (data : List Byte)
  /-- an AtomicOp of any kind, at an offset of BAR0 or of BAR2 -/
  | atomic (bar0 : Bool)
  /-- BAR2 is to have 2^k GiB -/
  | size (k : Fin 8)
  deriving DecidableEq, Repr

/-- A launch record on its way between modules (15_dispatch R326): record `n` of those that this module has sent has reached its
module, or one has come to this module, with the accepting module's index and number of the kernel, and this module's device
index. -/
inductive Forward where
  | sent (n : Nat)
  | taken (acceptor number device : Nat) (t : Tenant) (q : Fin 4) (bytes : List Byte)
  deriving DecidableEq, Repr

/-- A completion report between modules (15_dispatch R326): report `n` of those that this module has sent has arrived, or one has
come for a kernel that this module accepted, with the cause when the task was killed. -/
inductive Report where
  | sent (n : Nat)
  | taken (kernel : Nat) (killed : Option Nat)
  deriving DecidableEq, Repr

/-- A Stolepel link: that of a port of this module, or the link of port 0 of another module (18_host R394). -/
inductive RingLink where
  | port (p : Fin 2)
  | after (index : Fin 4)
  deriving DecidableEq, Repr

/-- What a peer module asks of a line of this one: a read of `n` bytes, a write, an `acopy` sector, an atomic of `w` bits on operands `x`
and `y` (18_host R395). -/
inductive PeerAsk where
  | read (pa n : Nat)
  | write (pa : Nat) (data : List Byte)
  | acc (pa : Nat) (data : List Byte) (op : AccOp) (fmt : AccFmt)
  | atom (pa w : Nat) (op : AtomOp) (u : Bool) (x y : W64)
  deriving DecidableEq, Repr

/-- An access of a peer module that has come over a port: who asks, for which module it is meant, its number there, its tenant and
priority (18_host R395). -/
structure PeerAccess where
  src : Fin 4
  dst : Fin 4
  tag : Nat
  tenant : Tenant
  pri : Fin 4
  hint : Hint
  ask : PeerAsk
  deriving DecidableEq, Repr

/-- What else the outside world does to the module: an access of a peer, flits replayed by the retry of a link, the end of a step of
bring-up, successful or not (18_host R395, R396, R401). -/
inductive Outside where
  | peer (a : PeerAccess)
  | retry (p : Fin 2) (n : Nat)
  | bringUp (ok : Bool)
  deriving DecidableEq, Repr

/-- A peer module as it is found when a link comes up (18_host R394, R397): index, owner tags, tenants enabled, memory. -/
structure PeerView where
  index : Fin 4
  tags : List (Nat × Nat)
  enabled : List Tenant
  mem : List (Nat × Byte)
  deriving DecidableEq, Repr

/-- The registers outside the cores that REGISTER_WRITE reaches, by the names of the chapters (03_memory R61 to R73, 04_fabric R94,
R96, 12_sync R279, 14_scalar R320, 15_dispatch R328, R343, 16_energy R348 to R362, 17_traps R373, R376, R382, 18_host R389 to
R396). `request` and `answer` are doublewords of the mailbox areas; `readOnly` is any register without a writable field. -/
inductive Reg where
  | hstat | hdb | hacc | hwbase | herr
  | hseg (j : Fin 64)
  | request (n : Fin 512)
  | answer (n : Fin 512)
  | lqstat (t : Tenant) (q : Fin 4)
  | evcfg (j : Fin 4)
  | evstat (j : Fin 4)
  | troot (t : Tenant)
  | fqbase (t : Tenant)
  | sqbase (t : Tenant)
  | svbase (t : Tenant)
  | tcfg (t : Tenant)
  | tpwr (t : Tenant)
  | ttrap (t : Tenant)
  | tue (t : Tenant)
  | tterm (t : Tenant)
  | tene (t : Tenant)
  | tovr (t : Tenant)
  | mce (c : Fin 16)
  | fwue
  | tinv | svcmd | sva0 | sva1
  | mrate | gpol0 | gpol1 | gstat | therm
  | ipol (i : IslandId)
  | fthr (i : IslandId)
  | scrc (c : Fin 16)
  | slnk (p : Fin 2)
  | readOnly
  deriving DecidableEq, Repr

/-- The instructions and device steps, one constructor for each row of spec/opcode_table.json. -/
inductive Instr where
  /-- X_ADD (R303): Writes s_a + s_b to s_d, modulo 2^64. -/
  | xAdd (d a b : BitVec 5)
  /-- X_SUB (R303): Writes s_a − s_b to s_d. -/
  | xSub (d a b : BitVec 5)
  /-- X_AND (R303): Writes the bitwise AND of s_a and s_b to s_d. -/
  | xAnd (d a b : BitVec 5)
  /-- X_OR (R303): Writes the bitwise OR of s_a and s_b to s_d. -/
  | xOr (d a b : BitVec 5)
  /-- X_XOR (R303): Writes the bitwise XOR of s_a and s_b to s_d. -/
  | xXor (d a b : BitVec 5)
  /-- X_ANDN (R303): Writes s_a AND NOT s_b to s_d. -/
  | xAndn (d a b : BitVec 5)
  /-- X_SLL (R303): Shifts s_a left by s_b[5:0]. -/
  | xSll (d a b : BitVec 5)
  /-- X_SRL (R303): Shifts s_a right by s_b[5:0], with zeros entering. -/
  | xSrl (d a b : BitVec 5)
  /-- X_SRA (R303): Shifts s_a right by s_b[5:0], with copies of bit 63 entering. -/
  | xSra (d a b : BitVec 5)
  /-- X_SLT (R303): Writes 1 to s_d if s_a < s_b as signed values, else 0. -/
  | xSlt (d a b : BitVec 5)
  /-- X_SLTU (R303): Writes 1 to s_d if s_a < s_b as unsigned values, else 0. -/
  | xSltu (d a b : BitVec 5)
  /-- X_SEQ (R303): Writes 1 to s_d if s_a = s_b, else 0. -/
  | xSeq (d a b : BitVec 5)
  /-- X_SNE (R303): Writes 1 to s_d if s_a ≠ s_b, else 0. -/
  | xSne (d a b : BitVec 5)
  /-- X_MIN (R303): Writes the signed lesser of s_a and s_b. -/
  | xMin (d a b : BitVec 5)
  /-- X_MAX (R303): Writes the signed greater of s_a and s_b. -/
  | xMax (d a b : BitVec 5)
  /-- X_MINU (R303): Writes the unsigned lesser of s_a and s_b. -/
  | xMinu (d a b : BitVec 5)
  /-- X_MAXU (R303): Writes the unsigned greater of s_a and s_b. -/
  | xMaxu (d a b : BitVec 5)
  /-- X_SEL (R303): Writes s_b to s_d if s_a ≠ 0, else s_c. -/
  | xSel (d a b c : BitVec 5)
  /-- X_CLZ (R303): Counts the leading zeros of s_a; 64 for zero. -/
  | xClz (d a : BitVec 5)
  /-- X_CTZ (R303): Counts the trailing zeros of s_a; 64 for zero. -/
  | xCtz (d a : BitVec 5)
  /-- X_POPC (R303): Counts the one bits of s_a. -/
  | xPopc (d a : BitVec 5)
  /-- X_MUL (R304): Writes the low 64 bits of s_a × s_b. -/
  | xMul (d a b : BitVec 5)
  /-- X_MULH (R304): Writes the high 64 bits of the signed 128-bit product. -/
  | xMulh (d a b : BitVec 5)
  /-- X_MULHU (R304): Writes the high 64 bits of the unsigned 128-bit product. -/
  | xMulhu (d a b : BitVec 5)
  /-- X_DIV (R304): Writes the signed truncating quotient, with fixed corner results; it occupies the shared divider. -/
  | xDiv (d a b : BitVec 5)
  /-- X_DIVU (R304): Writes the unsigned quotient; a zero divisor gives 2^64 − 1. -/
  | xDivu (d a b : BitVec 5)
  /-- X_REM (R304): Writes the signed remainder, which takes the sign of s_a. -/
  | xRem (d a b : BitVec 5)
  /-- X_REMU (R304): Writes the unsigned remainder; a zero divisor gives s_a. -/
  | xRemu (d a b : BitVec 5)
  /-- BXP (R305): Permutes the 64 bits of s_a through pattern Pk. -/
  | bxp (d a : BitVec 5) (k : BitVec 3)
  /-- BXL (R306): Loads pattern Pk from a 64-byte block at s_a, replacing it atomically at retirement. -/
  | bxl (a : BitVec 5) (k : BitVec 3)
  /-- X_ADDI (R303): Writes s_a plus the sign-extended immediate to s_d. -/
  | xAddi (d a : BitVec 5) (imm : BitVec 16)
  /-- X_ANDI (R303): Writes s_a AND the zero-extended immediate to s_d. -/
  | xAndi (d a : BitVec 5) (imm : BitVec 16)
  /-- X_ORI (R303): Writes s_a OR the zero-extended immediate to s_d. -/
  | xOri (d a : BitVec 5) (imm : BitVec 16)
  /-- X_XORI (R303): Writes s_a XOR the zero-extended immediate to s_d. -/
  | xXori (d a : BitVec 5) (imm : BitVec 16)
  /-- X_SLTI (R303): Writes 1 if s_a is below the immediate as signed values. -/
  | xSlti (d a : BitVec 5) (imm : BitVec 16)
  /-- X_SLTIU (R303): Writes 1 if s_a is below the sign-extended immediate as unsigned values. -/
  | xSltiu (d a : BitVec 5) (imm : BitVec 16)
  /-- X_LUI (R303): Writes sext(imm16 × 2^16) to s_d. -/
  | xLui (d : BitVec 5) (imm : BitVec 16)
  /-- X_SLLI (R303): Shifts s_a left by an immediate amount. -/
  | xSlli (d a : BitVec 5) (n : BitVec 6)
  /-- X_SRLI (R303): Shifts s_a right logically by an immediate amount. -/
  | xSrli (d a : BitVec 5) (n : BitVec 6)
  /-- X_SRAI (R303): Shifts s_a right arithmetically by an immediate amount. -/
  | xSrai (d a : BitVec 5) (n : BitVec 6)
  /-- X_BEQ (R307): Branches if s_a = s_b. -/
  | xBeq (a b : BitVec 5) (off : BitVec 16)
  /-- X_BNE (R307): Branches if s_a ≠ s_b. -/
  | xBne (a b : BitVec 5) (off : BitVec 16)
  /-- X_BLT (R307): Branches if s_a < s_b as signed values. -/
  | xBlt (a b : BitVec 5) (off : BitVec 16)
  /-- X_BGE (R307): Branches if s_a ≥ s_b as signed values. -/
  | xBge (a b : BitVec 5) (off : BitVec 16)
  /-- X_BLTU (R307): Branches if s_a < s_b as unsigned values. -/
  | xBltu (a b : BitVec 5) (off : BitVec 16)
  /-- X_BGEU (R307): Branches if s_a ≥ s_b as unsigned values. -/
  | xBgeu (a b : BitVec 5) (off : BitVec 16)
  /-- X_J (R307): Jumps by a signed 26-bit word offset. -/
  | xJ (off : BitVec 26)
  /-- CALL (R307): Writes the return offset to s31 and jumps. -/
  | call (off : BitVec 26)
  /-- JR (R307): Jumps to s_a + 4 × sext(imm); a misaligned target traps. -/
  | jr (a : BitVec 5) (imm : BitVec 16)
  /-- CALLR (R307): Writes the return offset to s_d and jumps to s_a. -/
  | callr (d a : BitVec 5)
  /-- LD_D (R308): Loads a doubleword, with its hint, ordering and scope. -/
  | ldD (o : XMem)
  /-- LD_W (R308): Loads a sign-extended word. -/
  | ldW (o : XMem)
  /-- LD_WU (R308): Loads a zero-extended word. -/
  | ldWu (o : XMem)
  /-- LD_H (R308): Loads a sign-extended halfword. -/
  | ldH (o : XMem)
  /-- LD_HU (R308): Loads a zero-extended halfword. -/
  | ldHu (o : XMem)
  /-- LD_B (R308): Loads a sign-extended byte. -/
  | ldB (o : XMem)
  /-- LD_BU (R308): Loads a zero-extended byte. -/
  | ldBu (o : XMem)
  /-- ST_D (R308): Stores a doubleword, with its hint, ordering and scope. -/
  | stD (o : XMem)
  /-- ST_W (R308): Stores the low word of s_d. -/
  | stW (o : XMem)
  /-- ST_H (R308): Stores the low halfword of s_d. -/
  | stH (o : XMem)
  /-- ST_B (R308): Stores the low byte of s_d. -/
  | stB (o : XMem)
  /-- FENCE (R285): Waits until the context's earlier accesses are performed at its scope, invalidates L1 lines as the scope gives, and flushes host writes at system scope. -/
  | fence (scope : Scope)
  /-- X_PUSH_VALUE (R311): Waits for core-scope performance of earlier accesses, then pushes a token carrying s_a[31:0]. -/
  | xPushValue (a : BitVec 5) (p : Peer)
  /-- X_PUSH_BARE (R311): Waits for core-scope performance of earlier accesses, then pushes a bare token. -/
  | xPushBare (p : Peer)
  /-- X_POP_VALUE (R311): Waits for a token and writes its value to s_d, as an acquire at core scope. -/
  | xPopValue (d : BitVec 5) (p : Peer)
  /-- X_POP_BARE (R311): Waits for a token and discards any value it carries. -/
  | xPopBare (p : Peer)
  /-- X_SEMA (R254): Waits until served, then subtracts n from sem_k. -/
  | xSema (k : BitVec 6) (n : BitVec 10)
  /-- X_SEMV (R254): Adds n to sem_k at retirement, saturating and setting SOVF. -/
  | xSemv (k : BitVec 6) (n : BitVec 10)
  /-- BARR (R269): Releases at device scope and adds one arrival to the barrier object. -/
  | barr (a : BitVec 5)
  /-- BEXP (R270): Declares bytes by adding s_b[31:0] to the object's BYTES. -/
  | bexp (a b : BitVec 5)
  /-- BWAIT (R271): Sends a registration asking to be woken past phase P into sem_k. -/
  | bwait (a b : BitVec 5) (k : BitVec 6)
  /-- MSEND (R275): Sends a 64-byte message with a handler offset to a gang member. -/
  | msend (d a b : BitVec 5)
  /-- HEND (R277): Makes the arrival context dormant. -/
  | hend
  /-- LAUNCH (R318): Reads a 64-byte launch record and submits it to launch queue n of the tenant. -/
  | launch (a : BitVec 5) (q : BitVec 2)
  /-- RSYS (R313): Reads system register k into s_d. -/
  | rsys (d : BitVec 5) (k : BitVec 16)
  /-- WSYS (R313): Writes s_a to system register k, with the privileged trap for a register without RW or W1C fields. -/
  | wsys (a : BitVec 5) (k : BitVec 16)
  /-- SYS (R319): Posts a service request to management firmware and waits for its answer. -/
  | sys (k : BitVec 16)
  /-- TRET (R321): Returns from the trap handler and resumes every sequencer. -/
  | tret
  /-- X_END (R322): Ends X0 once its earlier loads have returned. -/
  | xEnd
  /-- X_NOP (R49): Does nothing. -/
  | xNop
  /-- LS_ADDI (R98): Writes a_a plus the sign-extended imm12 to a_d. -/
  | lsAddi (d a : BitVec 4) (imm : BitVec 12) (t : Token)
  /-- LS_ADD (R98): Writes a_a + a_b to a_d. -/
  | lsAdd (d a b : BitVec 4) (t : Token)
  /-- LS_SUB (R98): Writes a_a − a_b to a_d. -/
  | lsSub (d a b : BitVec 4) (t : Token)
  /-- LS_MUL (R98): Writes the low 64 bits of a_a × a_b to a_d. -/
  | lsMul (d a b : BitVec 4) (t : Token)
  /-- LS_AND (R98): Writes the bitwise AND of a_a and a_b to a_d. -/
  | lsAnd (d a b : BitVec 4) (t : Token)
  /-- LS_OR (R98): Writes the bitwise OR of a_a and a_b to a_d. -/
  | lsOr (d a b : BitVec 4) (t : Token)
  /-- LS_XOR (R98): Writes the bitwise XOR of a_a and a_b to a_d. -/
  | lsXor (d a b : BitVec 4) (t : Token)
  /-- LS_SLL (R98): Shifts a_a left by a_b[5:0]. -/
  | lsSll (d a b : BitVec 4) (t : Token)
  /-- LS_SRL (R98): Shifts a_a right logically by a_b[5:0]. -/
  | lsSrl (d a b : BitVec 4) (t : Token)
  /-- LI (R98): Writes sext(imm16) to a_d. -/
  | li (d : BitVec 4) (imm : BitVec 16) (t : Token)
  /-- LIH (R98): Appends imm16 to a_d: a_d × 2^16 + imm16, modulo 2^64. -/
  | lih (d : BitVec 4) (imm : BitVec 16) (t : Token)
  /-- SHLI (R98): Shifts a_a left by n. -/
  | shli (d a : BitVec 4) (n : BitVec 6) (t : Token)
  /-- SHRI (R98): Shifts a_a right logically by n. -/
  | shri (d a : BitVec 4) (n : BitVec 6) (t : Token)
  /-- LSET (R99): Sets loop counter lc_k to a_a[31:0]. -/
  | lset (a : BitVec 4) (k : BitVec 2) (t : Token)
  /-- LNEXT (R99): Decrements lc_k and branches while it was above 1. -/
  | lnext (k : BitVec 2) (off : BitVec 12) (t : Token)
  /-- BZ (R99): Branches if a_a = 0. -/
  | bz (a : BitVec 4) (off : BitVec 12) (t : Token)
  /-- BNZ (R99): Branches if a_a ≠ 0. -/
  | bnz (a : BitVec 4) (off : BitVec 12) (t : Token)
  /-- LS_J (R99): Jumps by a signed 20-bit word offset. -/
  | lsJ (off : BitVec 20) (t : Token)
  /-- QPOP_VALUE (R100): Makes its token pops, then waits on the named queue and writes the popped value to a_d. -/
  | qpopValue (d : BitVec 4) (p : Peer) (t : Token)
  /-- QPOP_BARE (R100): Makes its token pops, then waits on the named queue and pops one entry, discarding it. -/
  | qpopBare (p : Peer) (t : Token)
  /-- QPUSH_VALUE (R100): Pushes a token carrying a_a[31:0] at retirement. -/
  | qpushValue (a : BitVec 4) (p : Peer) (t : Token)
  /-- QPUSH_BARE (R100): Pushes a bare token at retirement. -/
  | qpushBare (p : Peer) (t : Token)
  /-- HSET (R103): Writes 8-byte word k of handle h_n from a_a. -/
  | hset (h : BitVec 6) (a : BitVec 4) (k : BitVec 2) (t : Token)
  /-- L_COPY (R113): Copies the handle's sectors from memory into the scratchpad in landing order. -/
  | lCopy (o : Sc)
  /-- COPY_O (R114): Copies whole tiles into an operand ring at its tail. -/
  | copyO (h : BitVec 6) (w : BitVec 4) (r : BitVec 3) (hint : Hint) (bar : Bool) (t : Token)
  /-- COPY_PK (R115): Packs I planes from memory into an interleaved scratchpad form. -/
  | copyPk (o : Sc) (c : BitVec 3)
  /-- COPY_UK (R115): Unpacks an interleaved memory form into I scratchpad planes. -/
  | copyUk (o : Sc) (c : BitVec 3)
  /-- GATHER (R116): Lands DIM1 rows chosen by a scratchpad index list. -/
  | gather (o : Sc)
  /-- PREFETCH (R117): Reads the handle's lines into their slices, and into the L1 when there is one. -/
  | prefetch (h : BitVec 6) (a : BitVec 4) (hint : Hint) (t : Token)
  /-- OPEN (R119): Opens a landing window with its lagoon share on w_k. -/
  | lOpen (w a : BitVec 4) (hint : Hint) (t : Token)
  /-- CLOSE (R120): Closes the window on w_k, discarding held sectors and freeing the share. -/
  | lClose (w : BitVec 4) (t : Token)
  /-- WCOPY (R118): Writes scratchpad sectors to memory in landing order. -/
  | wcopy (o : Sc)
  /-- SCATTER (R118): Writes scratchpad rows to memory rows chosen by an index list. -/
  | scatter (o : Sc)
  /-- PUT (R121): Sends scratchpad sectors into a window of another gang member. -/
  | put (h : BitVec 6) (w a : BitVec 4) (hint : Hint) (t : Token)
  /-- ACOPY (R265): Combines scratchpad sectors into memory at the slice with add, min or max. -/
  | acopy (h : BitVec 6) (w a : BitVec 4) (hint : Hint) (op : AccOp) (fmt : AccFmt) (t : Token)
  /-- WWAIT (R111): Waits until the COUNT of w_k reaches a_a. -/
  | wwait (a w : BitVec 4) (t : Token)
  /-- WGET (R111): Writes bits [63:0] of w_k to a_a. -/
  | wget (a w : BitVec 4) (t : Token)
  /-- WRESET (R111): Waits until QLEN is 0, then clears w_k. -/
  | wreset (w : BitVec 4) (t : Token)
  /-- LS_SEMA (R254): After its token pops, waits until served and subtracts n from sem_k. -/
  | lsSema (k : BitVec 6) (n : BitVec 14) (t : Token)
  /-- LS_SEMV (R254): Adds n to sem_k at retirement. -/
  | lsSemv (k : BitVec 6) (n : BitVec 14) (t : Token)
  /-- ATOM_32 (R259): Performs a 32-bit atomic at the target and returns the old value in a result block. -/
  | atom32 (o : Atom)
  /-- ATOM_64 (R259): Performs a 64-bit atomic at the target and returns the old value in a result block. -/
  | atom64 (o : Atom)
  /-- LS_NOP (R49): Performs its token pops and pushes and nothing else. -/
  | lsNop (t : Token)
  /-- LS_END (R101): Makes its token pops and pushes, then stops the sequencer. -/
  | lsEnd (t : Token)
  /-- FADD (R208): Vector FP32 add, rounded under FCS.RM. -/
  | fadd (o : V3)
  /-- FSUB (R208): Vector FP32 subtract. -/
  | fsub (o : V3)
  /-- FMUL (R208): Vector FP32 multiply. -/
  | fmul (o : V3)
  /-- FDIV (R211): Vector FP32 divide in the special-function unit. -/
  | fdiv (o : V3)
  /-- FMIN (R188): Vector minimumNumber. -/
  | fmin (o : V3)
  /-- FMAX (R188): Vector maximumNumber. -/
  | fmax (o : V3)
  /-- FMA (R209): Fused multiply-add into v_d. -/
  | fma (o : V3)
  /-- FMS (R209): Fused x × y − z into v_d. -/
  | fms (o : V3)
  /-- FNMA (R209): Fused −(x × y) + z into v_d. -/
  | fnma (o : V3)
  /-- FNMS (R209): Fused −(x × y) − z into v_d. -/
  | fnms (o : V3)
  /-- C_ADD (R212): Vector integer add of the SHP elements. -/
  | cAdd (o : V3)
  /-- C_SUB (R212): Vector integer subtract. -/
  | cSub (o : V3)
  /-- C_MUL (R212): Vector integer multiply, low bits. -/
  | cMul (o : V3)
  /-- C_MULH (R212): Vector integer multiply, high bits. -/
  | cMulh (o : V3)
  /-- C_MIN (R212): Vector integer minimum. -/
  | cMin (o : V3)
  /-- C_MAX (R212): Vector integer maximum. -/
  | cMax (o : V3)
  /-- C_AND (R212): Vector bitwise AND. -/
  | cAnd (o : V3)
  /-- C_OR (R212): Vector bitwise OR. -/
  | cOr (o : V3)
  /-- C_XOR (R212): Vector bitwise XOR. -/
  | cXor (o : V3)
  /-- C_SHL (R212): Vector integer shift left. -/
  | cShl (o : V3)
  /-- C_SHR (R212): Vector integer shift right, signed or unsigned by the format. -/
  | cShr (o : V3)
  /-- CMP (R213): Sets mask bits from a lane-wise comparison. -/
  | cmp (cond : Cond) (k : BitVec 3) (a b : BitVec 7) (g : Guard)
  /-- C_SEL (R214): Selects v_a or v_b per lane under mask m_k. -/
  | cSel (d a b : BitVec 7) (k : BitVec 3)
  /-- C_MOV (R165): Copies v_a into v_d bit for bit. -/
  | cMov (o : V2)
  /-- FABS (R210): Clears the sign bit of each lane. -/
  | fabs (o : V2)
  /-- FNEG (R210): Inverts the sign bit of each lane. -/
  | fneg (o : V2)
  /-- FSQRT (R211): Vector square root, correctly rounded. -/
  | fsqrt (o : V2)
  /-- FRCP (R211): Vector reciprocal. -/
  | frcp (o : V2)
  /-- FRSQRT (R211): Vector reciprocal square root. -/
  | frsqrt (o : V2)
  /-- FEXP2 (R211): Vector base-2 exponential. -/
  | fexp2 (o : V2)
  /-- FLOG2 (R211): Vector base-2 logarithm. -/
  | flog2 (o : V2)
  /-- FTANH (R211): Vector hyperbolic tangent. -/
  | ftanh (o : V2)
  /-- C_ABS (R212): Vector integer absolute value. -/
  | cAbs (o : V2)
  /-- C_NEG (R212): Vector integer negate. -/
  | cNeg (o : V2)
  /-- C_NOT (R212): Vector bitwise complement. -/
  | cNot (o : V2)
  /-- C_CLZ (R212): Vector per-element count of leading zeros. -/
  | cClz (o : V2)
  /-- C_POPC (R212): Vector per-element count of one bits. -/
  | cPopc (o : V2)
  /-- CVT (R215): Converts lanes to a named format under a named rounding. -/
  | cvt (o : V2) (fmt : Fmt) (rnd : Rnd)
  /-- CVTA (R215): Converts under FCS.RM with optional saturation and updates am_j. -/
  | cvta (o : V2) (fmt : Fmt) (j : BitVec 2) (sat : Bool)
  /-- ROT (R217): Rotates lanes along the row or the column axis. -/
  | rot (o : V2) (ax : Axis) (n : BitVec 6)
  /-- BCAST (R217): Broadcasts one column or row across the axis. -/
  | bcast (o : V2) (ax : Axis) (n : BitVec 6)
  /-- RED (R218): Reduces along an axis in fixed order into every lane. -/
  | red (o : V2) (ax : Axis) (op : RedOp)
  /-- XPOSE (R219): Transposes each 16 × 16 block. -/
  | xpose (o : V2)
  /-- VBX (R221): Permutes the bits of each lane through pattern Pk. -/
  | vbx (o : V2) (k : BitVec 3)
  /-- VBXL (R221): Loads pattern Pk from row0 of v_a. -/
  | vbxl (a : BitVec 7) (k : BitVec 3) (g : Guard)
  /-- TREEMASK (R222): Builds the ancestor masks of a draft tree. -/
  | treemask (k : BitVec 3) (a : BitVec 7) (g : Guard)
  /-- VLD (R151): Reads one register-shaped value through a port and advances it. -/
  | vld (d : BitVec 7) (p : BitVec 2) (m : VMod)
  /-- VST (R151): Writes a register through a port and advances it. -/
  | vst (p : BitVec 2) (a : BitVec 7) (g : Guard)
  /-- PCFG (R151): Configures a port from row0 of v_a and resets its state. -/
  | pcfg (p : BitVec 2) (a : BitVec 7) (g : Guard)
  /-- SHAPE (R162): Sets SHP from the next bundle onward. -/
  | shape (rows : BitVec 4) (cols : BitVec 6) (fmt : Fmt)
  /-- CLOOP (R160): Updates CNT, EPI, STG and RRB and branches back. -/
  | cloop (off : BitVec 14)
  /-- RTAG (R169): Binds recipe k to the physical register that v_d names. -/
  | rtag (d : BitVec 7) (k : BitVec 5) (g : Guard)
  /-- RDROP (R172): Drops the register's frame, making it DROPPED or LOST. -/
  | rdrop (d : BitVec 7) (g : Guard)
  /-- RSTAT (R175): Writes the status word of a physical register. -/
  | rstat (d a : BitVec 7) (g : Guard)
  /-- CTOK (R223): Pops its tokens at issue and pushes at retirement, optionally carrying a value. -/
  | ctok (val : Option (BitVec 7)) (t : Token)
  /-- C_NOP (R224): Occupies the axis slot with no effect. -/
  | cNop
  /-- C_END (R224): Retires after every earlier C word, then C stops. -/
  | cEnd
  /-- C_SEMA (R224): Makes the bundle wait until sem_k ≥ n, then subtracts n. -/
  | cSema (k : BitVec 6) (n : BitVec 7) (g : Guard)
  /-- C_SEMV (R224): Adds n to sem_k at retirement. -/
  | cSemv (k : BitVec 6) (n : BitVec 7) (g : Guard)
  /-- FCS_R (R166): Reads FCS into lane (row0, 0) after earlier C words retire. -/
  | fcsR (d : BitVec 7) (g : Guard)
  /-- FCS_W (R166): Writes FCS from lane (row0, 0) after earlier C words retire. -/
  | fcsW (a : BitVec 7) (g : Guard)
  /-- TLD (R235): Moves a tile quarter into a vector register. -/
  | tld (tile : BitVec 3) (d : BitVec 7) (q st : BitVec 2) (t : Token)
  /-- TST (R235): Moves a vector register into a tile quarter. -/
  | tst (tile : BitVec 3) (a : BitVec 7) (q st : BitVec 2) (t : Token)
  /-- TZERO (R236): Sets every entry of the tile to zero. -/
  | tzero (tile : BitVec 3) (st : BitVec 2) (t : Token)
  /-- TSCALE (R236): Scales the tile by row and column factors. -/
  | tscale (tile : BitVec 3) (st : BitVec 2) (a : BitVec 7) (t : Token)
  /-- TSAVE (R237): Writes the tile to the scratchpad as FP32, BF16 or FP16. -/
  | tsave (tile : BitVec 3) (st : BitVec 2) (fmt : TileFmt) (off : BitVec 11) (t : Token)
  /-- TLOAD (R237): Reads the tile from the scratchpad, widening exactly. -/
  | tload (tile : BitVec 3) (st : BitVec 2) (fmt : TileFmt) (off : BitVec 11) (t : Token)
  /-- DRAW (R246): Samples one candidate from tile logits with the task generator. -/
  | draw (tile : BitVec 3) (st : BitVec 2) (mask : Option (BitVec 6)) (d : BitVec 7) (t : Token)
  /-- MMA_FP4 (R232): Group-exact multiply-accumulate of FP4 ring tiles into a tile. -/
  | mmaFp4 (o : Mma)
  /-- MMA_I4 (R232): Multiply-accumulate of INT4 ring tiles. -/
  | mmaI4 (o : Mma)
  /-- MMA_N4 (R232): Multiply-accumulate of unsigned 4-bit ring tiles. -/
  | mmaN4 (o : Mma)
  /-- MMA_E4M3 (R232): Multiply-accumulate of E4M3 ring tiles. -/
  | mmaE4m3 (o : Mma)
  /-- MMA_E5M2 (R232): Multiply-accumulate of E5M2 ring tiles. -/
  | mmaE5m2 (o : Mma)
  /-- MMA_I8 (R232): Multiply-accumulate of INT8 ring tiles. -/
  | mmaI8 (o : Mma)
  /-- MMA_N8 (R232): Multiply-accumulate of unsigned 8-bit ring tiles. -/
  | mmaN8 (o : Mma)
  /-- MMA_BF16 (R232): Multiply-accumulate of BF16 ring tiles. -/
  | mmaBf16 (o : Mma)
  /-- MMA_FP16 (R232): Multiply-accumulate of FP16 ring tiles. -/
  | mmaFp16 (o : Mma)
  /-- MMAZ_FP4 (R232): Zeroes the tile, then multiply-accumulates FP4 ring tiles. -/
  | mmazFp4 (o : Mma)
  /-- MMAZ_I4 (R232): Zeroing multiply-accumulate of INT4 ring tiles. -/
  | mmazI4 (o : Mma)
  /-- MMAZ_N4 (R232): Zeroing multiply-accumulate of unsigned 4-bit ring tiles. -/
  | mmazN4 (o : Mma)
  /-- MMAZ_E4M3 (R232): Zeroing multiply-accumulate of E4M3 ring tiles. -/
  | mmazE4m3 (o : Mma)
  /-- MMAZ_E5M2 (R232): Zeroing multiply-accumulate of E5M2 ring tiles. -/
  | mmazE5m2 (o : Mma)
  /-- MMAZ_I8 (R232): Zeroing multiply-accumulate of INT8 ring tiles. -/
  | mmazI8 (o : Mma)
  /-- MMAZ_N8 (R232): Zeroing multiply-accumulate of unsigned 8-bit ring tiles. -/
  | mmazN8 (o : Mma)
  /-- MMAZ_BF16 (R232): Zeroing multiply-accumulate of BF16 ring tiles. -/
  | mmazBf16 (o : Mma)
  /-- MMAZ_FP16 (R232): Zeroing multiply-accumulate of FP16 ring tiles. -/
  | mmazFp16 (o : Mma)
  /-- MATRIX_WORD_START (R227): An issued matrix word starts on its unit once its stream, tile and unit conditions hold. -/
  | matrixWordStart (c : CoreId) (u : Nat)
  /-- MATRIX_WORD_COMPLETION (R228): A matrix word completes and retires with its pushes, ring uses and MXCNT counts. -/
  | matrixWordCompletion (c : CoreId) (n : Nat)
  /-- DRAW_COMPLETION (R248): A draw completes, updating the generator and writing its result lanes. -/
  | drawCompletion (c : CoreId) (n : Nat)
  /-- BANK_POWER_UP (R176): A gated register bank powers up zeroed, and the stalled word proceeds. -/
  | bankPowerUp (c : CoreId) (bank : Nat)
  /-- MODULE_RESET (R387): A hot reset or PERST# resets the whole module and starts bring-up. -/
  | moduleReset
  /-- WATCHDOG_EXPIRY (R401): The management core watchdog expires; STAGE becomes 15 and every gang stops. -/
  | watchdogExpiry
  /-- HOST_DOORBELL (R392): A host write of HDB with GO hands a mailbox request to firmware. -/
  | hostDoorbell (v : W64)
  /-- ATTESTATION_REPORT (R400): Mailbox command 0x0001 returns a signed attestation report over a nonce. -/
  | attestationReport
  /-- IDENTITY_CERTIFICATE (R399): Mailbox command 0x0002 returns the identity key certificate. -/
  | identityCertificate
  /-- FIRMWARE_IMAGE_WRITE (R398): Mailbox command 0x00F0 writes a signed image into the older slot. -/
  | firmwareImageWrite
  /-- LQSUB (R327): A write to LQSUB_n,q reads a launch record and queues a copy of it. -/
  | lqsub (host : Bool) (t : Tenant) (q : Fin 4) (v : W64)
  /-- INGRESS_RECORD_WRITE (R391): A host doubleword write to an ingress window delivers one address-event record. -/
  | ingressRecordWrite (j : Fin 4) (v : W64) (full : Bool)
  /-- INGRESS_FLUSH_TIMEOUT (R278): TMO µs after the oldest waiting record, the waiting records are sent as a message. -/
  | ingressFlushTimeout (j : Fin 4)
  /-- HOST_BAR2_ACCESS (R390): A host access through BAR2 reaches local LPDDR6 subject to the owner tag and HACC. -/
  | hostBar2Access (off : Nat) (acc : HostAcc) (e : Ecc)
  /-- PCIE_LINK_DOWN (R388): The PCIe link goes down, and host-aperture accesses then take 0x21. -/
  | pcieLinkDown
  /-- HOST_COMPLETION (R388): A completion for a device request to the host returns and is mapped to a fault code or a result. -/
  | hostCompletion (tag : Nat) (st : Cpl)
  /-- COMPLETION_TIMEOUT (R387): A host request reaches its 50 ms completion timeout and takes 0x21. -/
  | completionTimeout (tag : Nat)
  /-- STOLEPEL_LINK_DOWN (R397): A Stolepel link goes down, rerouting peer traffic or parking it. -/
  | stolepelLinkDown (p : RingLink) (cut : List (Fin 4))
  /-- STOLEPEL_LINK_UP (R397): A link returns, and waiting launch forwards and reports proceed. -/
  | stolepelLinkUp (p : RingLink) (mend : List (Fin 4)) (lanes : Nat) (seen : List PeerView)
  /-- LAUNCH_FORWARD (R326): A peer module receives a forwarded launch record and runs its share of tasks. -/
  | launchForward (m : Forward)
  /-- TASK_COMPLETION_REPORT (R326): The accepting module receives a peer's report of a completed task. -/
  | taskCompletionReport (m : Report)
  /-- TINV_PAGE (R64): A TINV write with scope 0 invalidates one page of one tenant. -/
  | tinvPage (v : W64)
  /-- TINV_TENANT (R64): A TINV write with scope 1 invalidates all translations of one tenant. -/
  | tinvTenant (v : W64)
  /-- TINV_ALL (R64): A TINV write with scope 2 invalidates the translations of all tenants. -/
  | tinvAll (v : W64)
  /-- TINV_COMPLETION (R64): An invalidation ends, clearing BUSY and starting any held write. -/
  | tinvCompletion
  /-- OWNCMD (R66): A write changes a granule's owner, zeroing it when the tag differs. -/
  | owncmd (v : W64)
  /-- OWNER_CHANGE_COMPLETION (R66): Zeroing ends, the new tag is set and BUSY clears. -/
  | ownerChangeCompletion
  /-- RESUME_REPLAY (R72): RESUME with ACT 1 replays the matching parked copy or atomic. -/
  | resumeReplay (v : W64)
  /-- RESUME_KILL (R72): RESUME with ACT 2 kills the matching parked copy or atomic. -/
  | resumeKill (v : W64)
  /-- RESUME_NO_ACTION (R72): RESUME with ACT 0 or 3 does nothing and sets RES to 2. -/
  | resumeNoAction (v : W64)
  /-- SVCMD_DELIVER (R320): SVCMD with ACT 1 delivers the answer words to the waiting context. -/
  | svcmdDeliver (v : W64)
  /-- SERVICE_ANSWER_ARRIVAL (R319): A service answer reaches its context, which loads s1 and s2 as an acquire. -/
  | serviceAnswerArrival (c : CoreId) (x : CtxId)
  /-- IFREQ (R355): A write with GO requests a ratio and step for an island. -/
  | ifreq (i : IslandId) (v : W64)
  /-- FQHEAD_WRITE (R71): Firmware frees fault-queue entries, and held records move into the ring. -/
  | fqheadWrite (t : Tenant) (v : W64)
  /-- SQHEAD_WRITE (R320): Firmware frees service-ring entries, and held requests enter the ring. -/
  | sqheadWrite (t : Tenant) (v : W64)
  /-- REGISTER_WRITE (R9): A write to a register without a row of its own acts by its access codes. -/
  | registerWrite (host : Bool) (r : Reg) (v : W64)
  /-- GOVERNOR_INTERVAL_BOUNDARY (R349): Each 100 µs boundary runs the grant, target and warning steps for every island. -/
  | governorIntervalBoundary
  /-- LOWERING_DUE (R360): DUE reaches 0, and a pending lowering is carried out or lapses. -/
  | loweringDue (i : IslandId)
  /-- ENERGY_TICK (R346): Each 1 µs tick apportions rail energy to accounts and jtask. -/
  | energyTick (rail : List Nat) (oh emod : Nat) (temps : List Nat)
  /-- RAMP_TICK (R354): Each 100 ns tick moves an island's voltage and frequency toward its target. -/
  | rampTick (slope : Slope)
  /-- DROOP_TRIP (R356): The droop detector trips and the stretcher lengthens cycles. -/
  | droopTrip (i : IslandId)
  /-- OVERCURRENT (R356): Sensed current exceeds ILIM and the stretcher acts. -/
  | overcurrent (i : IslandId) (ma : Nat)
  /-- THERMAL_CRITICAL (R356): TEMP reaches TCRIT and the island's clock is halved. -/
  | thermalCritical (i : IslandId) (temp : Nat)
  /-- THERMAL_RECOVERY (R356): TEMP falls below TWARN and the thermal halving ends. -/
  | thermalRecovery (i : IslandId) (temp : Nat)
  /-- THROTTLE_WINDOW_CLOSE (R93): Every 1,024 fabric cycles an island computes DRATIO and sets its throttle. -/
  | throttleWindowClose
  /-- FLIT_INJECTION (R87): A router injects a waiting flit once the injection conditions admit it. -/
  | flitInjection (r : RouterId)
  /-- FLIT_ROUTING (R86): Flits at a router are ranked and ejected, forwarded or deflected. -/
  | flitRouting (drops : List (RouterId × Lane))
  /-- CREDIT_RETURN (R88): A flight credit returns to its router. -/
  | creditReturn (r : RouterId) (n : Nat)
  /-- CREDIT_EXPIRY (R88): A credit has not returned after 8,224 cycles, so the flit is lost and sent again. -/
  | creditExpiry (r : RouterId) (n : Nat)
  /-- LOSS_NOTICE (R95): A slice's loss notice makes the landing unit re-request the sectors. -/
  | lossNotice (c : CoreId) (n : Nat)
  /-- READ_REQUEST (R92): A read request reaches its slice and opens or joins a multicast window, or is answered by unicast. -/
  | readRequest (i : SliceId) (n : Nat)
  /-- MULTICAST_WINDOW_CLOSE (R92): 32 fabric cycles after it opened, the window closes and is answered. -/
  | multicastWindowClose (i : SliceId) (n : Nat)
  /-- LINE_FILL (R74): Line data arrives from the channel into the slice. -/
  | lineFill (i : SliceId) (n : Nat) (e : Ecc)
  /-- SECTOR_LANDING (R107): A read reply reaches the landing unit and is held or committed in landing order. -/
  | sectorLanding (c : CoreId) (n : Nat)
  /-- SECTOR_WRITE (R74): A write sector reaches its slice and is performed. -/
  | sectorWrite (i : SliceId) (n : Nat) (e : Ecc)
  /-- WRITE_ACKNOWLEDGEMENT (R118): An acknowledgement advances the S word's performed prefix. -/
  | writeAcknowledgement (c : CoreId) (n : Nat)
  /-- ATOMIC_REQUEST (R259): An atomic is performed at its slice, scratchpad port or host. -/
  | atomicRequest (r : RouterId) (n : Nat) (e : Ecc)
  /-- ATOMIC_REPLY (R260): The atomic's old value and status are written as a result block. -/
  | atomicReply (c : CoreId) (n : Nat)
  /-- ACCUMULATE_WRITE (R265): An acopy sector is combined into memory at its slice. -/
  | accumulateWrite (i : SliceId) (n : Nat) (e : Ecc)
  /-- PUT_SECTOR_ARRIVAL (R122): A put sector reaches a window and is committed, held, refused or discarded. -/
  | putSectorArrival (c : CoreId) (n : Nat)
  /-- PUT_ACKNOWLEDGEMENT (R121): A put acknowledgement advances the producer's watermark. -/
  | putAcknowledgement (c : CoreId) (n : Nat)
  /-- PUT_REFUSAL (R89): A put refusal makes the producer send the sector again. -/
  | putRefusal (c : CoreId) (n : Nat)
  /-- PUT_RESEND_DELAY (R122): 256 cycles after a not-covered refusal, the producer sends again. -/
  | putResendDelay (c : CoreId) (id idx : Nat)
  /-- PUT_REFUSAL_LIMIT (R122): After 4,096 not-covered refusals in a row, the put parks with code 0x10. -/
  | putRefusalLimit (c : CoreId) (id idx : Nat)
  /-- PAGE_WALK_COMPLETION (R63): A walk ends, filling the TLBs and setting A and D, or faulting its requesters. -/
  | pageWalkCompletion (i : IslandId) (n : Nat) (bad : Option Nat)
  /-- COPY_PARK (R126): Once its issued requests are answered, a faulting copy parks and posts its record. -/
  | copyPark (c : CoreId) (id : Nat)
  /-- BARRIER_ARRIVAL (R268): An arrival is counted at the object and the completion rule runs. -/
  | barrierArrival (i : SliceId) (n : Nat) (e : Ecc)
  /-- BYTE_DECLARATION (R270): Declared bytes are added to BYTES and the completion rule runs. -/
  | byteDeclaration (i : SliceId) (n : Nat) (e : Ecc)
  /-- BYTE_REPORT (R130): A bound copy's report reduces BYTES and the completion rule runs. -/
  | byteReport (i : SliceId) (n : Nat) (e : Ecc)
  /-- REGISTRATION (R271): A registration reaches the slice and is woken at once or recorded. -/
  | registration (i : SliceId) (n : Nat) (e : Ecc)
  /-- WAKE_UP (R272): A wake-up reaches a core, increments semaphores and frees or re-sends entries. -/
  | wakeUp (c : CoreId) (n : Nat)
  /-- MESSAGE_ARRIVAL (R275): A message reaches the target mailbox and is accepted or refused. -/
  | messageArrival (c : CoreId) (n : Nat)
  /-- MESSAGE_RESEND (R275): Every 256 fabric cycles a refused message is sent again. -/
  | messageResend (c : CoreId) (x : CtxId)
  /-- HANDLER_START (R276): A dormant arrival context starts with a slot's message. -/
  | handlerStart (c : CoreId)
  /-- WATERMARK_STALL_LIMIT (R377): A gated access's stall on parked copies exceeds WSL and traps. -/
  | watermarkStallLimit (c : CoreId) (a : Agent)
  /-- QUEUE_DEADLOCK (R379): After 4,096 cycles without issue and without producers, the core traps. -/
  | queueDeadlock (c : CoreId)
  /-- TRAP_ENTRY (R371): After the drain, trap registers are set and X0 enters the handler. -/
  | trapEntry (c : CoreId)
  /-- SLICE_EXPIRY (R338): A gang's time slice ends and it is pre-empted or given a new slice. -/
  | sliceExpiry (g : Nat)
  /-- PREEMPTION (R381): The dispatcher stops a gang and, after the drain, saves it into slots. -/
  | preemption (g : Nat)
  /-- TASK_COMPLETION (R339): The combiner raises task completion when every completion condition holds. -/
  | taskCompletion (c : CoreId)
  /-- PCIE_LINK_UP (R388): The PCIe link trains and carries traffic again, so host-aperture accesses are sent instead of taking 0x21. -/
  | pcieLinkUp
  /-- LOAD_VALUE_RETURN (R302): The value of an X load comes back from its slice or port and is written to s_d. -/
  | loadValueReturn (c : CoreId) (n : Nat)
  /-- MESSAGE_ACCEPTANCE (R275): A message-acceptance flit reaches the sender, and its msend retires. -/
  | messageAcceptance (c : CoreId) (n : Nat)
  /-- BARRIER_ACKNOWLEDGEMENT (R269): The slice's acknowledgement or answer for barr, bexp or bwait reaches the core, and the word retires. -/
  | barrierAcknowledgement (c : CoreId) (n : Nat)
  /-- FETCH_AHEAD (R32): The device fetches and translates words of the running variant's sections ahead of their sequencers, dropping faults without a record. -/
  | fetchAhead (c : CoreId) (a : Agent) (off : Nat)
  /-- DROOP_CLEAR (R356): The island's droop condition clears and the stretcher stops lengthening cycles. -/
  | droopClear (i : IslandId)
  /-- CURRENT_LIMIT_CLEAR (R356): The island's sensed current falls back to ILIM or below and stretching for current ends. -/
  | currentLimitClear (i : IslandId) (ma : Nat)
  deriving DecidableEq, Repr

/-- A move of the machine: an agent of a core takes its next word, a step of the device happens (log 1), or the line check codes are
told what they will find at the next channel read of a word fetch, a page walk or the dispatcher (log 84), or the outside world acts
(log 63). -/
inductive Turn where
  | issue (core : CoreId) (a : Agent)
  | event (i : Instr)
  | upset (e : Ecc)
  | outside (o : Outside)
  deriving DecidableEq, Repr, Inhabited

end Sys2Proof
end

