-- ==== Sys2Proof/Config.lean ====
section
/-! DEFINITION. What the spec leaves to the implementation or leaves open: constants without a body, so that nothing in
Lean can know their values. A free value is taken at the counter State.draws, which the step that takes it advances
(log 2). -/

namespace Sys2Proof.Config

/-- A free move, for a moment at which nothing says what moves next (log 1). -/
opaque freeTurn : Nat → Turn

/-- A free number, for choices the spec leaves open. -/
opaque freeNat : Nat → Nat

/-- A free 64-bit value. -/
opaque free64 : Nat → BitVec 64

/-- A free 32-bit value. -/
opaque free32 : Nat → BitVec 32

/-- A free byte. -/
opaque freeByte : Nat → BitVec 8

/-- Calibrated energy of an event of a kind, in picojoules (16_energy R346; firmware calibrates it). -/
opaque eventEnergy : Nat → Nat

/-- The root key digest that the mask ROM holds (18_host R398). -/
opaque rootDigest : List (BitVec 8)

/-- The public key that a firmware image carries, the bytes that its signature covers, and the signature (18_host R398; the spec gives the
image no layout). -/
opaque imageKey : List (BitVec 8) → List (BitVec 8)
opaque imageBody : List (BitVec 8) → List (BitVec 8)
opaque imageSignature : List (BitVec 8) → List (BitVec 8)

/-- Modulus and exponent of a public key as carried (18_host R398; the spec gives the key no encoding). -/
opaque keyModulus : List (BitVec 8) → Nat
opaque keyExponent : List (BitVec 8) → Nat

/-- The MAC of a version floor, under a key from the physically unclonable source (18_host R398; the spec names no algorithm). -/
opaque floorMac : BitVec 32 → BitVec 512

/-- Version of a firmware image (18_host R398; the spec gives the image no layout). -/
opaque imageVersion : List (BitVec 8) → BitVec 32

/-- Modulus and private exponent of the identity key, the same at every boot (18_host R399). -/
opaque identityModulus : Nat
opaque identityPrivate : Nat

/-- The mask ROM (18_host R398). -/
opaque romImage : List (BitVec 8)

/-- The certificate of the identity key, as stored in flash (18_host R399). -/
opaque certificate : List (BitVec 8)

/-- The command number of a mailbox request (18_host R392, R398 to R400 give numbers, and the request no layout). -/
opaque commandOfRequest : List (BitVec 8) → Nat

/-- The 64-byte nonce that mailbox command 0x0001 carries (18_host R400). -/
opaque nonceOfRequest : List (BitVec 8) → BitVec 512

/-- How a signed image is carried by mailbox command 0x00F0 (18_host R398 gives no layout). -/
opaque imageOfRequest : List (BitVec 8) → List (BitVec 8)

end Sys2Proof.Config
end

