-- ==== Sys2Proof/WellFormed.lean ====
section
/-! DEFINITION. Which terms of Instr are instructions: the field limits of 02_words R33 to R48 and of the chapters
that own a word, for the fields that the types of Syntax do not already bound. A term that fails has no encoding. -/

namespace Sys2Proof

/-- The four code sections (R28, R32), and the steps of the device, which stand in none. -/
inductive Home where
  /-- .scalar, the words of X -/
  | scalar
  /-- .load and .store alike -/
  | loadStore
  /-- .load only -/
  | load
  /-- .store only -/
  | store
  /-- .compute -/
  | compute
  /-- a step of the device (spec/95) -/
  | device
  deriving DecidableEq, Repr

/-- Which section an instruction stands in. `ctorIdx` is the row of spec/opcode_table.json: rows 0 to 79 are X words,
80 to 102, 115 to 119, 122 and 123 words of L and S, 103 to 110 of L, 111 to 114, 120 and 121 of S, 124 to 209 of C
(R34, R39, R45). -/
def Instr.home (i : Instr) : Home :=
  if i.ctorIdx < 80 then .scalar
  else if i.ctorIdx < 103 then .loadStore
  else if i.ctorIdx < 111 then .load
  else if i.ctorIdx < 115 then .store
  else if i.ctorIdx < 120 then .loadStore
  else if i.ctorIdx < 122 then .store
  else if i.ctorIdx < 124 then .loadStore
  else if i.ctorIdx < 210 then .compute
  else .device

/-- A word of a code section. -/
def Instr.isWord (i : Instr) : Bool := i.home != .device

/-- A mask select names m1 to m7 (R41). -/
def VMod.wf : VMod → Bool
  | .plain => true
  | .mask k => k != 0
  | .guard _ => true

/-- The mod of a word whose destination has elements of format `f`: a mask select only for 32-bit formats (R204, R216). -/
def VMod.wfFor (m : VMod) (f : Fmt) : Bool :=
  match m with
  | .mask k => k != 0 && (f == .f32 || f == .i32)
  | .plain => true
  | .guard _ => true

/-- A bound copy word takes its barrier address from a_(n+1), which needs n ≤ 14 (R39). -/
def Sc.wfBound (o : Sc) : Bool := !o.bar || o.a.toNat ≤ 14

/-- An index list or a window size in a_(n+1) needs n ≤ 14 (R39). -/
def Sc.wfIndexed (o : Sc) : Bool := decide (o.a.toNat ≤ 14)

/-- Formats a shape may name (R162). -/
def Fmt.shapeOk : Fmt → Bool
  | .f32 | .i32 | .i8 | .i4 | .n8 | .n4 => true
  | .bf16 | .fp16 | .e4m3 | .e5m2 | .fp4 | .e8m0 => false

/-- `cas` takes an even v; u belongs to `min` and `max` (R40). -/
def Atom.wf (o : Atom) : Bool :=
  (o.op != .cas || o.v.toNat % 2 == 0) && (!o.u || o.op == .min || o.op == .max)

/-- The row and column limits of `rot` and `bcast` (R45, R217). -/
def Axis.wfCount (ax : Axis) (n : BitVec 6) : Bool :=
  match ax with
  | .row => true
  | .col => decide (n.toNat ≤ 15)

/-- The instruction is one that a section can hold, or a step of the device. -/
def Instr.wf (i : Instr) : Bool :=
  match i with
  | .xSema _ n => n != 0
  | .xSemv _ n => n != 0
  | .lCopy o => o.wfBound
  | .copyO _ _ _ _ _ _ => true
  | .copyPk o c => o.wfBound && decide (c.toNat ≤ 4)
  | .copyUk o c => o.wfBound && decide (c.toNat ≤ 4)
  | .gather o => o.wfIndexed
  | .lOpen _ a _ _ => decide (a.toNat ≤ 14)
  | .wcopy o => o.wfBound
  | .scatter o => o.wfIndexed
  | .lsSema _ n _ => n != 0
  | .lsSemv _ n _ => n != 0
  | .atom32 o => o.wf
  | .atom64 o => o.wf
  | .fadd o => o.m.wf
  | .fsub o => o.m.wf
  | .fmul o => o.m.wf
  | .fdiv o => o.m.wf
  | .fmin o => o.m.wf
  | .fmax o => o.m.wf
  | .fma o => o.m.wf
  | .fms o => o.m.wf
  | .fnma o => o.m.wf
  | .fnms o => o.m.wf
  | .cAdd o => o.m.wf
  | .cSub o => o.m.wf
  | .cMul o => o.m.wf
  | .cMulh o => o.m.wf
  | .cMin o => o.m.wf
  | .cMax o => o.m.wf
  | .cAnd o => o.m.wf
  | .cOr o => o.m.wf
  | .cXor o => o.m.wf
  | .cShl o => o.m.wf
  | .cShr o => o.m.wf
  | .cSel _ _ _ k => k != 0
  | .cMov o => o.m.wf
  | .fabs o => o.m.wf
  | .fneg o => o.m.wf
  | .fsqrt o => o.m.wf
  | .frcp o => o.m.wf
  | .frsqrt o => o.m.wf
  | .fexp2 o => o.m.wf
  | .flog2 o => o.m.wf
  | .ftanh o => o.m.wf
  | .cAbs o => o.m.wf
  | .cNeg o => o.m.wf
  | .cNot o => o.m.wf
  | .cClz o => o.m.wf
  | .cPopc o => o.m.wf
  | .xpose o => o.m.wf
  | .cvt o fmt _ => o.m.wfFor fmt
  | .cvta o fmt _ _ => o.m.wfFor fmt
  | .rot o ax n => o.m.wf && ax.wfCount n
  | .bcast o ax n => o.m.wf && ax.wfCount n
  | .red o _ _ => o.m.wf
  | .vbx o _ => o.m.wf
  | .treemask k _ _ => k == 0 || k == 4
  | .vld _ _ m => m.wf
  | .shape _ _ fmt => fmt.shapeOk
  | .cSema _ n _ => n != 0
  | .cSemv _ n _ => n != 0
  | .mmaBf16 o => !o.ns
  | .mmaFp16 o => !o.ns
  | .mmazBf16 o => !o.ns
  | .mmazFp16 o => !o.ns
  | .xAdd .. | .xSub .. | .xAnd .. | .xOr .. | .xXor .. | .xAndn .. | .xSll .. | .xSrl .. | .xSra .. | .xSlt ..
  | .xSltu .. | .xSeq .. | .xSne .. | .xMin .. | .xMax .. | .xMinu .. | .xMaxu .. | .xSel .. | .xClz ..
  | .xCtz .. | .xPopc .. | .xMul .. | .xMulh .. | .xMulhu .. | .xDiv .. | .xDivu .. | .xRem .. | .xRemu ..
  | .bxp .. | .bxl .. | .xAddi .. | .xAndi .. | .xOri .. | .xXori .. | .xSlti .. | .xSltiu .. | .xLui ..
  | .xSlli .. | .xSrli .. | .xSrai .. | .xBeq .. | .xBne .. | .xBlt .. | .xBge .. | .xBltu .. | .xBgeu ..
  | .xJ .. | .call .. | .jr .. | .callr .. | .ldD .. | .ldW .. | .ldWu .. | .ldH .. | .ldHu .. | .ldB ..
  | .ldBu .. | .stD .. | .stW .. | .stH .. | .stB .. | .fence .. | .xPushValue .. | .xPushBare ..
  | .xPopValue .. | .xPopBare .. | .barr .. | .bexp .. | .bwait .. | .msend .. | .hend .. | .launch ..
  | .rsys .. | .wsys .. | .sys .. | .tret .. | .xEnd .. | .xNop .. | .lsAddi .. | .lsAdd .. | .lsSub ..
  | .lsMul .. | .lsAnd .. | .lsOr .. | .lsXor .. | .lsSll .. | .lsSrl .. | .li .. | .lih .. | .shli ..
  | .shri .. | .lset .. | .lnext .. | .bz .. | .bnz .. | .lsJ .. | .qpopValue .. | .qpopBare ..
  | .qpushValue .. | .qpushBare .. | .hset .. | .prefetch .. | .lClose .. | .put .. | .acopy .. | .wwait ..
  | .wget .. | .wreset .. | .lsNop .. | .lsEnd .. | .cmp .. | .vbxl .. | .vst .. | .pcfg .. | .cloop ..
  | .rtag .. | .rdrop .. | .rstat .. | .ctok .. | .cNop .. | .cEnd .. | .fcsR .. | .fcsW .. | .tld .. | .tst ..
  | .tzero .. | .tscale .. | .tsave .. | .tload .. | .draw .. | .mmaFp4 .. | .mmaI4 .. | .mmaN4 ..
  | .mmaE4m3 .. | .mmaE5m2 .. | .mmaI8 .. | .mmaN8 .. | .mmazFp4 .. | .mmazI4 .. | .mmazN4 .. | .mmazE4m3 ..
  | .mmazE5m2 .. | .mmazI8 .. | .mmazN8 .. | .matrixWordStart .. | .matrixWordCompletion ..
  | .drawCompletion .. | .bankPowerUp .. | .moduleReset .. | .watchdogExpiry .. | .hostDoorbell ..
  | .attestationReport .. | .identityCertificate .. | .firmwareImageWrite .. | .lqsub ..
  | .ingressRecordWrite .. | .ingressFlushTimeout .. | .hostBar2Access .. | .pcieLinkDown ..
  | .hostCompletion .. | .completionTimeout .. | .stolepelLinkDown .. | .stolepelLinkUp .. | .launchForward ..
  | .taskCompletionReport .. | .tinvPage .. | .tinvTenant .. | .tinvAll .. | .tinvCompletion .. | .owncmd ..
  | .ownerChangeCompletion .. | .resumeReplay .. | .resumeKill .. | .resumeNoAction .. | .svcmdDeliver ..
  | .serviceAnswerArrival .. | .ifreq .. | .fqheadWrite .. | .sqheadWrite .. | .registerWrite ..
  | .governorIntervalBoundary .. | .loweringDue .. | .energyTick .. | .rampTick .. | .droopTrip ..
  | .overcurrent .. | .thermalCritical .. | .thermalRecovery .. | .throttleWindowClose .. | .flitInjection ..
  | .flitRouting .. | .creditReturn .. | .creditExpiry .. | .lossNotice .. | .readRequest ..
  | .multicastWindowClose .. | .lineFill .. | .sectorLanding .. | .sectorWrite .. | .writeAcknowledgement ..
  | .atomicRequest .. | .atomicReply .. | .accumulateWrite .. | .putSectorArrival .. | .putAcknowledgement ..
  | .putRefusal .. | .putResendDelay .. | .putRefusalLimit .. | .pageWalkCompletion .. | .copyPark ..
  | .barrierArrival .. | .byteDeclaration .. | .byteReport .. | .registration .. | .wakeUp ..
  | .messageArrival .. | .messageResend .. | .handlerStart .. | .watermarkStallLimit .. | .queueDeadlock ..
  | .trapEntry .. | .sliceExpiry .. | .preemption .. | .taskCompletion .. | .pcieLinkUp ..
  | .loadValueReturn .. | .messageAcceptance .. | .barrierAcknowledgement .. | .fetchAhead .. | .droopClear ..
  | .currentLimitClear .. => true

end Sys2Proof
end

