-- ==== Sys2Proof/Decode.lean ====
section
/-! DEFINITION. From the bits of a code word to its instruction, section by section (02_words R33 to R48), and back.
The same bits mean different words in different sections (R39), so decoding takes the section. A word that is no
instruction is refused by the name of the case of R48 it falls under. -/

namespace Sys2Proof

/-- Why a word is no instruction (R48). -/
inductive BadWord where
  /-- its major opcode is unassigned in its section's map -/
  | opcode
  /-- its function or sub-function code is unassigned -/
  | function
  /-- a field that its format or map row fixes is not as fixed -/
  | zeroField
  /-- a field value lies outside the limits stated -/
  | limit
  /-- fewer bytes than a word -/
  | truncated
  deriving DecidableEq, Repr

/-- Sections of code that decoding distinguishes (R28, R39). -/
inductive Sect where
  | scalar | load | compute | store
  deriving DecidableEq, Repr

/-! ### Bit fields -/

/-- Field of `n` bits of word `w` whose lowest bit is `lo`, as a number. -/
def field (w lo n : Nat) : Nat := w / 2 ^ lo % 2 ^ n

/-- The same field as a bit vector. -/
def bvField (n w lo : Nat) : BitVec n := BitVec.ofNat n (w / 2 ^ lo)

/-- One bit as a truth value. -/
def bitField (w i : Nat) : Bool := w / 2 ^ i % 2 == 1

/-- An instruction if `zero` (the fixed fields are as fixed) and `lim` (the limits hold). -/
def accept (zero lim : Bool) (i : Instr) : Except BadWord Instr :=
  if !zero then .error .zeroField else if !lim then .error .limit else .ok i

/-! ### Codes of the named fields -/

/-- Hint codes (R33). -/
def Hint.ofCode : Nat → Hint
  | 0 => .dflt
  | 1 => .stream
  | 2 => .sticky
  | _ => .bypass

/-- Hint codes (R33). -/
def Hint.code : Hint → Nat
  | .dflt => 0
  | .stream => 1
  | .sticky => 2
  | .bypass => 3

/-- Scope codes (R33). -/
def Scope.ofCode : Nat → Scope
  | 0 => .core
  | 1 => .island
  | 2 => .device
  | _ => .system

/-- Scope codes (R33). -/
def Scope.code : Scope → Nat
  | .core => 0
  | .island => 1
  | .device => 2
  | .system => 3

/-- Peer codes; code 3 is unassigned (R34, R36). -/
def Peer.ofCode : Nat → Option Peer
  | 0 => some .first
  | 1 => some .second
  | 2 => some .third
  | _ => none

/-- Peer codes (R34, R36). -/
def Peer.code : Peer → Nat
  | .first => 0
  | .second => 1
  | .third => 2

/-- Format codes; 12 to 15 are unassigned (R44). -/
def Fmt.ofCode : Nat → Option Fmt
  | 0 => some .f32
  | 1 => some .bf16
  | 2 => some .fp16
  | 3 => some .e4m3
  | 4 => some .e5m2
  | 5 => some .fp4
  | 6 => some .i32
  | 7 => some .i8
  | 8 => some .i4
  | 9 => some .n8
  | 10 => some .n4
  | 11 => some .e8m0
  | _ => none

/-- Format codes (R44). -/
def Fmt.code : Fmt → Nat
  | .f32 => 0
  | .bf16 => 1
  | .fp16 => 2
  | .e4m3 => 3
  | .e5m2 => 4
  | .fp4 => 5
  | .i32 => 6
  | .i8 => 7
  | .i4 => 8
  | .n8 => 9
  | .n4 => 10
  | .e8m0 => 11

/-- Rounding codes; 6 and 7 are unassigned (R44). -/
def Rnd.ofCode : Nat → Option Rnd
  | 0 => some .rne
  | 1 => some .rtz
  | 2 => some .rup
  | 3 => some .rdn
  | 4 => some .rod
  | 5 => some .dyn
  | _ => none

/-- Rounding codes (R44). -/
def Rnd.code : Rnd → Nat
  | .rne => 0
  | .rtz => 1
  | .rup => 2
  | .rdn => 3
  | .rod => 4
  | .dyn => 5

/-- Condition codes; 8 to 15 are unassigned (R45). -/
def Cond.ofCode : Nat → Option Cond
  | 0 => some .eq
  | 1 => some .ne
  | 2 => some .lt
  | 3 => some .le
  | 4 => some .gt
  | 5 => some .ge
  | 6 => some .uo
  | 7 => some .ord
  | _ => none

/-- Condition codes (R45). -/
def Cond.code : Cond → Nat
  | .eq => 0
  | .ne => 1
  | .lt => 2
  | .le => 3
  | .gt => 4
  | .ge => 5
  | .uo => 6
  | .ord => 7

/-- Axis bit (R45). -/
def Axis.ofBit (b : Bool) : Axis := if b then .col else .row

/-- Axis bit (R45). -/
def Axis.code : Axis → Nat
  | .row => 0
  | .col => 1

/-- Operation codes of `red` (R45). -/
def RedOp.ofCode : Nat → RedOp
  | 0 => .fadd
  | 1 => .fmax
  | 2 => .fmin
  | 3 => .add
  | 4 => .max
  | 5 => .min
  | 6 => .and
  | _ => .or

/-- Operation codes of `red` (R45). -/
def RedOp.code : RedOp → Nat
  | .fadd => 0
  | .fmax => 1
  | .fmin => 2
  | .add => 3
  | .max => 4
  | .min => 5
  | .and => 6
  | .or => 7

/-- aop codes (R40). -/
def AtomOp.ofCode : Nat → AtomOp
  | 0 => .add
  | 1 => .min
  | 2 => .max
  | 3 => .and
  | 4 => .or
  | 5 => .xor
  | 6 => .swap
  | _ => .cas

/-- aop codes (R40). -/
def AtomOp.code : AtomOp → Nat
  | .add => 0
  | .min => 1
  | .max => 2
  | .and => 3
  | .or => 4
  | .xor => 5
  | .swap => 6
  | .cas => 7

/-- ord codes of an atomic (R40). -/
def AtomOrd.ofCode : Nat → AtomOrd
  | 0 => .relaxed
  | 1 => .acquire
  | 2 => .release
  | _ => .acqRel

/-- ord codes of an atomic (R40). -/
def AtomOrd.code : AtomOrd → Nat
  | .relaxed => 0
  | .acquire => 1
  | .release => 2
  | .acqRel => 3

/-- Operation codes of `acopy`; 3 is illegal (R39, R265). -/
def AccOp.ofCode : Nat → Option AccOp
  | 0 => some .add
  | 1 => some .min
  | 2 => some .max
  | _ => none

/-- Operation codes of `acopy` (R39). -/
def AccOp.code : AccOp → Nat
  | .add => 0
  | .min => 1
  | .max => 2

/-- Format codes of `acopy`; 3 is illegal (R39, R265). -/
def AccFmt.ofCode : Nat → Option AccFmt
  | 0 => some .f32
  | 1 => some .bf16
  | 2 => some .i32
  | _ => none

/-- Format codes of `acopy` (R39). -/
def AccFmt.code : AccFmt → Nat
  | .f32 => 0
  | .bf16 => 1
  | .i32 => 2

/-- Format codes of `tsave` and `tload`; 3 is illegal (R42, R237). -/
def TileFmt.ofCode : Nat → Option TileFmt
  | 0 => some .f32
  | 1 => some .bf16
  | 2 => some .fp16
  | _ => none

/-- Format codes of `tsave` and `tload` (R42). -/
def TileFmt.code : TileFmt → Nat
  | .f32 => 0
  | .bf16 => 1
  | .fp16 => 2

/-- The mod field of a vector word (R41): bit 3 marks a guard, 0 is neither, else a mask select. -/
def VMod.ofCode (m : Nat) : VMod :=
  if m / 8 % 2 == 1 then .guard (BitVec.ofNat 3 m)
  else if m % 8 == 0 then .plain
  else .mask (BitVec.ofNat 3 m)

/-- The mod field of a vector word (R41). -/
def VMod.code : VMod → Nat
  | .plain => 0
  | .mask k => k.toNat
  | .guard g => 8 + g.toNat

/-- The mod field of a word that takes a guard and no mask select (R41, R204). -/
def guardOfCode (m : Nat) : Option Guard :=
  if m / 8 % 2 == 1 then some (some (BitVec.ofNat 3 m))
  else if m % 8 == 0 then some none
  else none

/-- The mod field of a guard (R41). -/
def guardCode : Guard → Nat
  | none => 0
  | some g => 8 + g.toNat

/-- A truth value as a bit. -/
def bitCode (b : Bool) : Nat := if b then 1 else 0

/-! ### The X section (R33 to R35) -/

/-- The ALU group, opcode 0x00 (R35). -/
def decodeXAlu (w : Nat) : Except BadWord Instr :=
  let d := bvField 5 w 21
  let a := bvField 5 w 16
  let b := bvField 5 w 11
  let c0 := field w 6 5 == 0
  match field w 0 6 with
  | 0x01 => accept c0 true (.xAdd d a b)
  | 0x02 => accept c0 true (.xSub d a b)
  | 0x03 => accept c0 true (.xAnd d a b)
  | 0x04 => accept c0 true (.xOr d a b)
  | 0x05 => accept c0 true (.xXor d a b)
  | 0x06 => accept c0 true (.xAndn d a b)
  | 0x07 => accept c0 true (.xSll d a b)
  | 0x08 => accept c0 true (.xSrl d a b)
  | 0x09 => accept c0 true (.xSra d a b)
  | 0x0A => accept c0 true (.xSlt d a b)
  | 0x0B => accept c0 true (.xSltu d a b)
  | 0x0C => accept c0 true (.xSeq d a b)
  | 0x0D => accept c0 true (.xSne d a b)
  | 0x0E => accept c0 true (.xMin d a b)
  | 0x0F => accept c0 true (.xMax d a b)
  | 0x10 => accept c0 true (.xMinu d a b)
  | 0x11 => accept c0 true (.xMaxu d a b)
  | 0x12 => .ok (.xSel d a b (bvField 5 w 6))
  | 0x13 => accept (field w 6 10 == 0) true (.xClz d a)
  | 0x14 => accept (field w 6 10 == 0) true (.xCtz d a)
  | 0x15 => accept (field w 6 10 == 0) true (.xPopc d a)
  | _ => .error .function

/-- The multiply and divide group, opcode 0x01 (R35). -/
def decodeXMul (w : Nat) : Except BadWord Instr :=
  let d := bvField 5 w 21
  let a := bvField 5 w 16
  let b := bvField 5 w 11
  let c0 := field w 6 5 == 0
  match field w 0 6 with
  | 0x01 => accept c0 true (.xMul d a b)
  | 0x02 => accept c0 true (.xMulh d a b)
  | 0x03 => accept c0 true (.xMulhu d a b)
  | 0x04 => accept c0 true (.xDiv d a b)
  | 0x05 => accept c0 true (.xDivu d a b)
  | 0x06 => accept c0 true (.xRem d a b)
  | 0x07 => accept c0 true (.xRemu d a b)
  | _ => .error .function

/-- The bit network group, opcode 0x02 (R35): b = 0 and c[4:3] = 0. -/
def decodeXBit (w : Nat) : Except BadWord Instr :=
  let a := bvField 5 w 16
  match field w 0 6 with
  | 0x01 => accept (field w 9 7 == 0) true (.bxp (bvField 5 w 21) a (bvField 3 w 6))
  | 0x02 => accept (field w 9 7 == 0 && field w 21 5 == 0) true (.bxl a (bvField 3 w 6))
  | _ => .error .function

/-- An X memory word: the scope field must be 0 when ord is 0 (R33). -/
def decodeXMem (w : Nat) (mk : XMem → Instr) : Except BadWord Instr :=
  let ord := bitField w 13
  accept (ord || field w 11 2 == 0) true
    (mk { d := bvField 5 w 21, a := bvField 5 w 16, hint := Hint.ofCode (field w 14 2),
          ord := if ord then some (Scope.ofCode (field w 11 2)) else none, off := bvField 11 w 0 })

/-- `push` and `pop` (R34, R311): val at bit 13, peer at [15:14], the register that a bare form leaves zero. -/
def decodeXQueue (w : Nat) (push : Bool) : Except BadWord Instr :=
  match Peer.ofCode (field w 14 2) with
  | none => .error .limit
  | some p =>
    let z := field w 0 13 == 0
    match push, bitField w 13 with
    | true, true => accept (z && field w 21 5 == 0) true (.xPushValue (bvField 5 w 16) p)
    | true, false => accept (z && field w 16 10 == 0) true (.xPushBare p)
    | false, true => accept (z && field w 16 5 == 0) true (.xPopValue (bvField 5 w 21) p)
    | false, false => accept (z && field w 16 10 == 0) true (.xPopBare p)

/-- The X map (R34). `w` is a 32-bit word as a number. -/
def decodeX (w : Nat) : Except BadWord Instr :=
  let f25 := bvField 5 w 21
  let f20 := bvField 5 w 16
  let b := bvField 5 w 11
  let imm := bvField 16 w 0
  let z25 := field w 21 5 == 0
  let z20 := field w 16 5 == 0
  match field w 26 6 with
  | 0x00 => decodeXAlu w
  | 0x01 => decodeXMul w
  | 0x02 => decodeXBit w
  | 0x04 => .ok (.xAddi f25 f20 imm)
  | 0x05 => .ok (.xAndi f25 f20 imm)
  | 0x06 => .ok (.xOri f25 f20 imm)
  | 0x07 => .ok (.xXori f25 f20 imm)
  | 0x08 => .ok (.xSlti f25 f20 imm)
  | 0x09 => .ok (.xSltiu f25 f20 imm)
  | 0x0A => accept z20 true (.xLui f25 imm)
  | 0x0B => accept (field w 6 10 == 0) true (.xSlli f25 f20 (bvField 6 w 0))
  | 0x0C => accept (field w 6 10 == 0) true (.xSrli f25 f20 (bvField 6 w 0))
  | 0x0D => accept (field w 6 10 == 0) true (.xSrai f25 f20 (bvField 6 w 0))
  | 0x10 => .ok (.xBeq f25 f20 imm)
  | 0x11 => .ok (.xBne f25 f20 imm)
  | 0x12 => .ok (.xBlt f25 f20 imm)
  | 0x13 => .ok (.xBge f25 f20 imm)
  | 0x14 => .ok (.xBltu f25 f20 imm)
  | 0x15 => .ok (.xBgeu f25 f20 imm)
  | 0x16 => .ok (.xJ (bvField 26 w 0))
  | 0x17 => .ok (.call (bvField 26 w 0))
  | 0x18 => accept z25 true (.jr f20 imm)
  | 0x19 => accept (field w 0 16 == 0) true (.callr f25 f20)
  | 0x20 => decodeXMem w .ldD
  | 0x21 => decodeXMem w .ldW
  | 0x22 => decodeXMem w .ldWu
  | 0x23 => decodeXMem w .ldH
  | 0x24 => decodeXMem w .ldHu
  | 0x25 => decodeXMem w .ldB
  | 0x26 => decodeXMem w .ldBu
  | 0x28 => decodeXMem w .stD
  | 0x29 => decodeXMem w .stW
  | 0x2A => decodeXMem w .stH
  | 0x2B => decodeXMem w .stB
  | 0x2C => accept (z25 && z20 && field w 13 3 == 1 && field w 0 11 == 0) true (.fence (Scope.ofCode (field w 11 2)))
  | 0x30 => decodeXQueue w true
  | 0x31 => decodeXQueue w false
  | 0x32 => accept (z25 && z20) (field w 0 10 != 0) (.xSema (bvField 6 w 10) (bvField 10 w 0))
  | 0x33 => accept (z25 && z20) (field w 0 10 != 0) (.xSemv (bvField 6 w 10) (bvField 10 w 0))
  | 0x34 => accept (z25 && field w 0 16 == 0) true (.barr f20)
  | 0x35 => accept (z25 && field w 0 11 == 0) true (.bexp f20 b)
  | 0x36 => accept (z25 && field w 0 5 == 0) true (.bwait f20 b (bvField 6 w 5))
  | 0x37 => accept (field w 0 11 == 0) true (.msend f25 f20 b)
  | 0x38 => accept (field w 0 26 == 0) true .hend
  | 0x39 => accept (z25 && field w 0 14 == 0) true (.launch f20 (bvField 2 w 14))
  | 0x3A => accept z20 true (.rsys f25 imm)
  | 0x3B => accept z25 true (.wsys f20 imm)
  | 0x3C => accept (z25 && z20) true (.sys imm)
  | 0x3D => accept (field w 0 26 == 0) true .tret
  | 0x3E => accept (field w 0 26 == 0) true .xEnd
  | 0x3F => accept (field w 0 26 == 0) true .xNop
  | _ => .error .opcode

/-! ### The L and S sections (R36 to R40) -/

/-- The register group, opcode 0x02 (R39). -/
def decodeLSReg (w : Nat) : Except BadWord Instr :=
  let d := bvField 4 w 22
  let a := bvField 4 w 18
  let b := bvField 4 w 14
  let t := bvField 6 w 0
  match field w 6 8 with
  | 0x01 => .ok (.lsAdd d a b t)
  | 0x02 => .ok (.lsSub d a b t)
  | 0x03 => .ok (.lsMul d a b t)
  | 0x04 => .ok (.lsAnd d a b t)
  | 0x05 => .ok (.lsOr d a b t)
  | 0x06 => .ok (.lsXor d a b t)
  | 0x07 => .ok (.lsSll d a b t)
  | 0x08 => .ok (.lsSrl d a b t)
  | _ => .error .function

/-- `qpop` and `qpush` (R39, R100): val at bit 19, peer at [21:20]; a bare form leaves the register field zero. -/
def decodeLSQueue (w : Nat) (push : Bool) : Except BadWord Instr :=
  match Peer.ofCode (field w 20 2) with
  | none => .error .limit
  | some p =>
    let z := field w 6 13 == 0
    let r := bvField 4 w 22
    let t := bvField 6 w 0
    match push, bitField w 19 with
    | true, true => accept z true (.qpushValue r p t)
    | true, false => accept (z && field w 22 4 == 0) true (.qpushBare p t)
    | false, true => accept z true (.qpopValue r p t)
    | false, false => accept (z && field w 22 4 == 0) true (.qpopBare p t)

/-- The fields of a copy word (format SC, R36). -/
def scOf (w : Nat) : Sc :=
  { h := bvField 6 w 20, w := bvField 4 w 16, a := bvField 4 w 12, hint := Hint.ofCode (field w 10 2),
    bar := bitField w 9, t := bvField 6 w 0 }

/-- The fields of an atomic (format ST, R36, R40). -/
def atomOf (w : Nat) : Atom :=
  { a := bvField 4 w 22, v := bvField 4 w 18, res := bvField 4 w 14, op := AtomOp.ofCode (field w 11 3),
    ord := AtomOrd.ofCode (field w 9 2), scope := Scope.ofCode (field w 7 2), u := bitField w 6, t := bvField 6 w 0 }

/-- The opcodes that L and S share (R39). -/
def decodeLS (w : Nat) : Except BadWord Instr :=
  let t := bvField 6 w 0
  let r25 := bvField 4 w 22
  let r21 := bvField 4 w 18
  let lc := bvField 2 w 20
  let off := bvField 12 w 6
  match field w 26 6 with
  | 0x01 => .ok (.lsAddi r25 r21 off t)
  | 0x02 => decodeLSReg w
  | 0x03 => .ok (.li r25 (bvField 16 w 6) t)
  | 0x04 => .ok (.lih r25 (bvField 16 w 6) t)
  | 0x05 => accept (field w 12 6 == 0) true (.shli r25 r21 (bvField 6 w 6) t)
  | 0x06 => accept (field w 12 6 == 0) true (.shri r25 r21 (bvField 6 w 6) t)
  | 0x08 => accept (field w 6 14 == 0) true (.lset r25 lc t)
  | 0x09 => accept (field w 18 2 == 0 && field w 22 4 == 0) true (.lnext lc off t)
  | 0x0A => accept (field w 18 4 == 0) true (.bz r25 off t)
  | 0x0B => accept (field w 18 4 == 0) true (.bnz r25 off t)
  | 0x0C => .ok (.lsJ (bvField 20 w 6) t)
  | 0x0D => decodeLSQueue w false
  | 0x0E => decodeLSQueue w true
  | 0x0F => accept (field w 16 4 == 0 && field w 8 4 == 0) true
      (.hset (bvField 6 w 20) (bvField 4 w 12) (bvField 2 w 6) t)
  | 0x18 => accept (field w 6 12 == 0) true (.wwait r25 r21 t)
  | 0x19 => accept (field w 6 12 == 0) true (.wget r25 r21 t)
  | 0x1A => accept (field w 6 12 == 0 && field w 22 4 == 0) true (.wreset r21 t)
  | 0x1B => accept true (field w 6 14 != 0) (.lsSema (bvField 6 w 20) (bvField 14 w 6) t)
  | 0x1C => accept true (field w 6 14 != 0) (.lsSemv (bvField 6 w 20) (bvField 14 w 6) t)
  | 0x3E => accept (field w 6 20 == 0) true (.lsNop t)
  | 0x3F => accept (field w 6 20 == 0) true (.lsEnd t)
  | _ => .error .opcode

/-- The L map (R39). -/
def decodeL (w : Nat) : Except BadWord Instr :=
  let o := scOf w
  let c := bvField 3 w 6
  let mod6 := field w 6 3 == 0
  match field w 26 6 with
  | 0x10 => accept mod6 o.wfBound (.lCopy o)
  | 0x11 => accept (mod6 && field w 12 1 == 0) true (.copyO o.h o.w (bvField 3 w 13) o.hint o.bar o.t)
  | 0x12 => accept true (o.wfBound && decide (c.toNat ≤ 4)) (.copyPk o c)
  | 0x13 => accept true (o.wfBound && decide (c.toNat ≤ 4)) (.copyUk o c)
  | 0x14 => accept mod6 o.wfIndexed (.gather o)
  | 0x15 => accept (field w 16 4 == 0 && field w 6 4 == 0) true (.prefetch o.h o.a o.hint o.t)
  | 0x16 => accept (field w 20 6 == 0 && field w 6 4 == 0) (decide (o.a.toNat ≤ 14)) (.lOpen o.w o.a o.hint o.t)
  | 0x17 => accept (field w 20 6 == 0 && field w 6 10 == 0) true (.lClose o.w o.t)
  | _ => decodeLS w

/-- The S map (R39, R40). -/
def decodeS (w : Nat) : Except BadWord Instr :=
  let o := scOf w
  let mod6 := field w 6 3 == 0
  match field w 26 6 with
  | 0x10 => accept mod6 o.wfBound (.wcopy o)
  | 0x11 => accept mod6 o.wfIndexed (.scatter o)
  | 0x12 => accept (field w 6 4 == 0) true (.put o.h o.w o.a o.hint o.t)
  | 0x13 =>
    match AccOp.ofCode (field w 8 2), AccFmt.ofCode (field w 6 2) with
    | some op, some fmt => .ok (.acopy o.h o.w o.a o.hint op fmt o.t)
    | _, _ => .error .limit
  | 0x20 => accept true (atomOf w).wf (.atom32 (atomOf w))
  | 0x21 => accept true (atomOf w).wf (.atom64 (atomOf w))
  | _ => decodeLS w

/-! ### The C section (R41 to R46) -/

/-- Fields d, a, b and mod of a vector word (R41). -/
def v3Of (w : Nat) : V3 :=
  { d := bvField 7 w 18, a := bvField 7 w 11, b := bvField 7 w 4, m := VMod.ofCode (field w 0 4) }

/-- Fields d, a and mod of a vector word (R41). -/
def v2Of (w : Nat) : V2 :=
  { d := bvField 7 w 18, a := bvField 7 w 11, m := VMod.ofCode (field w 0 4) }

/-- A word that takes a guard and no mask select (R41, R204). -/
def acceptGuard (w : Nat) (zero lim : Bool) (mk : Guard → Instr) : Except BadWord Instr :=
  match guardOfCode (field w 0 4) with
  | none => .error .limit
  | some g => accept zero lim (mk g)

/-- The unary group, opcode 0x18 (R46). -/
def decodeCUnary (w : Nat) : Except BadWord Instr :=
  let o := v2Of w
  match field w 4 7 with
  | 0x01 => .ok (.cMov o)
  | 0x02 => .ok (.fabs o)
  | 0x03 => .ok (.fneg o)
  | 0x04 => .ok (.fsqrt o)
  | 0x05 => .ok (.frcp o)
  | 0x06 => .ok (.frsqrt o)
  | 0x07 => .ok (.fexp2 o)
  | 0x08 => .ok (.flog2 o)
  | 0x09 => .ok (.ftanh o)
  | 0x0A => .ok (.cAbs o)
  | 0x0B => .ok (.cNeg o)
  | 0x0C => .ok (.cNot o)
  | 0x0D => .ok (.cClz o)
  | 0x0E => .ok (.cPopc o)
  | _ => .error .function

/-- `cvt` and `cvta` (R45, R215): the format at b[6:3]; a mask select only for 32-bit formats (R216). -/
def decodeCvt (w : Nat) (toAm : Bool) : Except BadWord Instr :=
  let o := v2Of w
  match Fmt.ofCode (field w 7 4) with
  | none => .error .limit
  | some fmt =>
    match toAm, Rnd.ofCode (field w 4 3) with
    | true, _ => accept true (o.m.wfFor fmt) (.cvta o fmt (bvField 2 w 5) (bitField w 4))
    | false, some rnd => accept true (o.m.wfFor fmt) (.cvt o fmt rnd)
    | false, none => .error .limit

/-- The recipe words, opcode 0x26 (R45, R169, R172, R175). -/
def decodeCTag (w : Nat) : Except BadWord Instr :=
  let d := bvField 7 w 18
  match field w 9 2 with
  | 0 => acceptGuard w (field w 11 7 == 0) true (.rtag d (bvField 5 w 4))
  | 1 => acceptGuard w (field w 11 7 == 0 && field w 4 5 == 0) true (.rdrop d)
  | 2 => acceptGuard w (field w 4 5 == 0) true (.rstat d (bvField 7 w 11))
  | _ => .error .function

/-- Opcode 0x28 (R45, R224): nop, end, sema and semv. -/
def decodeCCtl (w : Nat) : Except BadWord Instr :=
  let k := bvField 6 w 18
  let n := bvField 7 w 11
  let fixed := field w 11 14 == 0 && field w 4 5 == 0 && field w 0 4 == 0
  let semOk := field w 24 1 == 0 && field w 4 5 == 0
  match field w 9 2 with
  | 0 => accept fixed true .cNop
  | 1 => accept fixed true .cEnd
  | 2 => acceptGuard w semOk (n != 0) (.cSema k n)
  | _ => acceptGuard w semOk (n != 0) (.cSemv k n)

/-- Fields of `mma` and `mmaz` (R42). -/
def mmaOf (w : Nat) : Mma :=
  { tile := bvField 3 w 22, ra := bvField 3 w 19, rb := bvField 3 w 16, st := bvField 2 w 14, kc := bvField 4 w 10,
    zs := bitField w 9, ta := bitField w 8, tb := bitField w 7, ns := bitField w 6, t := bvField 6 w 0 }

/-- The tile words, opcodes 0x29 to 0x2C (R42, R45). -/
def decodeCTile (w : Nat) : Except BadWord Instr :=
  let tile := bvField 3 w 22
  let st := bvField 2 w 20
  let t := bvField 6 w 0
  match field w 25 6 with
  | 0x29 =>
    let v := bvField 7 w 15
    let q := bvField 2 w 13
    let st := bvField 2 w 11
    accept (field w 6 4 == 0) true (if bitField w 10 then .tst tile v q st t else .tld tile v q st t)
  | 0x2A =>
    if bitField w 19 then accept (field w 6 6 == 0) true (.tscale tile st (bvField 7 w 12) t)
    else accept (field w 6 13 == 0) true (.tzero tile st t)
  | 0x2B =>
    match TileFmt.ofCode (field w 17 2) with
    | none => .error .limit
    | some fmt =>
      .ok (if bitField w 19 then .tsave tile st fmt (bvField 11 w 6) t else .tload tile st fmt (bvField 11 w 6) t)
  | _ =>
    let v := bvField 7 w 6
    if bitField w 13 then .ok (.draw tile st (some (bvField 6 w 14)) v t)
    else accept (field w 14 6 == 0) true (.draw tile st none v t)

/-- The C map without the chain bit (R45). -/
def decodeCWord (w : Nat) : Except BadWord Instr :=
  let v3 := v3Of w
  let v2 := v2Of w
  let d := bvField 7 w 18
  let a := bvField 7 w 11
  let m := mmaOf w
  let v3ok := accept true v3.m.wf
  match field w 25 6 with
  | 0x01 => v3ok (.fadd v3)
  | 0x02 => v3ok (.fsub v3)
  | 0x03 => v3ok (.fmul v3)
  | 0x04 => v3ok (.fdiv v3)
  | 0x05 => v3ok (.fmin v3)
  | 0x06 => v3ok (.fmax v3)
  | 0x07 => v3ok (.fma v3)
  | 0x08 => v3ok (.fms v3)
  | 0x09 => v3ok (.fnma v3)
  | 0x0A => v3ok (.fnms v3)
  | 0x0B => v3ok (.cAdd v3)
  | 0x0C => v3ok (.cSub v3)
  | 0x0D => v3ok (.cMul v3)
  | 0x0E => v3ok (.cMulh v3)
  | 0x0F => v3ok (.cMin v3)
  | 0x10 => v3ok (.cMax v3)
  | 0x11 => v3ok (.cAnd v3)
  | 0x12 => v3ok (.cOr v3)
  | 0x13 => v3ok (.cXor v3)
  | 0x14 => v3ok (.cShl v3)
  | 0x15 => v3ok (.cShr v3)
  | 0x16 =>
    match Cond.ofCode (field w 21 4) with
    | none => .error .limit
    | some cond => acceptGuard w true true (.cmp cond (bvField 3 w 18) a (bvField 7 w 4))
  | 0x17 => accept true (field w 3 1 == 0 && field w 0 3 != 0) (.cSel d a (bvField 7 w 4) (bvField 3 w 0))
  | 0x18 => decodeCUnary w
  | 0x19 => decodeCvt w false
  | 0x1A => decodeCvt w true
  | 0x1B => accept true ((Axis.ofBit (bitField w 10)).wfCount (bvField 6 w 4)) (.rot v2 (Axis.ofBit (bitField w 10)) (bvField 6 w 4))
  | 0x1C => accept true ((Axis.ofBit (bitField w 10)).wfCount (bvField 6 w 4)) (.bcast v2 (Axis.ofBit (bitField w 10)) (bvField 6 w 4))
  | 0x1D => accept (field w 4 3 == 0) true (.red v2 (Axis.ofBit (bitField w 10)) (RedOp.ofCode (field w 7 3)))
  | 0x1E => accept (field w 4 7 == 0) true (.xpose v2)
  | 0x1F =>
    if bitField w 10 then acceptGuard w (field w 18 7 == 0 && field w 7 3 == 0) true (.vbxl a (bvField 3 w 4))
    else accept (field w 7 3 == 0) true (.vbx v2 (bvField 3 w 4))
  | 0x20 => acceptGuard w (field w 21 4 == 0 && field w 4 7 == 0) (field w 18 2 == 0) (.treemask (bvField 3 w 18) a)
  | 0x21 => accept (field w 13 5 == 0 && field w 4 7 == 0) true (.vld d (bvField 2 w 11) v2.m)
  | 0x22 => acceptGuard w (field w 20 5 == 0 && field w 4 7 == 0) true (.vst (bvField 2 w 18) a)
  | 0x23 => acceptGuard w (field w 20 5 == 0 && field w 4 7 == 0) true (.pcfg (bvField 2 w 18) a)
  | 0x24 =>
    match Fmt.ofCode (field w 4 4) with
    | none => .error .limit
    | some fmt =>
      accept (field w 18 7 == 0 && field w 0 4 == 0) fmt.shapeOk (.shape (bvField 4 w 14) (bvField 6 w 8) fmt)
  | 0x25 => accept (field w 0 11 == 0) true (.cloop (bvField 14 w 11))
  | 0x26 => decodeCTag w
  | 0x27 =>
    if bitField w 10 then accept (field w 18 7 == 0 && field w 6 4 == 0) true (.ctok (some a) (bvField 6 w 0))
    else accept (field w 11 14 == 0 && field w 6 4 == 0) true (.ctok none (bvField 6 w 0))
  | 0x28 => decodeCCtl w
  | 0x29 => decodeCTile w
  | 0x2A => decodeCTile w
  | 0x2B => decodeCTile w
  | 0x2C => decodeCTile w
  | 0x2D => .ok (.mmaFp4 m)
  | 0x2E => .ok (.mmaI4 m)
  | 0x2F => .ok (.mmaN4 m)
  | 0x30 => .ok (.mmaE4m3 m)
  | 0x31 => .ok (.mmaE5m2 m)
  | 0x32 => .ok (.mmaI8 m)
  | 0x33 => .ok (.mmaN8 m)
  | 0x34 => accept true (!m.ns) (.mmaBf16 m)
  | 0x35 => accept true (!m.ns) (.mmaFp16 m)
  | 0x36 => .ok (.mmazFp4 m)
  | 0x37 => .ok (.mmazI4 m)
  | 0x38 => .ok (.mmazN4 m)
  | 0x39 => .ok (.mmazE4m3 m)
  | 0x3A => .ok (.mmazE5m2 m)
  | 0x3B => .ok (.mmazI8 m)
  | 0x3C => .ok (.mmazN8 m)
  | 0x3D => accept true (!m.ns) (.mmazBf16 m)
  | 0x3E => accept true (!m.ns) (.mmazFp16 m)
  | 0x3F =>
    if bitField w 10 then acceptGuard w (field w 18 7 == 0 && field w 4 6 == 0) true (.fcsW a)
    else acceptGuard w (field w 11 7 == 0 && field w 4 6 == 0) true (.fcsR d)
  | _ => .error .opcode

/-- A C word: its chain bit (R41) and its instruction. -/
def decodeC (w : Nat) : Except BadWord (Bool × Instr) :=
  match decodeCWord (w % 2 ^ 31) with
  | .ok i => .ok (bitField w 31, i)
  | .error e => .error e

/-! ### Bytes -/

/-- The word that four bytes hold, little-endian (00_scope R8). -/
def wordOfBytes (b0 b1 b2 b3 : Byte) : Nat :=
  b0.toNat + 2 ^ 8 * b1.toNat + 2 ^ 16 * b2.toNat + 2 ^ 24 * b3.toNat

/-- The bytes of a word, little-endian. -/
def bytesOfWord (w : Nat) : List Byte :=
  [BitVec.ofNat 8 w, BitVec.ofNat 8 (w / 2 ^ 8), BitVec.ofNat 8 (w / 2 ^ 16), BitVec.ofNat 8 (w / 2 ^ 24)]

/-- The word of a section: its chain bit (false outside C) and its instruction. -/
def decodeWord (sec : Sect) (w : Nat) : Except BadWord (Bool × Instr) :=
  match sec with
  | .scalar => (decodeX w).map (fun i => (false, i))
  | .load => (decodeL w).map (fun i => (false, i))
  | .store => (decodeS w).map (fun i => (false, i))
  | .compute => decodeC w

/-- Decoding from bytes: the chain bit, the instruction and the bytes after it. -/
def decodeBytes (sec : Sect) (bs : List Byte) : Except BadWord (Bool × Instr × List Byte) :=
  match bs with
  | b0 :: b1 :: b2 :: b3 :: rest => (decodeWord sec (wordOfBytes b0 b1 b2 b3)).map (fun r => (r.1, r.2, rest))
  | _ => .error .truncated

/-- The sections in the order in which the opcode table lists their words; the first that accepts a word whose
section is not known names it (log 10). -/
def firstSection (w : Nat) : Option (Sect × Bool × Instr) :=
  match decodeWord .scalar w with
  | .ok r => some (.scalar, r)
  | .error _ =>
    match decodeWord .load w with
    | .ok r => some (.load, r)
    | .error _ =>
      match decodeWord .store w with
      | .ok r => some (.store, r)
      | .error _ =>
        match decodeWord .compute w with
        | .ok r => some (.compute, r)
        | .error _ => none

/-- The instruction of a word of the opcode table, numbered as the table numbers its bits. -/
def decodeTableWord (nbits w : Nat) : Option Instr :=
  if nbits ≤ 32 then
    match bytesOfWord (w % 2 ^ nbits) with
    | [b0, b1, b2, b3] => (firstSection (wordOfBytes b0 b1 b2 b3)).map (fun r => r.2.2)
    | _ => none
  else none

/-! ### The encoder -/

/-- Format XR (R33). -/
def encXR (op : Nat) (d a b c : BitVec 5) (fn : Nat) : Nat :=
  op * 2 ^ 26 + d.toNat * 2 ^ 21 + a.toNat * 2 ^ 16 + b.toNat * 2 ^ 11 + c.toNat * 2 ^ 6 + fn

/-- Formats XI and XB (R33). -/
def encXI (op : Nat) (d a : BitVec 5) (imm : BitVec 16) : Nat :=
  op * 2 ^ 26 + d.toNat * 2 ^ 21 + a.toNat * 2 ^ 16 + imm.toNat

/-- Format XM (R33). -/
def encXM (op : Nat) (o : XMem) : Nat :=
  op * 2 ^ 26 + o.d.toNat * 2 ^ 21 + o.a.toNat * 2 ^ 16 + o.hint.code * 2 ^ 14
    + (match o.ord with
      | none => 0
      | some sc => 2 ^ 13 + sc.code * 2 ^ 11)
    + o.off.toNat

/-- Format XQ (R33). -/
def encXQ (op : Nat) (d a : BitVec 5) (p : Peer) (val : Bool) : Nat :=
  op * 2 ^ 26 + d.toNat * 2 ^ 21 + a.toNat * 2 ^ 16 + p.code * 2 ^ 14 + bitCode val * 2 ^ 13

/-- Format SA (R36). -/
def encSA (op : Nat) (d a : BitVec 4) (imm : BitVec 12) (t : Token) : Nat :=
  op * 2 ^ 26 + d.toNat * 2 ^ 22 + a.toNat * 2 ^ 18 + imm.toNat * 2 ^ 6 + t.toNat

/-- Format SR (R36), opcode 0x02. -/
def encSR (d a b : BitVec 4) (fn : Nat) (t : Token) : Nat :=
  0x02 * 2 ^ 26 + d.toNat * 2 ^ 22 + a.toNat * 2 ^ 18 + b.toNat * 2 ^ 14 + fn * 2 ^ 6 + t.toNat

/-- Format SL (R36). -/
def encSL (op : Nat) (a : BitVec 4) (lc : BitVec 2) (off : BitVec 12) (t : Token) : Nat :=
  op * 2 ^ 26 + a.toNat * 2 ^ 22 + lc.toNat * 2 ^ 20 + off.toNat * 2 ^ 6 + t.toNat

/-- Format SQ (R36). -/
def encSQ (op : Nat) (r : BitVec 4) (p : Peer) (val : Bool) (t : Token) : Nat :=
  op * 2 ^ 26 + r.toNat * 2 ^ 22 + p.code * 2 ^ 20 + bitCode val * 2 ^ 19 + t.toNat

/-- Format SC (R36). -/
def encSC (op : Nat) (h : BitVec 6) (w a : BitVec 4) (hint : Hint) (md : Nat) (t : Token) : Nat :=
  op * 2 ^ 26 + h.toNat * 2 ^ 20 + w.toNat * 2 ^ 16 + a.toNat * 2 ^ 12 + hint.code * 2 ^ 10 + md * 2 ^ 6 + t.toNat

/-- Format SW (R36). -/
def encSW (op : Nat) (a w : BitVec 4) (t : Token) : Nat :=
  op * 2 ^ 26 + a.toNat * 2 ^ 22 + w.toNat * 2 ^ 18 + t.toNat

/-- Format ST (R36). -/
def encST (op : Nat) (o : Atom) : Nat :=
  op * 2 ^ 26 + o.a.toNat * 2 ^ 22 + o.v.toNat * 2 ^ 18 + o.res.toNat * 2 ^ 14 + o.op.code * 2 ^ 11
    + o.ord.code * 2 ^ 9 + o.scope.code * 2 ^ 7 + bitCode o.u * 2 ^ 6 + o.t.toNat

/-- A vector word without its chain bit (R41). -/
def encV (op : Nat) (d a : BitVec 7) (b md : Nat) : Nat :=
  op * 2 ^ 25 + d.toNat * 2 ^ 18 + a.toNat * 2 ^ 11 + b * 2 ^ 4 + md

/-- A tile word without its chain bit; `rest` is what lies between the tile and the token (R42). -/
def encTile (op : Nat) (tile : BitVec 3) (rest : Nat) (t : Token) : Nat :=
  op * 2 ^ 25 + tile.toNat * 2 ^ 22 + rest + t.toNat

/-- `mma` and `mmaz` without the chain bit (R42). -/
def encMma (op : Nat) (o : Mma) : Nat :=
  op * 2 ^ 25 + o.tile.toNat * 2 ^ 22 + o.ra.toNat * 2 ^ 19 + o.rb.toNat * 2 ^ 16 + o.st.toNat * 2 ^ 14
    + o.kc.toNat * 2 ^ 10 + bitCode o.zs * 2 ^ 9 + bitCode o.ta * 2 ^ 8 + bitCode o.tb * 2 ^ 7 + bitCode o.ns * 2 ^ 6
    + o.t.toNat

/-- The word of an instruction, the chain bit of a C word clear. A step of the device has no word: its value here is
the all-zero word, which is illegal in every section (R48). -/
def encode (i : Instr) : Nat :=
  match i with
  | .xAdd d a b => encXR 0x00 d a b 0 0x1
  | .xSub d a b => encXR 0x00 d a b 0 0x2
  | .xAnd d a b => encXR 0x00 d a b 0 0x3
  | .xOr d a b => encXR 0x00 d a b 0 0x4
  | .xXor d a b => encXR 0x00 d a b 0 0x5
  | .xAndn d a b => encXR 0x00 d a b 0 0x6
  | .xSll d a b => encXR 0x00 d a b 0 0x7
  | .xSrl d a b => encXR 0x00 d a b 0 0x8
  | .xSra d a b => encXR 0x00 d a b 0 0x9
  | .xSlt d a b => encXR 0x00 d a b 0 0xa
  | .xSltu d a b => encXR 0x00 d a b 0 0xb
  | .xSeq d a b => encXR 0x00 d a b 0 0xc
  | .xSne d a b => encXR 0x00 d a b 0 0xd
  | .xMin d a b => encXR 0x00 d a b 0 0xe
  | .xMax d a b => encXR 0x00 d a b 0 0xf
  | .xMinu d a b => encXR 0x00 d a b 0 0x10
  | .xMaxu d a b => encXR 0x00 d a b 0 0x11
  | .xSel d a b c => encXR 0x00 d a b c 0x12
  | .xClz d a => encXR 0x00 d a 0 0 0x13
  | .xCtz d a => encXR 0x00 d a 0 0 0x14
  | .xPopc d a => encXR 0x00 d a 0 0 0x15
  | .xMul d a b => encXR 0x01 d a b 0 0x1
  | .xMulh d a b => encXR 0x01 d a b 0 0x2
  | .xMulhu d a b => encXR 0x01 d a b 0 0x3
  | .xDiv d a b => encXR 0x01 d a b 0 0x4
  | .xDivu d a b => encXR 0x01 d a b 0 0x5
  | .xRem d a b => encXR 0x01 d a b 0 0x6
  | .xRemu d a b => encXR 0x01 d a b 0 0x7
  | .bxp d a k => encXR 0x02 d a 0 (k.setWidth 5) 0x01
  | .bxl a k => encXR 0x02 0 a 0 (k.setWidth 5) 0x02
  | .xAddi d a imm => encXI 0x4 d a imm
  | .xAndi d a imm => encXI 0x5 d a imm
  | .xOri d a imm => encXI 0x6 d a imm
  | .xXori d a imm => encXI 0x7 d a imm
  | .xSlti d a imm => encXI 0x8 d a imm
  | .xSltiu d a imm => encXI 0x9 d a imm
  | .xLui d imm => encXI 0x0A d 0 imm
  | .xSlli d a n => encXI 0xb d a (n.setWidth 16)
  | .xSrli d a n => encXI 0xc d a (n.setWidth 16)
  | .xSrai d a n => encXI 0xd d a (n.setWidth 16)
  | .xBeq a b off => encXI 0x10 a b off
  | .xBne a b off => encXI 0x11 a b off
  | .xBlt a b off => encXI 0x12 a b off
  | .xBge a b off => encXI 0x13 a b off
  | .xBltu a b off => encXI 0x14 a b off
  | .xBgeu a b off => encXI 0x15 a b off
  | .xJ off => 0x16 * 2 ^ 26 + off.toNat
  | .call off => 0x17 * 2 ^ 26 + off.toNat
  | .jr a imm => encXI 0x18 0 a imm
  | .callr d a => encXI 0x19 d a 0
  | .ldD o => encXM 0x20 o
  | .ldW o => encXM 0x21 o
  | .ldWu o => encXM 0x22 o
  | .ldH o => encXM 0x23 o
  | .ldHu o => encXM 0x24 o
  | .ldB o => encXM 0x25 o
  | .ldBu o => encXM 0x26 o
  | .stD o => encXM 0x28 o
  | .stW o => encXM 0x29 o
  | .stH o => encXM 0x2a o
  | .stB o => encXM 0x2b o
  | .fence sc => 0x2C * 2 ^ 26 + 2 ^ 13 + sc.code * 2 ^ 11
  | .xPushValue a p => encXQ 0x30 0 a p true
  | .xPushBare p => encXQ 0x30 0 0 p false
  | .xPopValue d p => encXQ 0x31 d 0 p true
  | .xPopBare p => encXQ 0x31 0 0 p false
  | .xSema k n => 0x32 * 2 ^ 26 + k.toNat * 2 ^ 10 + n.toNat
  | .xSemv k n => 0x33 * 2 ^ 26 + k.toNat * 2 ^ 10 + n.toNat
  | .barr a => encXR 0x34 0 a 0 0 0
  | .bexp a b => encXR 0x35 0 a b 0 0
  | .bwait a b k => 0x36 * 2 ^ 26 + a.toNat * 2 ^ 16 + b.toNat * 2 ^ 11 + k.toNat * 2 ^ 5
  | .msend d a b => encXR 0x37 d a b 0 0
  | .hend => 0x38 * 2 ^ 26
  | .launch a q => 0x39 * 2 ^ 26 + a.toNat * 2 ^ 16 + q.toNat * 2 ^ 14
  | .rsys d k => encXI 0x3A d 0 k
  | .wsys a k => encXI 0x3B 0 a k
  | .sys k => encXI 0x3C 0 0 k
  | .tret => 0x3D * 2 ^ 26
  | .xEnd => 0x3E * 2 ^ 26
  | .xNop => 0x3F * 2 ^ 26
  | .lsAddi d a imm t => encSA 0x01 d a imm t
  | .lsAdd d a b t => encSR d a b 0x1 t
  | .lsSub d a b t => encSR d a b 0x2 t
  | .lsMul d a b t => encSR d a b 0x3 t
  | .lsAnd d a b t => encSR d a b 0x4 t
  | .lsOr d a b t => encSR d a b 0x5 t
  | .lsXor d a b t => encSR d a b 0x6 t
  | .lsSll d a b t => encSR d a b 0x7 t
  | .lsSrl d a b t => encSR d a b 0x8 t
  | .li d imm t => 0x03 * 2 ^ 26 + d.toNat * 2 ^ 22 + imm.toNat * 2 ^ 6 + t.toNat
  | .lih d imm t => 0x04 * 2 ^ 26 + d.toNat * 2 ^ 22 + imm.toNat * 2 ^ 6 + t.toNat
  | .shli d a n t => encSA 0x05 d a (n.setWidth 12) t
  | .shri d a n t => encSA 0x06 d a (n.setWidth 12) t
  | .lset a k t => encSL 0x08 a k 0 t
  | .lnext k off t => encSL 0x09 0 k off t
  | .bz a off t => encSL 0x0A a 0 off t
  | .bnz a off t => encSL 0x0B a 0 off t
  | .lsJ off t => 0x0C * 2 ^ 26 + off.toNat * 2 ^ 6 + t.toNat
  | .qpopValue d p t => encSQ 0x0D d p true t
  | .qpopBare p t => encSQ 0x0D 0 p false t
  | .qpushValue a p t => encSQ 0x0E a p true t
  | .qpushBare p t => encSQ 0x0E 0 p false t
  | .hset h a k t => encSC 0x0F h 0 a .dflt k.toNat t
  | .lCopy o => encSC 0x10 o.h o.w o.a o.hint (bitCode o.bar * 8) o.t
  | .copyO h w r hint bar t => 0x11 * 2 ^ 26 + h.toNat * 2 ^ 20 + w.toNat * 2 ^ 16 + r.toNat * 2 ^ 13 + hint.code * 2 ^ 10 + bitCode bar * 2 ^ 9 + t.toNat
  | .copyPk o c => encSC 0x12 o.h o.w o.a o.hint (bitCode o.bar * 8 + c.toNat) o.t
  | .copyUk o c => encSC 0x13 o.h o.w o.a o.hint (bitCode o.bar * 8 + c.toNat) o.t
  | .gather o => encSC 0x14 o.h o.w o.a o.hint (bitCode o.bar * 8) o.t
  | .prefetch h a hint t => encSC 0x15 h 0 a hint 0 t
  | .lOpen w a hint t => encSC 0x16 0 w a hint 0 t
  | .lClose w t => encSC 0x17 0 w 0 .dflt 0 t
  | .wcopy o => encSC 0x10 o.h o.w o.a o.hint (bitCode o.bar * 8) o.t
  | .scatter o => encSC 0x11 o.h o.w o.a o.hint (bitCode o.bar * 8) o.t
  | .put h w a hint t => encSC 0x12 h w a hint 0 t
  | .acopy h w a hint op fmt t => encSC 0x13 h w a hint (op.code * 4 + fmt.code) t
  | .wwait a w t => encSW 0x18 a w t
  | .wget a w t => encSW 0x19 a w t
  | .wreset w t => encSW 0x1A 0 w t
  | .lsSema k n t => 0x1B * 2 ^ 26 + k.toNat * 2 ^ 20 + n.toNat * 2 ^ 6 + t.toNat
  | .lsSemv k n t => 0x1C * 2 ^ 26 + k.toNat * 2 ^ 20 + n.toNat * 2 ^ 6 + t.toNat
  | .atom32 o => encST 0x20 o
  | .atom64 o => encST 0x21 o
  | .lsNop t => 0x3E * 2 ^ 26 + t.toNat
  | .lsEnd t => 0x3F * 2 ^ 26 + t.toNat
  | .fadd o => encV 0x1 o.d o.a o.b.toNat o.m.code
  | .fsub o => encV 0x2 o.d o.a o.b.toNat o.m.code
  | .fmul o => encV 0x3 o.d o.a o.b.toNat o.m.code
  | .fdiv o => encV 0x4 o.d o.a o.b.toNat o.m.code
  | .fmin o => encV 0x5 o.d o.a o.b.toNat o.m.code
  | .fmax o => encV 0x6 o.d o.a o.b.toNat o.m.code
  | .fma o => encV 0x7 o.d o.a o.b.toNat o.m.code
  | .fms o => encV 0x8 o.d o.a o.b.toNat o.m.code
  | .fnma o => encV 0x9 o.d o.a o.b.toNat o.m.code
  | .fnms o => encV 0xa o.d o.a o.b.toNat o.m.code
  | .cAdd o => encV 0xb o.d o.a o.b.toNat o.m.code
  | .cSub o => encV 0xc o.d o.a o.b.toNat o.m.code
  | .cMul o => encV 0xd o.d o.a o.b.toNat o.m.code
  | .cMulh o => encV 0xe o.d o.a o.b.toNat o.m.code
  | .cMin o => encV 0xf o.d o.a o.b.toNat o.m.code
  | .cMax o => encV 0x10 o.d o.a o.b.toNat o.m.code
  | .cAnd o => encV 0x11 o.d o.a o.b.toNat o.m.code
  | .cOr o => encV 0x12 o.d o.a o.b.toNat o.m.code
  | .cXor o => encV 0x13 o.d o.a o.b.toNat o.m.code
  | .cShl o => encV 0x14 o.d o.a o.b.toNat o.m.code
  | .cShr o => encV 0x15 o.d o.a o.b.toNat o.m.code
  | .cmp cond k a b g => 0x16 * 2 ^ 25 + cond.code * 2 ^ 21 + k.toNat * 2 ^ 18 + a.toNat * 2 ^ 11 + b.toNat * 2 ^ 4 + guardCode g
  | .cSel d a b k => encV 0x17 d a b.toNat k.toNat
  | .cMov o => encV 0x18 o.d o.a 0x1 o.m.code
  | .fabs o => encV 0x18 o.d o.a 0x2 o.m.code
  | .fneg o => encV 0x18 o.d o.a 0x3 o.m.code
  | .fsqrt o => encV 0x18 o.d o.a 0x4 o.m.code
  | .frcp o => encV 0x18 o.d o.a 0x5 o.m.code
  | .frsqrt o => encV 0x18 o.d o.a 0x6 o.m.code
  | .fexp2 o => encV 0x18 o.d o.a 0x7 o.m.code
  | .flog2 o => encV 0x18 o.d o.a 0x8 o.m.code
  | .ftanh o => encV 0x18 o.d o.a 0x9 o.m.code
  | .cAbs o => encV 0x18 o.d o.a 0xa o.m.code
  | .cNeg o => encV 0x18 o.d o.a 0xb o.m.code
  | .cNot o => encV 0x18 o.d o.a 0xc o.m.code
  | .cClz o => encV 0x18 o.d o.a 0xd o.m.code
  | .cPopc o => encV 0x18 o.d o.a 0xe o.m.code
  | .cvt o fmt rnd => encV 0x19 o.d o.a (fmt.code * 8 + rnd.code) o.m.code
  | .cvta o fmt j sat => encV 0x1A o.d o.a (fmt.code * 8 + j.toNat * 2 + bitCode sat) o.m.code
  | .rot o ax n => encV 0x1B o.d o.a (ax.code * 64 + n.toNat) o.m.code
  | .bcast o ax n => encV 0x1C o.d o.a (ax.code * 64 + n.toNat) o.m.code
  | .red o ax op => encV 0x1D o.d o.a (ax.code * 64 + op.code * 8) o.m.code
  | .xpose o => encV 0x1E o.d o.a 0 o.m.code
  | .vbx o k => encV 0x1F o.d o.a k.toNat o.m.code
  | .vbxl a k g => encV 0x1F 0 a (64 + k.toNat) (guardCode g)
  | .treemask k a g => encV 0x20 (k.setWidth 7) a 0 (guardCode g)
  | .vld d p m => encV 0x21 d (p.setWidth 7) 0 m.code
  | .vst p a g => encV 0x22 (p.setWidth 7) a 0 (guardCode g)
  | .pcfg p a g => encV 0x23 (p.setWidth 7) a 0 (guardCode g)
  | .shape rows cols fmt => 0x24 * 2 ^ 25 + rows.toNat * 2 ^ 14 + cols.toNat * 2 ^ 8 + fmt.code * 2 ^ 4
  | .cloop off => 0x25 * 2 ^ 25 + off.toNat * 2 ^ 11
  | .rtag d k g => encV 0x26 d 0 k.toNat (guardCode g)
  | .rdrop d g => encV 0x26 d 0 32 (guardCode g)
  | .rstat d a g => encV 0x26 d a 64 (guardCode g)
  | .ctok val t => (match val with
    | none => 0x27 * 2 ^ 25 + t.toNat
    | some a => 0x27 * 2 ^ 25 + a.toNat * 2 ^ 11 + 2 ^ 10 + t.toNat)
  | .cNop => 0x28 * 2 ^ 25
  | .cEnd => 0x28 * 2 ^ 25 + 2 ^ 9
  | .cSema k n g => 0x28 * 2 ^ 25 + k.toNat * 2 ^ 18 + n.toNat * 2 ^ 11 + 2 * 2 ^ 9 + guardCode g
  | .cSemv k n g => 0x28 * 2 ^ 25 + k.toNat * 2 ^ 18 + n.toNat * 2 ^ 11 + 3 * 2 ^ 9 + guardCode g
  | .fcsR d g => encV 0x3F d 0 0 (guardCode g)
  | .fcsW a g => encV 0x3F 0 a 64 (guardCode g)
  | .tld tile d q st t => encTile 0x29 tile (d.toNat * 2 ^ 15 + q.toNat * 2 ^ 13 + st.toNat * 2 ^ 11) t
  | .tst tile a q st t => encTile 0x29 tile (a.toNat * 2 ^ 15 + q.toNat * 2 ^ 13 + st.toNat * 2 ^ 11 + 2 ^ 10) t
  | .tzero tile st t => encTile 0x2A tile (st.toNat * 2 ^ 20) t
  | .tscale tile st a t => encTile 0x2A tile (st.toNat * 2 ^ 20 + 2 ^ 19 + a.toNat * 2 ^ 12) t
  | .tsave tile st fmt off t => encTile 0x2B tile (st.toNat * 2 ^ 20 + 2 ^ 19 + fmt.code * 2 ^ 17 + off.toNat * 2 ^ 6) t
  | .tload tile st fmt off t => encTile 0x2B tile (st.toNat * 2 ^ 20 + fmt.code * 2 ^ 17 + off.toNat * 2 ^ 6) t
  | .draw tile st mask d t => (match mask with
    | none => encTile 0x2C tile (st.toNat * 2 ^ 20 + d.toNat * 2 ^ 6) t
    | some h => encTile 0x2C tile (st.toNat * 2 ^ 20 + h.toNat * 2 ^ 14 + 2 ^ 13 + d.toNat * 2 ^ 6) t)
  | .mmaFp4 o => encMma 0x2d o
  | .mmaI4 o => encMma 0x2e o
  | .mmaN4 o => encMma 0x2f o
  | .mmaE4m3 o => encMma 0x30 o
  | .mmaE5m2 o => encMma 0x31 o
  | .mmaI8 o => encMma 0x32 o
  | .mmaN8 o => encMma 0x33 o
  | .mmaBf16 o => encMma 0x34 o
  | .mmaFp16 o => encMma 0x35 o
  | .mmazFp4 o => encMma 0x36 o
  | .mmazI4 o => encMma 0x37 o
  | .mmazN4 o => encMma 0x38 o
  | .mmazE4m3 o => encMma 0x39 o
  | .mmazE5m2 o => encMma 0x3a o
  | .mmazI8 o => encMma 0x3b o
  | .mmazN8 o => encMma 0x3c o
  | .mmazBf16 o => encMma 0x3d o
  | .mmazFp16 o => encMma 0x3e o
  | .matrixWordStart .. | .matrixWordCompletion .. | .drawCompletion .. | .bankPowerUp .. | .moduleReset ..
  | .watchdogExpiry .. | .hostDoorbell .. | .attestationReport .. | .identityCertificate ..
  | .firmwareImageWrite .. | .lqsub .. | .ingressRecordWrite .. | .ingressFlushTimeout .. | .hostBar2Access ..
  | .pcieLinkDown .. | .hostCompletion .. | .completionTimeout .. | .stolepelLinkDown .. | .stolepelLinkUp ..
  | .launchForward .. | .taskCompletionReport .. | .tinvPage .. | .tinvTenant .. | .tinvAll ..
  | .tinvCompletion .. | .owncmd .. | .ownerChangeCompletion .. | .resumeReplay .. | .resumeKill ..
  | .resumeNoAction .. | .svcmdDeliver .. | .serviceAnswerArrival .. | .ifreq .. | .fqheadWrite ..
  | .sqheadWrite .. | .registerWrite .. | .governorIntervalBoundary .. | .loweringDue .. | .energyTick ..
  | .rampTick .. | .droopTrip .. | .overcurrent .. | .thermalCritical .. | .thermalRecovery ..
  | .throttleWindowClose .. | .flitInjection .. | .flitRouting .. | .creditReturn .. | .creditExpiry ..
  | .lossNotice .. | .readRequest .. | .multicastWindowClose .. | .lineFill .. | .sectorLanding ..
  | .sectorWrite .. | .writeAcknowledgement .. | .atomicRequest .. | .atomicReply .. | .accumulateWrite ..
  | .putSectorArrival .. | .putAcknowledgement .. | .putRefusal .. | .putResendDelay .. | .putRefusalLimit ..
  | .pageWalkCompletion .. | .copyPark .. | .barrierArrival .. | .byteDeclaration .. | .byteReport ..
  | .registration .. | .wakeUp .. | .messageArrival .. | .messageResend .. | .handlerStart ..
  | .watermarkStallLimit .. | .queueDeadlock .. | .trapEntry .. | .sliceExpiry .. | .preemption ..
  | .taskCompletion .. | .pcieLinkUp .. | .loadValueReturn .. | .messageAcceptance ..
  | .barrierAcknowledgement .. | .fetchAhead .. | .droopClear .. | .currentLimitClear .. => 0

/-- The word of a C instruction with its chain bit (R41). -/
def encodeC (chain : Bool) (i : Instr) : Nat := bitCode chain * 2 ^ 31 + encode i

end Sys2Proof
end

