-- ==== Sys2Proof/Machine/State.lean ====
section
/-! DEFINITION. The state of the module as plain data: every piece of state that the spec names, and State.reset.
INVENTORY.md lists the fields with the rule that names each. Functions over the state stand in Ops.lean and after. -/

namespace Sys2Proof.Machine

open Sys2Proof

/-! ### Memory -/

/-- Bytes by address: strictly rising addresses, no entry equal to the byte that an unlisted address reads as (log 3). -/
abbrev Mem := List Host.Cell

/-- Line metadata of a slice (04_fabric R74, R75). The bytes of the line stand in State.mem: the slice is the point at
which local memory is read and written. -/
structure Line where
  /-- pa div 128 -/
  line : Nat
  valid : BitVec 4
  dirty : BitVec 4
  hint : Hint
  deriving DecidableEq, Repr

/-- A line of a core's L1 with its bytes, which may be older than memory (06_pool R138, R139, 13_ordering R291). -/
structure L1Line where
  line : Nat
  tenant : Tenant
  valid : BitVec 4
  /-- halves of the line whose two sectors came with one 64-byte read and are unchanged since (14_scalar R306) -/
  pairs : BitVec 2
  hint : Hint
  /-- 128 bytes -/
  bytes : List Byte
  deriving DecidableEq, Repr

/-- A line fill of an L1 in progress: its number, and the sectors that its replies will still install (R139, R140, R141). -/
structure L1Fill where
  id : Nat
  line : Nat
  want : BitVec 4
  hint : Hint
  /-- its reads may be answered by multicast: those of a `prefetch` (R117, 04_fabric R92) -/
  multi : Bool
  /-- VA of the access that began it, for records -/
  va : Nat
  deriving DecidableEq, Repr

/-- A translation (03_memory R57, R62): `bits` is log2 of the page size. -/
structure Tlb where
  tenant : Tenant
  /-- first VA of the page -/
  va : Nat
  bits : Nat
  /-- first device physical address of the page -/
  pa : Nat
  /-- PM field: 0 this module (R58) -/
  pm : Nat
  host : Bool
  /-- writes allowed: W and D set at the fill (R60) -/
  wr : Bool
  deriving DecidableEq, Repr

/-! ### Messages on the fabric -/

/-- Traffic classes (R82), by code. -/
inductive Cls where
  | readReq | readReply | multiReply | write | writeAck | put | putAnswer | accumulate | atomReq | atomReply
  | message | accept | barrier | translation | management
  deriving DecidableEq, Repr

/-- Whose request a message answers: the core, the unit and the item's number there. -/
inductive Who where
  /-- load or block read number `id` of a context -/
  | load (core : CoreId) (ctx : CtxId) (id : Nat)
  /-- store number `id` of a context -/
  | store (core : CoreId) (ctx : CtxId) (id : Nat)
  /-- sector `idx` of copy `id`, memory sector `part` of it -/
  | copy (core : CoreId) (id idx part : Nat)
  /-- atomic number `id` of S -/
  | atom (core : CoreId) (id : Nat)
  /-- L1 line fill `id`, also of a `prefetch`: no one waits; VA and SEQ for a record -/
  | fill (core : CoreId) (id va seq : Nat)
  /-- barrier word of a context -/
  | barrier (core : CoreId) (ctx : CtxId)
  /-- a byte report of copy `id`; VA, SEQ and copy identifier for a record -/
  | report (core : CoreId) (id va seq : Nat) (copyId : W32)
  /-- registration entry of a core -/
  | entry (core : CoreId) (id : Nat)
  /-- message word of a context -/
  | msg (core : CoreId) (ctx : CtxId)
  /-- fetch of a code word of an agent -/
  | fetch (core : CoreId) (a : Agent) (off : Nat)
  /-- access `tag` of a peer module, by its index (18_host R395) -/
  | peer (index tag : Nat)
  /-- the dispatcher, the host block or the management core -/
  | nobody
  deriving DecidableEq, Repr

/-- A barrier operation or registration at a slice (12_sync R268 to R271). -/
inductive BarOp where
  | arrive
  | declare (bytes : W32)
  | report (bytes : W32)
  | register (phase : BitVec 31) (sem : BitVec 6)
  deriving DecidableEq, Repr

/-- An atomic as sent (R257 to R263): width in bits, operand, new value of `cas`. -/
structure AtomReq where
  w : Nat
  op : AtomOp
  u : Bool
  x : W64
  y : W64
  deriving DecidableEq, Repr

/-- A message to a mailbox: eight doublewords, source word, handler offset (R275, R276). -/
structure Mail where
  dw : List W64
  src : W64
  hnd : W64
  deriving DecidableEq, Repr

/-- Where a message comes from (R275, R278): a gang, or an event ingress stream with the tenant it is for. -/
inductive MailFrom where
  | gang (g : Nat)
  | stream (j : Fin 4) (ten : Nat)
  deriving DecidableEq, Repr

/-- What a flit carries. `pa` is a device physical address (03_memory R54). -/
inductive Body where
  /-- read of `size` bytes within one sector or, for a block, 64 bytes; `uni` asks for unicast at once (R92) -/
  | read (pa : Nat) (size : Nat) (pm : Nat) (tenant : Tenant) (hint : Hint) (uni : Bool) (who : Who)
  | readReply (pa : Nat) (data : List Byte) (code : Nat) (who : Who)
  | multiReply (pa : Nat) (data : List Byte) (code : Nat)
  /-- a write of the listed bytes -/
  | write (pa : Nat) (data : List Byte) (pm : Nat) (tenant : Tenant) (hint : Hint) (who : Who)
  | writeAck (code : Nat) (who : Who)
  /-- a put sector of a gang -/
  | put (dst : CoreId) (off : Nat) (data : List Byte) (gang : Nat) (who : Who)
  | putAck (who : Who)
  /-- refusal; `covered` is true when a window covers the sector and its share is full (R89, R122) -/
  | putRefuse (covered : Bool) (who : Who)
  | acc (pa : Nat) (data : List Byte) (pm : Nat) (tenant : Tenant) (hint : Hint) (op : AccOp) (fmt : AccFmt) (who : Who)
  | atom (pa : Nat) (pm : Nat) (tenant : Tenant) (req : AtomReq) (who : Who)
  /-- an atomic through the gang window, at a scratchpad port (R262) -/
  | atomPort (dst : CoreId) (off : Nat) (req : AtomReq) (gang : Nat) (who : Who)
  | atomReply (old : W64) (cf : Bool) (code : Nat) (who : Who)
  | mail (dst : CoreId) (m : Mail) (sender : MailFrom) (who : Who)
  | mailAnswer (taken : Bool) (who : Who)
  | barrier (pa : Nat) (tenant : Tenant) (op : BarOp) (who : Who)
  /-- acknowledgement of a barrier word, or the answer to a registration (`reg`): woken at once or recorded -/
  | barrierAck (pa : Nat) (phase : BitVec 31) (reg woken : Bool) (code : Nat) (who : Who)
  /-- wake-ups for the cores of a strip whose WAIT bits, by column, were set (R268, R272) -/
  | wake (pa : Nat) (phase : BitVec 31) (set : BitVec 16)
  /-- loss notice of a slice (R95) -/
  | loss (pa : Nat) (who : Option Who)
  deriving DecidableEq, Repr

/-- A flit: header (R81), body, and for an access to the host aperture the segment register as its translation found it (18_host
R389). -/
structure Flit where
  cls : Cls
  dst : RouterId
  src : RouterId
  pri : Nat
  age : Nat
  stag : Nat
  soff : Nat
  seg : W64
  body : Body
  deriving DecidableEq, Repr

/-- A flit at a network input of a router. -/
structure OnLink where
  at_ : RouterId
  lane : Lane
  flit : Flit
  deriving DecidableEq, Repr

/-- A flit on a sound: the strip's island, the column it is at, stops still to pass (R80). -/
structure OnSound where
  island : IslandId
  col : Nat
  left : Nat
  flit : Flit
  deriving DecidableEq, Repr

/-- A flight credit in use (R88): the flit, its injection cycle, the cycle at which it was delivered, if it was, and whether the loss
of a reply has been told already (R95). -/
structure Credit where
  flit : Flit
  cycle : Nat
  delivered : Option Nat
  noted : Bool
  deriving DecidableEq, Repr

/-- A router (R78, R87, R88). -/
structure Router where
  /-- messages waiting in the agent, oldest first -/
  outbox : List Flit
  /-- the candidate admitted in the current cycle -/
  inject : Option Flit
  credits : List Credit
  /-- flits ejected to the agent, oldest first -/
  inbox : List Flit
  deriving DecidableEq, Repr

/-- The fabric between the routers. -/
structure Fabric where
  routers : Vector Router 240
  links : List OnLink
  sounds : List OnSound
  /-- claims on sounds: island, column, and the refused flit that set it, at AGE 0 (R90) -/
  claims : List (IslandId × Nat × Flit)
  /-- DROPS of SCRC_c for each column (R96) -/
  drops : Vector W32 16
  deriving DecidableEq, Repr

/-! ### Slices -/

/-- A multicast window (R92): its line, the cycle it opened, requests joined in order, sectors read from the channel for it
(R347). -/
structure Window92 where
  line : Nat
  opened : Nat
  reqs : List Flit
  read : Nat
  deriving DecidableEq, Repr

/-- Channel data of a line on its way to a slice (R74, R347): sectors read, whether the line is allocated, whether the
data has arrived. -/
structure Fill where
  line : Nat
  want : BitVec 4
  alloc : Bool
  hint : Hint
  /-- whose request asked for it -/
  who : Who
  /-- opening cycle of the multicast window of the line that it was asked for in, if any; and, once that window has closed, the
  cores that joined it, which pay for the read -/
  window : Option Nat
  payers : List CoreId
  arrived : Bool
  deriving DecidableEq, Repr

/-- A slice (R74 to R77, R92): lines with the least recently used first. -/
structure Slice where
  lines : List Line
  windows : List Window92
  fills : List Fill
  /-- fabric cycles of the latest line access and of the latest atomic operation (R77) -/
  lineAt : Option Nat
  atomAt : Option Nat
  deriving DecidableEq, Repr

/-! ### Cores: waits and traps -/

/-- The queues of 01_journey R17, in its order. -/
inductive QName where
  | xl | xc | xs | lx | lc | ls | cx | cl | cs | sx | sl | sc
  deriving DecidableEq, Repr

/-- What holds a word at issue, or after its pops (R38, R206, R302, R369, R379). -/
inductive Wait where
  | pop (qs : List QName)
  | push (qs : List QName)
  | sema (k : BitVec 6)
  | ring (rs : List (BitVec 3))
  /-- scratchpad sectors pending under R108, first one first; `load` tells loads from the accesses that S footprints gate -/
  | gate (secs : List Nat) (load : Bool)
  /-- the operand fetch of a multiply-accumulate: its rings and the pending sectors of its tiles (R108) -/
  | tiles (rs : List (BitVec 3)) (secs : List Nat)
  /-- `wwait` on a register -/
  | mark (w : BitVec 4)
  /-- a free frame in a powered bank (07_registers R176) -/
  | frame
  /-- any wait that no trap limits: operands, room in flight, translation, an answer, lagoon entries -/
  | other
  deriving DecidableEq, Repr

/-- A trap as raised (17_traps R368): cause, detail, raising agent, offset, VA. -/
structure TrapInfo where
  cause : BitVec 8
  detail : BitVec 16
  seq : Agent
  epc : W32
  val : W64
  deriving DecidableEq, Repr

/-- A fault that a translation or a destination answered for an access still at its word: the VA, code, BADPTE, HOST. -/
structure XFault where
  va : Nat
  code : Nat
  badPte : Bool
  host : Bool
  deriving DecidableEq, Repr

/-! ### Cores: X -/

/-- A load in flight (14_scalar R302). -/
structure XLoad where
  id : Nat
  d : BitVec 5
  /-- device physical address and PM -/
  pa : Nat
  pm : Nat
  size : Nat
  signed : Bool
  acq : Option Scope
  hint : Hint
  /-- the line fill of the L1 that its reply belongs to -/
  fill : Option Nat
  /-- VA, for records and strict traps -/
  va : Nat
  deriving DecidableEq, Repr

/-- A store in flight: its slice has not yet acknowledged that it is performed (R282). -/
structure XStore where
  id : Nat
  pa : Nat
  pm : Nat
  va : Nat
  deriving DecidableEq, Repr

/-- Run state of a context (R301, R383). -/
inductive XRun where
  | dormant | runnable | ended
  deriving DecidableEq, Repr

/-- Block reads, host loads and answers that the word at pc waits for (R269, R275, R306, R310, R318, R319). -/
inductive XOp where
  /-- a 64-byte read (bxl, launch) of a VA, sent as number `id`, with the line fill that its reply belongs to, or its bytes and
  code -/
  | block (va id : Nat) (fill : Option Nat) (data : Option (List Byte × Nat))
  /-- a host-aperture load sent as number `id`, or its bytes and code -/
  | host (id : Nat) (data : Option (List Byte × Nat))
  /-- barrier word sent, with the VA of its object and the number of the registration entry that a `bwait` has taken -/
  | barrier (va : Nat) (entry : Option Nat)
  /-- message sent: target core and message, and the cycle at which it is sent again after a refusal -/
  | mail (dst : CoreId) (m : Mail) (again : Option Nat)
  /-- service request posted; answer words when they have come -/
  | service (ans : Option (W64 × W64))
  /-- flushing read of a fence or a release sent as number `id`, or done (R285, R297) -/
  | flush (id : Nat) (done : Bool)
  deriving DecidableEq, Repr

/-- A scalar context (R301). -/
structure XCtx where
  run : XRun
  pc : W64
  /-- s0 to s31; s0 reads as zero -/
  regs : Vector W64 32
  loads : List XLoad
  stores : List XStore
  nextId : Nat
  op : Option XOp
  fault : Option XFault
  wait : Option Wait
  /-- fabric cycles stalled on parked copies (R377) -/
  stall : Nat
  /-- device physical address of the latest host store since the last system-scope release, if any (R285, R297) -/
  hostStore : Option Nat
  /-- the last 64-byte service request (R383) -/
  service : List W64
  deriving DecidableEq, Repr

/-! ### Cores: L and S -/

/-- When an issued word of L or S reaches its finishing point (R37). -/
inductive Finish where
  /-- at once -/
  | now
  /-- when copy `id` has issued its last request -/
  | issued (id : Nat)
  /-- when every sector write of copy `id` is performed at its scope -/
  | performed (id : Nat)
  /-- when atomic `id` has written its result -/
  | atom (id : Nat)
  deriving DecidableEq, Repr

/-- A word of L or S that has retired from the front but still owes its pushes, in program order (R37, R286). -/
structure Pend where
  fin : Finish
  /-- offset of the word, which its retirement from the front sets (R38) -/
  pc : W64 := 0
  pushes : List (QName × Option W32)
  /-- semaphore added to at the same moment, after the words before it (R256) -/
  sem : Option (BitVec 6 × Nat)
  deriving DecidableEq, Repr

/-- An atomic issued and not yet finished (R257 to R263). -/
structure AtomFly where
  id : Nat
  va : Nat
  off : Nat
  w : Nat
  req : AtomReq
  ord : AtomOrd
  scope : Scope
  copyId : W32
  /-- copies of S with a lower number are earlier words -/
  before : Nat
  sent : Bool
  /-- device physical address once translated; none for the gang window -/
  pa : Option Nat
  pm : Nat
  host : Bool
  /-- flushing read of a release at system scope: 0 not sent, 1 sent, 2 done -/
  flush : Nat
  /-- the host write that the flushing read follows -/
  flushAt : Option Nat
  parked : Option XFault
  deriving DecidableEq, Repr

/-- L or S (05_copies R97, R37, R70). -/
structure LSeq where
  pc : W64
  a : Vector W64 16
  lc : Vector W32 4
  ended : Bool
  /-- the word at pc has made its pops (R38) -/
  popped : Bool
  /-- the handle of the copy-family word at pc, as it read it at issue, while it waits after its pops (R103) -/
  handle : Option W256
  /-- the copy that the word at pc has made live and whose source reads go on -/
  reading : Option Nat
  serial : W16
  pend : List Pend
  /-- device physical address of the latest write to the host since the last release at system scope (R297) -/
  hostStore : Option Nat
  fault : Option XFault
  wait : Option Wait
  stall : Nat
  deriving DecidableEq, Repr

/-! ### Cores: C, vector registers, matrix words -/

/-- State codes of a physical register (07_registers R156). -/
inductive PState where
  | empty | plain | tagged | dropped | lost
  deriving DecidableEq, Repr

/-- The footprint of a port move (R169). -/
structure PortFoot where
  vbase : Int
  rowp : Nat
  r : Nat
  c : Nat
  deriving DecidableEq, Repr

/-- A recipe binding (R169): recipe, pinned port footprints, SHP and rounding as recorded. -/
structure Binding where
  k : BitVec 5
  pins : List (Option PortFoot)
  shp : W32
  rm : BitVec 3
  deriving DecidableEq, Repr

/-- A physical vector register (R153 to R157): `lanes` are its 1,024 lanes, row by row. -/
structure PReg where
  st : PState
  frame : Option Nat
  lanes : List W32
  bind : Option Binding
  deriving DecidableEq, Repr

/-- The registers of C that a bundle reads as they stood before it (02_words R43). -/
structure CRegs where
  pregs : List PReg
  masks : Vector (BitVec 1024) 8
  /-- patterns P0 to P7, 64 bytes each (09_vector R220) -/
  pats : Vector (List Byte) 8
  stg : BitVec 8
  rrb : Nat
  epi : BitVec 8
  cnt : W32
  shp : W32
  fcs : W32
  deriving DecidableEq, Repr

/-- What an issued C word still does when it retires in program order (09_vector R207). -/
inductive CRetire where
  /-- flags to OR into FCS, max-magnitude update, pushes, semaphore increment -/
  | vec (flags : BitVec 6) (am : Option (BitVec 2 × W32)) (pushes : List (QName × Option W32))
      (sem : Option (BitVec 6 × Nat))
  /-- matrix word number `id` -/
  | mat (id : Nat)
  deriving DecidableEq, Repr

/-- A word that is not a matrix word. -/
def CRetire.isVec : CRetire → Bool
  | .vec _ _ _ _ => true
  | .mat _ => false

/-- C (R159, R161, 08_numbers R193). -/
structure CSeq where
  pc : W64
  ended : Bool
  /-- the bundle at pc has made its pops and is to be issued again (R195) -/
  popped : Bool
  /-- issued words not yet retired, oldest first -/
  ret : List CRetire
  fault : Option XFault
  wait : Option Wait
  stall : Nat
  deriving DecidableEq, Repr

/-- Progress of an issued matrix word (10_matrix R226 to R228). -/
inductive MStage where
  | issued | started | done
  deriving DecidableEq, Repr

/-- Bytes of the scratchpad that a word of C reads or writes. -/
structure Span where
  write : Bool
  off : Nat
  n : Nat
  deriving DecidableEq, Repr

/-- An issued matrix word with the operands it captured at issue. -/
structure MWord where
  id : Nat
  word : Instr
  stage : MStage
  /-- tiles assigned in ring A and ring B (06_pool R145) -/
  tileA : Nat
  tileB : Nat
  /-- the bytes that it will read or write at its start (06_pool R152, R237, 11_draw R245) -/
  spans : List Span
  /-- bytes that a `vst` of its own bundle has written, as the word finds them at its start: as they stood before the bundle for a word
  that reads them (02_words R43); for a `tsave` that stands before the `vst`, as the `vst` left them -/
  kept : List (Nat × Byte)
  /-- vector register captured at issue (`tst`, `tscale`, `draw`); lanes that `tld` read at its start; weights p(i) that
  `draw` computed at its start (11_draw R246) -/
  vec : List W32
  /-- physical register that `tld` or `draw` writes at retirement -/
  dst : Option Nat
  /-- mask handle as `draw` read it at issue (R245) -/
  handle : W256
  /-- groups executed and skipped (R232) -/
  dense : Nat
  skip : Nat
  /-- what a started draw knows besides its weights: sum T, maximum m, greedy index, and whether an allowed candidate had a
  NaN (R246); and its four result lanes once it has completed (R247) -/
  sum : W32
  top : W32
  greedy : Nat
  nan : Bool
  res : List W32
  deriving DecidableEq, Repr

/-- Tiles t0 to t7 (R225), MXCNT (R234), issued matrix words in issue order. -/
structure Matrix where
  tiles : Vector (List W32) 8
  mxcnt : W64
  words : List MWord
  nextId : Nat
  deriving DecidableEq, Repr

/-! ### Cores: landing -/

/-- Copy words by opcode (R112). -/
inductive CopyOp where
  | copy | copyO | pk | uk | gather | wcopy | scatter | put | acopy
  deriving DecidableEq, Repr

/-- State of a copy (R385). -/
inductive CopySt where
  | active | parked | abandoned
  deriving DecidableEq, Repr

/-- One memory sector that a destination sector is built from, or that a source sector goes to. -/
structure Part where
  va : Nat
  /-- device physical address and PM of the request sent last -/
  pa : Nat
  pm : Nat
  /-- data landed -/
  data : Option (List Byte)
  /-- answered with a code, or not asked for again after a loss because its translation now faults -/
  failed : Bool
  /-- its reply is lost, and it is to be asked for again (04_fabric R95) -/
  lost : Bool
  deriving DecidableEq, Repr

/-- A sector whose request is out: its landing index and its memory sectors. -/
structure OutSec where
  idx : Nat
  parts : List Part
  deriving DecidableEq, Repr

/-- A sector of a put that its target refused: sent again at `again`; refusals for not covered in a row. -/
structure Refused where
  idx : Nat
  again : Nat
  count : Nat
  deriving DecidableEq, Repr

/-- Stall time of a read of a copy-family word (17_traps R377): the scratchpad sector at which it waits on parked copies alone, and
for how many fabric cycles. -/
structure Stalled where
  sec : Nat
  cycles : Nat
  deriving DecidableEq, Repr

/-- A fault that a sector met (R67, R126). -/
structure SecFault where
  idx : Nat
  va : Nat
  code : Nat
  badPte : Bool
  host : Bool
  /-- the access that met it writes -/
  wr : Bool
  deriving DecidableEq, Repr

/-- A live, parked or abandoned copy-family word (05_copies R103, R107, R126, 17_traps R385). -/
structure Copy where
  /-- issue order, the device's own -/
  id : Nat
  op : CopyOp
  /-- handle as read at issue -/
  h : W256
  /-- scratchpad offset, or ring -/
  opnd : W64
  /-- a_(n+1) -/
  aux : W64
  w : BitVec 4
  hint : Hint
  bar : Bool
  /-- log2 of the interleave factor -/
  il : Nat
  acc : AccOp
  accFmt : AccFmt
  copyId : W32
  start : W32
  /-- N -/
  n : Nat
  st : CopySt
  /-- next sector not yet requested; of an S word, whose write has not yet been sent -/
  next : Nat
  /-- of an S word: the next source sector not yet read, and the sectors read and not yet performed, with their bytes (01_journey
  R25, R118) -/
  rd : Nat
  got : List (Nat × List Byte)
  /-- sectors below `next` to request again (MISS, loss notices) -/
  redo : List Nat
  out : List OutSec
  /-- sectors landed and not committed, with their bytes -/
  held : List (Nat × List Byte)
  /-- committed, or performed, prefix: COUNT − START -/
  done : Nat
  /-- sectors beyond the prefix that are performed (S words) -/
  perf : List Nat
  faults : List SecFault
  /-- index groups read (R116): group number and its 16 entries -/
  groups : List (Nat × List W32)
  /-- sectors counted in barrier reports so far (R130) -/
  reported : Nat
  /-- barrier object, once translated -/
  barPa : Option Nat
  refused : List Refused
  /-- first ring tile claimed (R144) -/
  tile0 : Nat
  /-- a trap was raised by the word's own source read: no source sector is read until `tret` (R25, R38) -/
  hold : Bool
  /-- offset of the word, for the traps of its source reads (R38) -/
  pc : W64
  /-- stall time of its next index read and of its next source read (17_traps R377) -/
  idxStall : Option Stalled
  srcStall : Option Stalled
  /-- device physical address of its latest write to the host, and the flushing read that a completion at system scope
  needs (R282, R297): 0 not sent, 1 sent, 2 done -/
  hostLast : Option Nat
  flush : Nat
  /-- sectors that the next report of a system-scope word with host writes will have counted, once the flushing read sent for
  it is answered (R130, R297) -/
  repDue : Option Nat
  deriving DecidableEq, Repr

/-- A watermark register (R106). -/
structure Wmark where
  fbase : W16
  rlen : W16
  nrow : W16
  lp : BitVec 4
  ic : BitVec 3
  out : Bool
  st : BitVec 3
  gix : Bool
  dup : Bool
  bnd : Bool
  total : W16
  count : W32
  deriving DecidableEq, Repr

/-- A `prefetch` whose requests are still to go out (R117). -/
structure Prefetch where
  id : Nat
  h : W256
  hint : Hint
  next : Nat
  n : Nat
  deriving DecidableEq, Repr

/-- An open landing window (R119): place in issue order, register, first offset, sectors, share, the value of a_(n+1) and the hint
of its word (17_traps R385), held sectors. -/
structure LWindow where
  id : Nat
  w : BitVec 4
  off : Nat
  n : Nat
  share : Nat
  aux : W64
  hint : Hint
  held : List (Nat × List Byte)
  deriving DecidableEq, Repr

/-- A summary of a ring slot (06_pool R147): SV, Z and F by group. -/
structure Summary where
  sv : Bool
  z : BitVec 128
  f : BitVec 128
  deriving DecidableEq, Repr

/-- A ring (R142 to R148). HEAD, TAIL and ITAIL are kept whole; the state register shows them modulo 65,536. -/
structure Ring where
  cfg : W64
  head : Nat
  tail : Nat
  itail : Nat
  ucnt : BitVec 8
  /-- uses assigned to matrix words so far (R145) -/
  uses : Nat
  /-- tiles whose uses retired before they became the head -/
  early : List Nat
  /-- sectors landed of tiles at or beyond TAIL: tile and count -/
  landed : List (Nat × Nat)
  /-- claimed tiles, not yet landed whole, whose slot a write has met since their claim (R148) -/
  met : List Nat
  sums : List Summary
  deriving DecidableEq, Repr

/-- A stream port (R149, R150). -/
structure Port where
  cfg : W256
  idx : W64
  last : Option PortFoot
  deriving DecidableEq, Repr

/-- The landing unit (R107, R119, R123): copies in issue order. -/
structure Landing where
  wms : Vector Wmark 16
  copies : List Copy
  /-- abandoned copies that `wreset` has taken from their register while requests of theirs were unanswered -/
  orphans : List Copy
  nextId : Nat
  windows : List LWindow
  fetches : List Prefetch
  deriving DecidableEq, Repr

/-! ### Cores: the rest -/

/-- A registration entry (12_sync R272). -/
structure RegEntry where
  id : Nat
  pa : Nat
  phase : BitVec 31
  sem : BitVec 6
  deriving DecidableEq, Repr

/-- A mailbox slot's message. -/
abbrev MailSlot := Mail

/-- What a waiter waits for, in the order in which the waits began (R255, R312). -/
inductive WaitFor where
  | sem (k : BitVec 6) (n : Nat)
  | queue (q : QName)
  deriving DecidableEq, Repr

/-- A task's identity and its image (02_words R27 to R29, 15_dispatch R332, 17_traps R384). -/
structure Task where
  tenant : Tenant
  /-- priority class -/
  cls : Nat
  /-- gang number in the dispatcher's list -/
  gang : Nat
  member : Nat
  size : Nat
  image : Nat
  /-- bytes of the image, which the task may not store to (R32) -/
  imageSize : Nat
  variant : Nat
  serial : W32
  /-- offset and size of .scalar, .load, .compute and .store -/
  sects : List (Nat × Nat)
  hidx : W32
  deriving DecidableEq, Repr

/-- The four sequencers of a core. -/
structure Seqs where
  x : Vector XCtx 4
  l : LSeq
  s : LSeq
  c : CSeq
  deriving DecidableEq, Repr

/-- Pool boundaries in KiB, scratchpad bytes, register banks that are gated (R131 to R135, R176). -/
structure Pool where
  rfb : Nat
  spb : Nat
  l1b : Nat
  scratch : Mem
  gated : List Nat
  deriving DecidableEq, Repr

/-- Semaphores, saturation bits and the waiters in order (R253, R255, R312). -/
structure Sync where
  sems : Vector W16 64
  sovf : W64
  waiters : List (Agent × WaitFor)
  mail : List MailSlot
  entries : List RegEntry
  nextEntry : Nat
  deriving DecidableEq, Repr

/-- System registers that nothing else holds (14_scalar R314 to R317, 08_numbers R196, 11_draw R240). -/
structure SysRegs where
  gng : W64
  kvar : W64
  pblk : W64
  lkind : W64
  lvl : Vector W64 6
  eres : W64
  am : Vector W32 4
  dkey : W64
  dctr : W64
  tcause : W64
  tepc : W64
  tval : W64
  txpc : W64
  tscr0 : W64
  tscr1 : W64
  cyc : W64
  /-- core cycles begun but not whole, in units of 1/3200 -/
  cycPart : Nat
  /-- energy of the task in picojoules; `jtask` is this in nanojoules -/
  jtaskPj : Nat
  /-- memory charges of the open 1 µs tick, in picojoules (R346) -/
  memPj : Nat
  /-- `jtask` at the task's start or last restore, in nanojoules (R362) -/
  jtaskBase : Nat
  deriving DecidableEq, Repr

/-- Trap and run state of a core (17_traps R369 to R380). -/
structure TrapSt where
  /-- a trap taken and not yet entered -/
  halt : Option TrapInfo
  hmode : Bool
  xend : Bool
  /-- throttle warning pending: PRAT and DUE at the decision -/
  warn : Option (Nat × Nat)
  /-- a trap that arose while the member was being stopped for a save (R381) -/
  saved : Option TrapInfo
  /-- strict mark: VA of the latest error (R380) -/
  strict : Option Nat
  /-- stopped by the dispatcher: pre-emption or termination (R373, R381) -/
  stop : Bool
  /-- core cycles since a word issued with every agent blocked (R379) -/
  idle : Nat
  deriving DecidableEq, Repr

/-- A code word fetched for a sequencer: section 0 to 3, offset, word (02_words R32). -/
structure Fetched where
  sect : Nat
  off : Nat
  word : W32
  deriving DecidableEq, Repr

/-- Micro-TLBs of X, L and S (03_memory R62). -/
structure MicroTlbs where
  x : List Tlb
  l : List Tlb
  s : List Tlb
  deriving DecidableEq, Repr

/-- Vector, matrix and landing objects of a core that tables load (R27, R142, R149, R167). -/
structure Tables where
  handles : Vector W256 64
  rings : Vector Ring 8
  ports : Vector Port 4
  recipes : Vector W256 32
  deriving DecidableEq, Repr

/-- What the slope of an island's current keeps of a core (16_energy R363 to R365): events since the last 100 ns tick, events per
tick of the work that its current came from, the tenant of that work if its task has left the core, and the filler operations of
the open 1 µs tick for tasks that have left. -/
structure Filling where
  work : Nat
  level : Nat
  gone : Option Tenant
  ops : List (Tenant × Nat)
  deriving DecidableEq, Repr

/-- A core. -/
structure Core where
  task : Option Task
  seqs : Seqs
  /-- the 12 queues in the order of R17, oldest token first -/
  queues : Vector (List (Option W32)) 12
  sync : Sync
  regs : CRegs
  matrix : Matrix
  tables : Tables
  land : Landing
  atoms : List AtomFly
  nextAtom : Nat
  pool : Pool
  l1 : List L1Line
  l1fills : List L1Fill
  /-- number of the next line fill -/
  nextFill : Nat
  tlbs : MicroTlbs
  sys : SysRegs
  trap : TrapSt
  fetched : List Fetched
  /-- events of the core in the open 1 µs tick, by kind, for the activity estimate (16_energy R346) -/
  activity : Vector Nat 11
  fill : Filling
  deriving DecidableEq, Repr

/-! ### Translation and islands -/

/-- Who waits for a translation (03_memory R63). -/
inductive XlatWho where
  /-- the word at pc of an agent, or its fetch -/
  | word (core : CoreId) (a : Agent)
  /-- sector `idx` of a copy, memory sector at `va` -/
  | copy (core : CoreId) (id idx : Nat) (va : Nat)
  /-- barrier address of a bound copy (R130) -/
  | bound (core : CoreId) (id : Nat)
  | atom (core : CoreId) (id : Nat)
  /-- a fetch ahead of an agent: no one waits (R32) -/
  | ahead (core : CoreId) (a : Agent)
  deriving DecidableEq, Repr

/-- A requester of a walk: who, the VA of the access, whether it writes, and whether it writes to the task's own image, which is
read-only to it (02_words R32). -/
structure WalkReq where
  who : XlatWho
  va : Nat
  write : Bool
  image : Bool
  deriving DecidableEq, Repr

/-- A walk of an island: tenant, 4 KiB page of the VA, the fabric cycle at which it was asked for, the requesters merged into it
(R63). -/
structure Walk where
  tenant : Tenant
  page : Nat
  born : Nat
  reqs : List WalkReq
  deriving DecidableEq, Repr

/-- An upper-level pointer held by a walker port (R62): the table of `level` for the VAs with this prefix. -/
structure WalkPtr where
  tenant : Tenant
  level : Nat
  /-- VA shifted right by 12 + 9 × (level + 1) -/
  stem : Nat
  table : Nat
  deriving DecidableEq, Repr

/-- Clock and power of an island (16_energy R353 to R360). Voltages are in units of 0.1 mV, frequencies in MHz. -/
structure Clock where
  v : Nat
  f : Nat
  trat : Nat
  tstep : Nat
  supr : BitVec 8
  /-- pending lowering: ratio, step, intervals until due -/
  low : Option (Nat × Nat × Nat)
  /-- IFREQ lowering held until the next boundary (R360) -/
  held : Option (Nat × Nat)
  warn : Bool
  temp : Nat
  /-- current of the island at the last 100 ns tick, in mA, filler included (R363) -/
  cur : Nat
  droop : Bool
  overCur : Bool
  hot : Bool
  /-- clock of the open interval, all, stretched for any reason, stretched for current, in units of 1/3200 cycle -/
  cycles : Nat
  stretched : Nat
  current : Nat
  stpct : Nat
  /-- STPCT for current of the last interval (R358) -/
  clpct : Nat
  deriving DecidableEq, Repr

/-- Effective tenant settings of an island (R361). -/
structure Setting where
  floor : Nat
  capr : Nat
  breq : Bool
  lead : Nat
  deriving DecidableEq, Repr

/-- An island. -/
structure Island where
  tlb : List Tlb
  /-- the 64-entry side array for 2 MiB and 1 GiB pages -/
  side : List Tlb
  walks : List Walk
  bal : Int
  /-- debits not yet a whole BU, in picojoules -/
  residue : Nat
  /-- memory charge of the open interval in picojoules -/
  mc : Nat
  clock : Clock
  /-- settings in force since the last boundary (R361) -/
  setting : Setting
  ipol : W64
  fthr : W64
  tcyc : W32
  wseq : BitVec 12
  tact : Bool
  dratio : Nat
  /-- deflections and crossings of the open throttle window (R93) -/
  defl : Nat
  cross : Nat
  deriving DecidableEq, Repr

/-- Governor and module energy (R348 to R351, R356, R357). -/
structure Gov where
  mrate : W64
  gpol0 : W64
  gpol1 : W64
  /-- values written and in force from the next boundary -/
  mrateNext : W64
  gpol0Next : W64
  gpol1Next : W64
  therm : W64
  msh : Nat
  oh : Nat
  ghalf : W16
  gstop : W16
  /-- channel sectors, C cycles waited and C cycles of resident tasks in the open interval (R350) -/
  sectors : Nat
  cwait : Nat
  call : Nat
  /-- overhead energy and module energy of the open interval, picojoules -/
  ohPj : Nat
  emodPj : Nat
  /-- 0 no action, 1 accounts below zero halved, 2 all halved, 3 stopped (R357); and whether a clock was halved in the open
  interval -/
  guard : Nat
  halved : Bool
  /-- boundaries, 1 µs ticks, 100 ns ticks and throttle windows taken since reset -/
  boundaries : Nat
  ticks : Nat
  ramps : Nat
  windows : Nat
  /-- islands whose due lowering is still to be decided at the boundary just taken, with the lowest ratio that the
  decision of R358 asked to be warned of, if any (R360) -/
  lowering : List (IslandId × Option Nat)
  deriving DecidableEq, Repr

/-! ### Tenants, launches, gangs -/

/-- A launch record in a queue (15_dispatch R327 to R331). -/
structure LRec where
  /-- its 64 bytes -/
  bytes : List Byte
  serial : W32
  /-- kernel number once accepted -/
  kernel : Option Nat
  /-- of a forwarded record: accepting module, its number of the kernel, device index here (R326) -/
  origin : Option (Nat × Nat × Nat)
  deriving DecidableEq, Repr

/-- A launch queue (R327, R328). -/
structure LQueue where
  recs : List LRec
  rej : W16
  ovf : W16
  deriving DecidableEq, Repr

/-- Who holds a fault record that could not be written (03_memory R71). -/
inductive Holder where
  | copy (core : CoreId) (id : Nat)
  | atom (core : CoreId) (id : Nat)
  | ctx (core : CoreId) (ctx : CtxId)
  /-- L, C or S of a core, for its code fetch -/
  | seq (core : CoreId) (a : Agent)
  /-- what a core asks for with no word waiting: line fills and sent-again registrations -/
  | unit (core : CoreId)
  | slice (i : SliceId)
  | dispatcher
  deriving DecidableEq, Repr

/-- A fault record that waits with its agent. -/
structure HeldRec where
  rec_ : W256
  holder : Holder
  deriving DecidableEq, Repr

/-- A saved member of a gang (17_traps R381 to R386): its slot and its core's state. -/
structure Saved where
  slot : Nat
  gang : Nat
  member : Nat
  core : Core
  /-- RESUME actions recorded while saved: copy identifier, replay or kill (R385) -/
  actions : List (W32 × Bool)
  deriving DecidableEq, Repr

/-- The context of a tenant (R343 and the rules it names). -/
structure TenantSt where
  tcfg : W64
  /-- TCFG as the latest selection step found it, which governs until the next one (15_dispatch R344) -/
  policy : W64
  troot : W64
  ttrap : W64
  tpwr : W64
  fqbase : W64
  fqhead : W32
  fqtail : W32
  hin : W32
  hout : W32
  /-- place of the hold store while it is not empty -/
  hold : Nat
  /-- slots of the hold store, as values of HIN, whose record will never be written (R72) -/
  void : List W32
  /-- records waiting with their agents, oldest first -/
  waiting : List HeldRec
  tue : W32
  ttermCount : W32
  ttermLast : W32
  svbase : W64
  saved : List Saved
  sqbase : W64
  sqhead : W32
  sqtail : W32
  /-- service requests that found the ring full or disabled -/
  sqheld : List (List Byte)
  tenePj : Nat
  tovr : W32
  queues : Vector LQueue 4
  serial : W32
  /-- DEF of classes 0 to 3 -/
  deficit : Vector Nat 4
  deriving DecidableEq, Repr

/-- A loop level of a kernel: kind and trip count as read at acceptance (R29, R330). -/
structure Level where
  kind : Nat
  count : Nat
  deriving DecidableEq, Repr

/-- A variant of a kernel: sections, class, quality (R28) and its reservation. -/
structure Variant where
  sects : List (Nat × Nat)
  cls : Nat
  quality : Nat
  res : Nat
  deriving DecidableEq, Repr

/-- What the dispatcher keeps of an accepted kernel (R323 to R340). -/
structure Kernel where
  id : Nat
  tenant : Tenant
  queue : Nat
  serial : W32
  image : Nat
  puth : Bool
  param : Nat
  paramSize : Nat
  done : Nat
  wait0 : Nat
  tgt0 : W64
  wait1 : Nat
  tgt1 : W64
  status : Nat
  /-- the record as forwarded (R326) -/
  bytes : List Byte
  /-- the image's header and tables, as read and checked (R27, R31) -/
  header : List Byte
  handles : List W256
  rings : List W64
  ports : List W256
  recipes : List W256
  gsize : Nat
  pool : Nat × Nat × Nat
  noClass : Bool
  levels : List Level
  variants : List Variant
  hidx : W32
  /-- module that accepted the launch, as an index, its number of the kernel, and this module's device index -/
  acceptor : Nat
  number : Nat
  device : Nat
  /-- gangs started on this module -/
  started : Nat
  /-- the record has been forwarded to the other modules concerned -/
  sent : Bool
  /-- tasks completed, killed, over all modules the acceptor knows of -/
  completed : Nat
  killed : Nat
  /-- cause of the first termination -/
  cause : Nat
  skip : Nat
  /-- a skip was counted in the current step -/
  skipped : Bool
  claim : Option IslandId
  /-- values of WAIT0 and WAIT1 as last read; none after a failing read -/
  read0 : Option W64
  read1 : Option W64
  /-- STATUS and DONE are still to be written (R331, R339) -/
  owedStatus : Bool
  owedDone : Bool
  statusWritten : Bool
  /-- first failures already recorded: WAIT0, WAIT1, STATUS, DONE -/
  failed : List Bool
  deriving DecidableEq, Repr

/-- Whether a gang runs, is being saved, or is being terminated. -/
inductive GangSt where
  | running | saving | saved | killing
  deriving DecidableEq, Repr

/-- A started gang (R325, R332, R338). -/
structure Gang where
  id : Nat
  kernel : Nat
  tenant : Tenant
  cls : Nat
  index : Nat
  size : Nat
  island : IslandId
  /-- core of each member, in member order -/
  cores : List CoreId
  /-- members not yet completed -/
  left : List Nat
  variant : Nat
  /-- fabric cycle at which the slice began -/
  since : Nat
  /-- tcause of a termination -/
  cause : W32
  st : GangSt
  deriving DecidableEq, Repr

/-- A rejection whose STATUS doubleword is still to be written (R330, R331). -/
structure OwedStatus where
  tenant : Tenant
  va : Nat
  value : W64
  failed : Bool
  deriving DecidableEq, Repr

/-- A launch or a completion report on its way to another module (R326, R397). -/
inductive PeerMsg where
  | launch (dst : Nat) (tenant : Tenant) (queue : Nat) (bytes : List Byte) (kernel : Nat)
  | report (dst : Nat) (kernel : Nat) (killed : Option Nat)
  deriving DecidableEq, Repr

/-- Bytes that the dispatcher has read, or is reading, from the host aperture. -/
structure HostChunk where
  pa : Nat
  size : Nat
  /-- the bytes and a fault code (0 for none) once the completion has come -/
  data : Option (List Byte × Nat)
  deriving DecidableEq, Repr

/-- The dispatcher (R333 to R340). -/
structure Disp where
  kernels : List Kernel
  gangs : List Gang
  nextId : Nat
  /-- PTR of classes 0 to 3 -/
  ptr : Vector Nat 4
  owed : List OwedStatus
  peer : List PeerMsg
  /-- cores claimed for a waiting gang by a pre-emption (R338): kernel, cores -/
  claims : List (Nat × List CoreId)
  chunks : List HostChunk
  /-- submissions whose record is being read from the host aperture: tenant, queue, VA (R327) -/
  subs : List (Tenant × Fin 4 × Nat)
  /-- a selection step is due (R335) -/
  due : Bool
  /-- records are to be checked or bytes have come, with no selection of their own -/
  look : Bool
  /-- a gang's start in a selection step waits for bytes of its data block from the host aperture -/
  paused : Bool
  deriving DecidableEq, Repr

/-! ### Host, peers, management core -/

/-- A request to the host that waits for its completion (18_host R387, R388). -/
structure HostReq where
  tag : Nat
  bus : Nat
  /-- device physical address -/
  pa : Nat
  size : Nat
  atom : Option AtomReq
  /-- a flushing read of zero length -/
  flush : Bool
  who : Who
  /-- priority of the request, which its answer takes (04_fabric R81) -/
  pri : Nat
  /-- Relaxed Ordering and No Snoop, as the segment has them (R389) -/
  rlx : Bool
  nsnp : Bool
  sent : Nat
  deriving DecidableEq, Repr

/-- A posted write handed to the endpoint (R388), with its segment's Relaxed Ordering and No Snoop (R389). -/
structure HostWrite where
  bus : Nat
  data : List Byte
  rlx : Bool
  nsnp : Bool
  deriving DecidableEq, Repr

/-- An event ingress stream (12_sync R278, R279). -/
structure Stream where
  cfg : W64
  drop : W32
  /-- SENT, and the sequence number of the next message -/
  sent : W32
  /-- waiting records, oldest first, each with the fabric cycle at which it arrived -/
  buf : List (Nat × W64)
  /-- message that its core has not yet accepted, its target, its records, and the cycle at which it is sent again after a refusal (R275) -/
  out : Option (CoreId × Mail × Nat × Option Nat)
  deriving DecidableEq, Repr

/-- A peer module as this module sees it (R394, R395): its memory and its owner tags. It is present; the links tell whether it can be
reached. -/
structure PeerMod where
  index : Nat
  mem : Mem
  tags : List (Nat × Nat)
  /-- tenants it has enabled -/
  enabled : List Tenant
  deriving DecidableEq, Repr

/-- Host block, endpoint, link and boot (R389 to R401). -/
structure HostSt where
  hstat : W64
  hdb : W64
  /-- a mailbox request is pending in firmware (R392) -/
  pending : Bool
  hacc : W64
  hwbase : W64
  herr : W64
  hseg : Vector W64 64
  request : Mem
  answer : Mem
  link : Bool
  reqs : List HostReq
  posted : List HostWrite
  /-- completions given to the host for its requests, oldest first (R387, R390) -/
  cpls : List Cpl
  streams : Vector Stream 4
  slnk : Vector W64 2
  peers : List PeerMod
  /-- the other modules whose link to the next present module upward is down (R397) -/
  cuts : List Nat
  /-- answers given to peer modules, oldest first (R395) -/
  answers : List Body
  /-- BAR2 has 2^bar2 bytes (R390) -/
  bar2 : Nat
  /-- firmware slots of the flash, as images, and the version floor (R398) -/
  flash : Vector (List Byte) 2
  floor : W32
  /-- the seal of the floor in flash; none while the ROM has not raised it (R398) -/
  sealed : Option (BitVec 512)
  /-- the image of the running firmware (R400) -/
  running : List Byte
  /-- MSI-X vectors raised -/
  msix : List Nat
  deriving DecidableEq, Repr

/-- An owner change in progress (03_memory R66): granule and new tag. -/
structure Own where
  gran : Nat
  tag : Nat
  deriving DecidableEq, Repr

/-- Management-core side: translation and ownership commands, counters, interrupts (03_memory R64 to R73). -/
structure Mgmt where
  /-- owner tags of the granules that are not 15, ascending -/
  tags : List (Nat × Nat)
  own : Option Own
  ownHeld : List W64
  tinv : Option W64
  tinvHeld : List W64
  resumeRes : Nat
  svRes : Nat
  sva0 : W64
  sva1 : W64
  mce : Vector W32 16
  fwue : W32
  /-- interrupts raised to the management core, oldest first: 0 fault queue, 1 service ring, 2 firmware error -/
  irq : List Nat
  /-- registers stopped by a watchdog expiry (R401) -/
  dead : Bool
  deriving DecidableEq, Repr

/-! ### The module -/

/-- The module. `agenda`, `draws`, `upset` and `focus` are the model's own (log 1, log 2, log 84). -/
structure State where
  agenda : List Turn
  draws : Nat
  /-- what the line check codes find at the next channel read that a word fetch, a page walk or the dispatcher makes (log 84) -/
  upset : Ecc
  /-- the core and agent whose word `exec` gives its meaning to -/
  focus : CoreId × Agent
  time : Nat
  mem : Mem
  cores : Vector Core 160
  slices : Vector Slice 80
  walkPtrs : Vector (List WalkPtr) 80
  fabric : Fabric
  islands : Vector Island 10
  tenants : Vector TenantSt 12
  disp : Disp
  gov : Gov
  host : HostSt
  mgmt : Mgmt
  deriving DecidableEq, Repr

/-! ### How a step can stop -/

/-- Why the machine stops. -/
inductive Fault where
  /-- Raised by `step` alone: the turn at the head of State.agenda is no device step and no issue that the machine can
  take (a word of a code section given as an event, or an ill-formed term). No hardware has such a turn. Safe. -/
  | malformedTurn
  deriving DecidableEq, Repr

/-- Why an instruction has no meaning here. -/
inductive Refusal where
  /-- Raised by an arm of `exec` whose instruction has no meaning yet. Safe. -/
  | notModelled (mnemonic : String)
  deriving DecidableEq, Repr

/-! ### Reset

A register of a core holds at module reset the value that the spec gives it at task start, and a core holds no task
(log 4). -/

/-- A dormant context with every register zero (R301). -/
def XCtx.reset : XCtx :=
  { run := .dormant, pc := 0, regs := Vector.replicate 32 0, loads := [], stores := [], nextId := 0, op := none,
    fault := none, wait := none, stall := 0, hostStore := none, service := List.replicate 8 0 }

/-- L or S with every register zero (R97); ended, since no section is loaded. -/
def LSeq.reset : LSeq :=
  { pc := 0, a := Vector.replicate 16 0, lc := Vector.replicate 4 0, ended := true, popped := false, handle := none, reading := none,
    serial := 0, pend := [], hostStore := none, fault := none, wait := none, stall := 0 }

/-- C at offset 0; ended, since no section is loaded. -/
def CSeq.reset : CSeq :=
  { pc := 0, ended := true, popped := false, ret := [], fault := none, wait := none, stall := 0 }

/-- An EMPTY physical register (R156). -/
def PReg.reset : PReg := { st := .empty, frame := none, lanes := [], bind := none }

/-- Entry i of a pattern is i (09_vector R220). -/
def patReset : List Byte := (List.range 64).map (BitVec.ofNat 8)

/-- The registers of C: `np` EMPTY physical registers (R154), masks zero (R164), patterns (R220), STG and LPC zero
(R159), SHP 16 × 64 and f32 (R161), FCS zero (08_numbers R193). -/
def CRegs.reset (np : Nat) : CRegs :=
  { pregs := List.replicate np PReg.reset, masks := Vector.replicate 8 0, pats := Vector.replicate 8 patReset, stg := 0,
    rrb := 0, epi := 0, cnt := 0, shp := 0x3FF, fcs := 0 }

/-- Tiles and MXCNT zero (10_matrix R225, R234). -/
def Matrix.reset : Matrix :=
  { tiles := Vector.replicate 8 (List.replicate 4096 0), mxcnt := 0, words := [], nextId := 0 }

/-- A watermark register (R106). -/
def Wmark.reset : Wmark :=
  { fbase := 0, rlen := 0, nrow := 0, lp := 0, ic := 0, out := false, st := 0, gix := false, dup := false, bnd := false,
    total := 0, count := 0 }

/-- An unconfigured ring (R142, R143). -/
def Ring.reset : Ring :=
  { cfg := 0, head := 0, tail := 0, itail := 0, ucnt := 0, uses := 0, early := [], landed := [],
    met := [], sums := List.replicate 64 { sv := false, z := 0, f := 0 } }

/-- An unconfigured port (R149, R150). -/
def Port.reset : Port := { cfg := 0, idx := 0, last := none }

/-- Watermarks zero, nothing live, no window (R106, R119). -/
def Landing.reset : Landing :=
  { wms := Vector.replicate 16 Wmark.reset, copies := [], orphans := [], nextId := 0, windows := [], fetches := [] }

/-- System registers zero (R314 to R317, R196, R240). -/
def SysRegs.reset : SysRegs :=
  { gng := 0, kvar := 0, pblk := 0, lkind := 0, lvl := Vector.replicate 6 0, eres := 0, am := Vector.replicate 4 0, dkey := 0,
    dctr := 0, tcause := 0, tepc := 0, tval := 0, txpc := 0, tscr0 := 0, tscr1 := 0, cyc := 0, cycPart := 0,
    jtaskPj := 0, memPj := 0, jtaskBase := 0 }

/-- Not stopped, no handler, nothing pending. -/
def TrapSt.reset : TrapSt :=
  { halt := none, hmode := false, xend := false, warn := none, saved := none, strict := none, stop := false, idle := 0 }

/-- Handles, rings, ports and recipes before any table is loaded. -/
def Tables.reset : Tables :=
  { handles := Vector.replicate 64 0, rings := Vector.replicate 8 Ring.reset, ports := Vector.replicate 4 Port.reset,
    recipes := Vector.replicate 32 0 }

/-- Semaphores zero, mailbox and registration entries empty (R253, R272, R276). -/
def Sync.reset : Sync :=
  { sems := Vector.replicate 64 0, sovf := 0, waiters := [], mail := [], entries := [], nextEntry := 0 }

/-- A core without a task. -/
def Core.reset : Core :=
  { task := none,
    seqs := { x := Vector.replicate 4 XCtx.reset, l := LSeq.reset, s := LSeq.reset, c := CSeq.reset },
    queues := Vector.replicate 12 [], sync := Sync.reset, regs := CRegs.reset 128, matrix := Matrix.reset,
    tables := Tables.reset, land := Landing.reset, atoms := [], nextAtom := 0,
    pool := { rfb := 0, spb := 0, l1b := 0, scratch := [], gated := [] },
    l1 := [], l1fills := [], nextFill := 0, tlbs := { x := [], l := [], s := [] }, sys := SysRegs.reset, trap := TrapSt.reset,
    fetched := [], activity := Vector.replicate 11 0,
    fill := { work := 0, level := 0, gone := none, ops := [] } }

/-- A router with nothing waiting and no credit in use (R88). -/
def Router.reset : Router := { outbox := [], inject := none, credits := [], inbox := [] }

/-- An empty fabric (R78 to R80, R96). -/
def Fabric.reset : Fabric :=
  { routers := Vector.replicate 240 Router.reset, links := [], sounds := [], claims := [], drops := Vector.replicate 16 0 }

/-- A slice with no line valid (R74). -/
def Slice.reset : Slice := { lines := [], windows := [], fills := [], lineAt := none, atomAt := none }

/-- The middle ratio, step 0 (R353): 0.70 V, 800 MHz. -/
def Clock.reset : Clock :=
  { v := 7000, f := 800, trat := 1, tstep := 0, supr := 0, low := none, held := none, warn := false, temp := 0, cur := 0,
    droop := false, overCur := false, hot := false, cycles := 0, stretched := 0, current := 0, stpct := 0,
    clpct := 0 }

/-- Settings with no gang resident (R361). -/
def Setting.reset : Setting := { floor := 0, capr := 2, breq := false, lead := 1 }

/-- An island: accounts zero (R345), ILIM 4,000, WEIGHT 1, BEN 1 (R352), DUTY 4, THRESH 256 (R94). -/
def Island.reset : Island :=
  { tlb := [], side := [], walks := [], bal := 0, residue := 0, mc := 0, clock := Clock.reset, setting := Setting.reset,
    ipol := 0x0FA0_0180_0000_0000, fthr := 0x8100, tcyc := 0, wseq := 0, tact := false, dratio := 0, defl := 0,
    cross := 0 }

/-- MRATE 641 (R348), the policy values of R351, TCRIT 105 and TWARN 95 (R356). The boundary that opens interval 0
(R349) is due at once. -/
def Gov.reset : Gov :=
  { mrate := 641, gpol0 := 0x0DAC_02BC_015E_28BC, gpol1 := 0x20C0_08C0_4040_100A, mrateNext := 641,
    gpol0Next := 0x0DAC_02BC_015E_28BC, gpol1Next := 0x20C0_08C0_4040_100A, therm := 0x695F, msh := 32, oh := 0,
    ghalf := 0, gstop := 0, sectors := 0, cwait := 0, call := 0, ohPj := 0, emodPj := 0, guard := 0, halved := false, boundaries := 0,
    ticks := 0, ramps := 0, windows := 0, lowering := [] }

/-- A tenant not enabled: PMAX 3, ISL 0x3FF, WEIGHT 1, SLICE 200 (R343), WSL 100 (R376), RCAP 2, WTE 1, WLEAD 1 (R361);
DEF zero (log 4). -/
def TenantSt.reset : TenantSt :=
  { tcfg := 0x3FFC_0001_00C8_0000, policy := 0x3FFC_0001_00C8_0000, troot := 0, ttrap := 100, tpwr := 0x901, fqbase := 0, fqhead := 0, fqtail := 0,
    hin := 0, hout := 0, hold := 0, void := [], waiting := [], tue := 0, ttermCount := 0, ttermLast := 0, svbase := 0, saved := [],
    sqbase := 0, sqhead := 0, sqtail := 0, sqheld := [], tenePj := 0, tovr := 0,
    queues := Vector.replicate 4 { recs := [], rej := 0, ovf := 0 }, serial := 0, deficit := Vector.replicate 4 0 }

/-- No kernel, no gang; PTR zero (log 4). -/
def Disp.reset : Disp :=
  { kernels := [], gangs := [], nextId := 0, ptr := Vector.replicate 4 0, owed := [], peer := [], claims := [], chunks := [], subs := [],
    due := false, look := false, paused := false }

/-- A stream not enabled (R279). -/
def Stream.reset : Stream := { cfg := 0, drop := 0, sent := 0, buf := [], out := none }

/-- NMOD 1 and STAGE 0 (R393), segments disabled (R389), link down, mailbox areas zero, flash slots empty, no peer, BAR2 of 128 GiB (R390)
(log 4). -/
def HostSt.reset : HostSt :=
  { hstat := 0x10, hdb := 0, pending := false, hacc := 0, hwbase := 0, herr := 0, hseg := Vector.replicate 64 0,
    request := [], answer := [], link := false, reqs := [], posted := [], cpls := [],
    streams := Vector.replicate 4 Stream.reset, slnk := Vector.replicate 2 0, peers := [], cuts := [], answers := [],
    bar2 := 37, flash := Vector.replicate 2 [], floor := 0, sealed := none,
    running := [], msix := [] }

/-- Every owner tag 15 (R65), nothing in progress (R64, R66, R72), counters zero (R73). -/
def Mgmt.reset : Mgmt :=
  { tags := [], own := none, ownHeld := [], tinv := none, tinvHeld := [], resumeRes := 0, svRes := 0, sva0 := 0, sva1 := 0,
    mce := Vector.replicate 16 0, fwue := 0, irq := [], dead := false }

/-- The module right after reset (18_host R401, step 1): fabric cycle 0 (R84), memory with nothing listed (log 3). -/
def State.reset : State :=
  { agenda := [], draws := 0, upset := Ecc.clean, focus := (0, .x 0), time := 0, mem := [], cores := Vector.replicate 160 Core.reset,
    slices := Vector.replicate 80 Slice.reset, walkPtrs := Vector.replicate 80 [], fabric := Fabric.reset,
    islands := Vector.replicate 10 Island.reset, tenants := Vector.replicate 12 TenantSt.reset, disp := Disp.reset,
    gov := Gov.reset, host := HostSt.reset, mgmt := Mgmt.reset }

end Sys2Proof.Machine
end

