-- ==== Sys2Proof/Machine/Ops.lean ====
section
/-! DEFINITION. The named operations over the state: its parts, bytes and memory, scalar registers, queues and
semaphores, free values. Every read and write of a register or of memory goes through one of these. -/

namespace Sys2Proof.Machine

open Sys2Proof

/-- What a meaning answers. -/
abbrev Out := Host.Outcome State Fault Refusal

/-! ### Parts of the state -/

/-- A core. -/
def State.core (s : State) (c : CoreId) : Core := s.cores[c.val]

/-- The state with a core replaced. -/
def State.setCore (s : State) (c : CoreId) (k : Core) : State := { s with cores := s.cores.set c.val k c.isLt }

/-- The state with a core changed. -/
def State.modCore (s : State) (c : CoreId) (f : Core → Core) : State := s.setCore c (f (s.core c))

/-- A context of a core. -/
def Core.ctx (k : Core) (x : CtxId) : XCtx := k.seqs.x[x.val]

/-- The core with a context replaced. -/
def Core.setCtx (k : Core) (x : CtxId) (v : XCtx) : Core :=
  { k with seqs := { k.seqs with x := k.seqs.x.set x.val v x.isLt } }

/-- The sequencer state of L, or of S when `st` is true. -/
def Core.ls (k : Core) (st : Bool) : LSeq := if st then k.seqs.s else k.seqs.l

/-- The core with L, or S, replaced. -/
def Core.setLs (k : Core) (st : Bool) (v : LSeq) : Core :=
  if st then { k with seqs := { k.seqs with s := v } } else { k with seqs := { k.seqs with l := v } }

/-- The core with the state of C replaced. -/
def Core.setC (k : Core) (v : CSeq) : Core := { k with seqs := { k.seqs with c := v } }

/-- A tenant's context. -/
def State.tenant (s : State) (t : Tenant) : TenantSt := s.tenants[t.val]

/-- The state with a tenant's context changed. -/
def State.modTenant (s : State) (t : Tenant) (f : TenantSt → TenantSt) : State :=
  { s with tenants := s.tenants.set t.val (f (s.tenant t)) t.isLt }

/-- An island. -/
def State.island (s : State) (i : IslandId) : Island := s.islands[i.val]

/-- The state with an island changed. -/
def State.modIsland (s : State) (i : IslandId) (f : Island → Island) : State :=
  { s with islands := s.islands.set i.val (f (s.island i)) i.isLt }

/-- A slice. -/
def State.slice (s : State) (i : SliceId) : Slice := s.slices[i.val]

/-- The state with a slice changed. -/
def State.modSlice (s : State) (i : SliceId) (f : Slice → Slice) : State :=
  { s with slices := s.slices.set i.val (f (s.slice i)) i.isLt }

/-- A router. -/
def State.router (s : State) (r : RouterId) : Router := s.fabric.routers[r.val]

/-- The state with a router changed. -/
def State.modRouter (s : State) (r : RouterId) (f : Router → Router) : State :=
  { s with fabric := { s.fabric with routers := s.fabric.routers.set r.val (f (s.router r)) r.isLt } }

/-- The tenant whose task a core runs (03_memory R65: as the dispatcher has recorded). -/
def Core.tenant (k : Core) : Option Tenant := k.task.map Task.tenant

/-- The island of a core (14_scalar R315: core = 16 × island + column). -/
def islandOf (c : CoreId) : IslandId := ⟨c.val / 16, by omega⟩

/-- A number below a bound as an index, by remainder. -/
def finOf (n : Nat) (k : Nat) (h : 0 < n := by decide) : Fin n := ⟨k % n, Nat.mod_lt _ h⟩

/-- A free number and the state that has taken it (log 2). -/
def State.draw (s : State) : Nat × State := (s.draws, { s with draws := s.draws + 1 })

/-! ### Bytes -/

/-- The number that bytes hold, little-endian (00_scope R8). -/
def leNat : List Byte → Nat
  | [] => 0
  | b :: bs => b.toNat + 256 * leNat bs

/-- `n` bytes of a number, little-endian. -/
def leBytes : Nat → Nat → List Byte
  | 0, _ => []
  | n + 1, v => BitVec.ofNat 8 v :: leBytes n (v / 256)

/-- `n` zero bytes. -/
def zeros (n : Nat) : List Byte := List.replicate n 0

/-- A field of a 64-bit register as a number. -/
def fld (v : W64) (hi lo : Nat) : Nat := v.toNat / 2 ^ lo % 2 ^ (hi - lo + 1)

/-- A field of a 256-bit entry as a number. -/
def fld256 (v : W256) (hi lo : Nat) : Nat := v.toNat / 2 ^ lo % 2 ^ (hi - lo + 1)

/-- The register with a field replaced. -/
def setFld (v : W64) (hi lo : Nat) (x : Nat) : W64 :=
  let m : Nat := (2 ^ (hi - lo + 1) - 1) * 2 ^ lo
  (v &&& ~~~(BitVec.ofNat 64 m)) ||| (BitVec.ofNat 64 (x * 2 ^ lo) &&& BitVec.ofNat 64 m)

/-! ### Memory -/

/-- The byte at an address; an unlisted address reads as 0x00 (log 3; 06_pool R134 for a scratchpad). -/
def Mem.read (m : Mem) (a : Nat) : Byte :=
  match m with
  | [] => 0
  | (x, b) :: rest => if x == a then b else Mem.read rest a

/-- A byte put before the first entry of a higher address. -/
def Mem.insert (m : Mem) (a : Nat) (b : Byte) : Mem :=
  match m with
  | [] => [(a, b)]
  | (x, c) :: rest => if x < a then (x, c) :: Mem.insert rest a b else (a, b) :: (x, c) :: rest

/-- The memory with one byte written, in canonical form. -/
def Mem.write (m : Mem) (a : Nat) (b : Byte) : Mem :=
  let others := m.filter (fun p => p.1 != a)
  if b == 0 then others else Mem.insert others a b

/-- Every listed address is at least `lo`, addresses rise strictly and no entry is zero. -/
def Mem.wfFrom (lo : Nat) : Mem → Bool
  | [] => true
  | (x, b) :: rest => decide (lo ≤ x) && b != 0 && Mem.wfFrom (x + 1) rest

/-- The canonical form. -/
def Mem.wf (m : Mem) : Bool := Mem.wfFrom 0 m

/-- `n` bytes from an address. -/
def Mem.readN (m : Mem) (a : Nat) : Nat → List Byte
  | 0 => []
  | n + 1 => m.read a :: Mem.readN m (a + 1) n

/-- Bytes written from an address. -/
def Mem.writeN (m : Mem) (a : Nat) : List Byte → Mem
  | [] => m
  | b :: bs => Mem.writeN (m.write a b) (a + 1) bs

/-- A number of `n` bytes read little-endian. -/
def Mem.readLe (m : Mem) (a n : Nat) : Nat := leNat (m.readN a n)

/-- The memory without the bytes from `lo` to below `hi` (owner zeroing, 03_memory R66). -/
def Mem.clear (m : Mem) (lo hi : Nat) : Mem := m.filter (fun p => decide (p.1 < lo) || decide (hi ≤ p.1))

/-! ### Scalar registers of X (14_scalar R301) -/

/-- A register of a context; s0 reads as zero. -/
def XCtx.get (x : XCtx) (r : BitVec 5) : W64 := if r == 0 then 0 else x.regs[r.toNat]'r.isLt

/-- The context with a register written; a write to s0 is discarded. -/
def XCtx.set (x : XCtx) (r : BitVec 5) (v : W64) : XCtx :=
  if r == 0 then x else { x with regs := x.regs.set r.toNat v r.isLt }

/-- Address register of L or S (05_copies R97). -/
def LSeq.get (q : LSeq) (r : BitVec 4) : W64 := q.a[r.toNat]'r.isLt

/-- L or S with an address register written. -/
def LSeq.set (q : LSeq) (r : BitVec 4) (v : W64) : LSeq := { q with a := q.a.set r.toNat v r.isLt }

/-- Loop counter of L or S. -/
def LSeq.loop (q : LSeq) (k : BitVec 2) : W32 := q.lc[k.toNat]'k.isLt

/-- L or S with a loop counter written. -/
def LSeq.setLoop (q : LSeq) (k : BitVec 2) (v : W32) : LSeq := { q with lc := q.lc.set k.toNat v k.isLt }

/-! ### Queues (01_journey R17, 02_words R37) -/

/-- Place of a queue in the order of R17. -/
def QName.idx : QName → Fin 12
  | .xl => 0
  | .xc => 1
  | .xs => 2
  | .lx => 3
  | .lc => 4
  | .ls => 5
  | .cx => 6
  | .cl => 7
  | .cs => 8
  | .sx => 9
  | .sl => 10
  | .sc => 11

/-- The queue that an agent pushes to for a peer (R17, R37). -/
def pushQ (a : Agent) (p : Peer) : QName :=
  match a, p with
  | .x _, .first => .xl
  | .x _, .second => .xc
  | .x _, .third => .xs
  | .l, .first => .lx
  | .l, .second => .lc
  | .l, .third => .ls
  | .c, .first => .cx
  | .c, .second => .cl
  | .c, .third => .cs
  | .s, .first => .sx
  | .s, .second => .sl
  | .s, .third => .sc

/-- The queue that an agent pops for a peer (R17, R37). -/
def popQ (a : Agent) (p : Peer) : QName :=
  match a, p with
  | .x _, .first => .lx
  | .x _, .second => .cx
  | .x _, .third => .sx
  | .l, .first => .xl
  | .l, .second => .cl
  | .l, .third => .sl
  | .c, .first => .xc
  | .c, .second => .lc
  | .c, .third => .sc
  | .s, .first => .xs
  | .s, .second => .ls
  | .s, .third => .cs

/-- The entries of a queue, oldest first. -/
def Core.queue (k : Core) (q : QName) : List (Option W32) := k.queues[q.idx.val]

/-- The core with a queue replaced. -/
def Core.setQueue (k : Core) (q : QName) (v : List (Option W32)) : Core :=
  { k with queues := k.queues.set q.idx.val v q.idx.isLt }

/-- A queue holds 16 entries (R17). -/
def Core.queueFull (k : Core) (q : QName) : Bool := decide (16 ≤ (k.queue q).length)

/-- The core after a push. -/
def Core.pushQueue (k : Core) (q : QName) (v : Option W32) : Core := k.setQueue q (k.queue q ++ [v])

/-- The core after a pop. -/
def Core.popQueue (k : Core) (q : QName) : Core := k.setQueue q (k.queue q).tail

/-- Several pushes, first one first. -/
def Core.pushAll (k : Core) : List (QName × Option W32) → Core
  | [] => k
  | (q, v) :: rest => (k.pushQueue q v).pushAll rest

/-- Several pops. -/
def Core.popAll (k : Core) : List QName → Core
  | [] => k
  | q :: rest => (k.popQueue q).popAll rest

/-- Every push fits, counting several pushes to one queue. -/
def Core.room (k : Core) (ps : List (QName × Option W32)) : Bool :=
  ps.all (fun p => decide ((k.queue p.1).length + ps.countP (fun r => r.1 == p.1) ≤ 16))

/-- Queues that a token field pops (R37): bit 5 first peer, bit 4 second, bit 3 third. -/
def tokPops (a : Agent) (t : Token) : List QName :=
  (if t.getLsbD 5 then [popQ a .first] else []) ++ (if t.getLsbD 4 then [popQ a .second] else [])
    ++ (if t.getLsbD 3 then [popQ a .third] else [])

/-- Bare pushes of a token field (R37): bit 2 first peer, bit 1 second, bit 0 third. -/
def tokPushes (a : Agent) (t : Token) (v : Option W32) : List (QName × Option W32) :=
  (if t.getLsbD 2 then [(pushQ a .first, v)] else []) ++ (if t.getLsbD 1 then [(pushQ a .second, v)] else [])
    ++ (if t.getLsbD 0 then [(pushQ a .third, v)] else [])

/-! ### Semaphores (12_sync R253 to R255) -/

/-- Count of a semaphore. -/
def Core.sem (k : Core) (i : BitVec 6) : W16 := k.sync.sems[i.toNat]'i.isLt

/-- The core with a semaphore set. -/
def Core.setSem (k : Core) (i : BitVec 6) (v : W16) : Core :=
  { k with sync := { k.sync with sems := k.sync.sems.set i.toNat v i.isLt } }

/-- An increment: past 65,535 the count stays there and the bit of SOVF is set. -/
def Core.semAdd (k : Core) (i : BitVec 6) (n : Nat) : Core :=
  if (k.sem i).toNat + n ≤ 65535 then k.setSem i (BitVec.ofNat 16 ((k.sem i).toNat + n))
  else
    let k := k.setSem i 65535
    { k with sync := { k.sync with sovf := k.sync.sovf ||| (1#64 <<< i.toNat) } }

/-- Waiters on one thing, in the order in which they began to wait. -/
def Core.waitersOn (k : Core) (p : WaitFor → Bool) : List Agent :=
  (k.sync.waiters.filter (fun w => p w.2)).map Prod.fst

/-- The waiter waits for semaphore `i`. -/
def WaitFor.onSem (i : BitVec 6) : WaitFor → Bool
  | .sem j _ => j == i
  | .queue _ => false

/-- The waiter waits for queue `q`. -/
def WaitFor.onQueue (q : QName) : WaitFor → Bool
  | .sem _ _ => false
  | .queue r => r == q

/-- The agent joins the waiters unless it is among them already. -/
def Core.joinWait (k : Core) (a : Agent) (w : WaitFor) : Core :=
  if k.sync.waiters.contains (a, w) then k
  else { k with sync := { k.sync with waiters := k.sync.waiters ++ [(a, w)] } }

/-- The agent leaves the waiters. -/
def Core.leaveWait (k : Core) (a : Agent) : Core :=
  { k with sync := { k.sync with waiters := k.sync.waiters.filter (fun w => w.1 != a) } }

/-- No one that began earlier still waits (R255, R312): the agent is first of the waiters, or none waits. -/
def Core.firstWaiter (k : Core) (a : Agent) (p : WaitFor → Bool) : Bool :=
  match k.waitersOn p with
  | [] => true
  | b :: _ => b == a

/-- Whether a `sema` of an agent is served now (R255). -/
def Core.semServed (k : Core) (a : Agent) (i : BitVec 6) (n : Nat) : Bool :=
  k.firstWaiter a (WaitFor.onSem i) && decide (n ≤ (k.sem i).toNat)

/-- The core after a served `sema`. -/
def Core.semTake (k : Core) (a : Agent) (i : BitVec 6) (n : Nat) : Core :=
  (k.leaveWait a).setSem i (BitVec.ofNat 16 ((k.sem i).toNat - n))

/-! ### Watermarks, rings, ports, handles -/

/-- A watermark register. -/
def Core.wm (k : Core) (w : BitVec 4) : Wmark := k.land.wms[w.toNat]'w.isLt

/-- The core with a watermark register changed. -/
def Core.modWm (k : Core) (w : BitVec 4) (f : Wmark → Wmark) : Core :=
  { k with land := { k.land with wms := k.land.wms.set w.toNat (f (k.wm w)) w.isLt } }

/-- A ring. -/
def Core.ring (k : Core) (r : BitVec 3) : Ring := k.tables.rings[r.toNat]'r.isLt

/-- The core with a ring changed. -/
def Core.modRing (k : Core) (r : BitVec 3) (f : Ring → Ring) : Core :=
  { k with tables := { k.tables with rings := k.tables.rings.set r.toNat (f (k.ring r)) r.isLt } }

/-- A port. -/
def Core.port (k : Core) (p : BitVec 2) : Port := k.tables.ports[p.toNat]'p.isLt

/-- The core with a port changed. -/
def Core.modPort (k : Core) (p : BitVec 2) (f : Port → Port) : Core :=
  { k with tables := { k.tables with ports := k.tables.ports.set p.toNat (f (k.port p)) p.isLt } }

/-- A handle. -/
def Core.handle (k : Core) (h : BitVec 6) : W256 := k.tables.handles[h.toNat]'h.isLt

/-- The core with a handle replaced. -/
def Core.setHandle (k : Core) (h : BitVec 6) (v : W256) : Core :=
  { k with tables := { k.tables with handles := k.tables.handles.set h.toNat v h.isLt } }

/-- Tile of the accumulator store: 64 × 64 entries, row by row (10_matrix R225). -/
def Core.tile (k : Core) (t : BitVec 3) : List W32 := k.matrix.tiles[t.toNat]'t.isLt

/-- The core with a tile replaced. -/
def Core.setTile (k : Core) (t : BitVec 3) (v : List W32) : Core :=
  { k with matrix := { k.matrix with tiles := k.matrix.tiles.set t.toNat v t.isLt } }

/-- Size of the scratchpad in bytes (06_pool R131). -/
def Core.scratchSize (k : Core) : Nat := (k.pool.spb - k.pool.rfb) * 1024

/-- The program counter of an agent. -/
def Core.pc (k : Core) (a : Agent) : W64 :=
  match a with
  | .x i => (k.ctx i).pc
  | .l => k.seqs.l.pc
  | .c => k.seqs.c.pc
  | .s => k.seqs.s.pc

/-- Kinds of events in a core's activity estimate (16_energy R346): a vector word, a group applied or skipped (10_matrix R233), a
sector committed, a draw (11_draw R248), zeroing at task start (06_pool R134), a recipe replayed (07_registers R173), a bank powered
up (R176), a filler operation while the task is resident (16_energy R365). -/
inductive Activity where
  | vector | dense4 | dense8 | dense16 | skipped | landed | draw | zeroing | replay | power | filler
  deriving DecidableEq, Repr

/-- Place of a kind in the counts. -/
def Activity.code : Activity → Fin 11
  | .vector => 0
  | .dense4 => 1
  | .dense8 => 2
  | .dense16 => 3
  | .skipped => 4
  | .landed => 5
  | .draw => 6
  | .zeroing => 7
  | .replay => 8
  | .power => 9
  | .filler => 10

/-- Events of a kind are counted for the activity estimate (16_energy R346), and for the slope of the current (R363). -/
def Core.note (k : Core) (kind : Activity) (n : Nat) : Core :=
  { k with
    activity := k.activity.set kind.code.val (k.activity[kind.code.val] + n) kind.code.isLt
    fill := { k.fill with work := k.fill.work + n } }

/-- Why an agent waits, if it does. -/
def Core.waitOf (k : Core) (a : Agent) : Option Wait :=
  match a with
  | .x i => (k.ctx i).wait
  | .l => k.seqs.l.wait
  | .c => k.seqs.c.wait
  | .s => k.seqs.s.wait

/-- The stall count goes on when a wait at one gate follows another of the same word (17_traps R377). -/
def stallOf (old new : Option Wait) (stall : Nat) : Nat :=
  match old, new with
  | some (.gate _ _), some (.gate _ _) => stall
  | some (.tiles _ _), some (.tiles _ _) => stall
  | _, _ => if new == old then stall else 0

/-- The core with an agent's wait set. A wait that is no gated access restarts the stall count (17_traps R377). -/
def Core.setWait (k : Core) (a : Agent) (w : Option Wait) : Core :=
  match a with
  | .x i => k.setCtx i { k.ctx i with wait := w, stall := stallOf (k.ctx i).wait w (k.ctx i).stall }
  | .l => { k with seqs := { k.seqs with l := { k.seqs.l with wait := w, stall := stallOf k.seqs.l.wait w k.seqs.l.stall } } }
  | .c => { k with seqs := { k.seqs with c := { k.seqs.c with wait := w, stall := stallOf k.seqs.c.wait w k.seqs.c.stall } } }
  | .s => { k with seqs := { k.seqs with s := { k.seqs.s with wait := w, stall := stallOf k.seqs.s.wait w k.seqs.s.stall } } }

/-- `n` sectors cross a channel (16_energy R350). -/
def State.channel (s : State) (n : Nat) : State := { s with gov := { s.gov with sectors := s.gov.sectors + n } }

/-- SLICE of a tenant in fabric cycles: units of 10 µs. -/
def TenantSt.slice (t : TenantSt) : Nat := fld t.policy 31 16 * 16000

/-- The slice of a running gang has ended (15_dispatch R338). -/
def State.sliceOver (s : State) (v : Gang) : Bool :=
  v.st == .running && decide (v.since + (s.tenant v.tenant).slice ≤ s.time)

/-- The state with a stream changed. -/
def State.modStream (s : State) (j : Fin 4) (f : Stream → Stream) : State :=
  { s with host := { s.host with streams := s.host.streams.set j.val (f s.host.streams[j.val]) j.isLt } }

/-- Records dropped are counted, saturating. -/
def Stream.lose (v : Stream) (n : Nat) : Stream := { v with drop := BitVec.ofNat 32 (min 0xFFFFFFFF (v.drop.toNat + n)) }

/-- The section of an agent: its number in the image and its map. -/
def agentSect (a : Agent) : Nat × Sect :=
  match a with
  | .x _ => (0, .scalar)
  | .l => (1, .load)
  | .c => (2, .compute)
  | .s => (3, .store)

/-- The agents of a core in the order X0, X1, X2, X3, L, C, S (R370). -/
def agents : List Agent := [.x 0, .x 1, .x 2, .x 3, .l, .c, .s]

end Sys2Proof.Machine
end

