-- ==== Sys2Proof/Machine/Traps.lean ====
section
/-! DEFINITION. Taking a trap and returning from one, as one shared operation each (17_traps R368 to R374, 14_scalar
R321). -/

namespace Sys2Proof.Machine

open Sys2Proof

/-! ### Causes (R368) -/

def causeIllegal : BitVec 8 := 0x01
def causePrivileged : BitVec 8 := 0x02
def causeMisaligned : BitVec 8 := 0x03
def causeTranslation : BitVec 8 := 0x04
def causeRecipeLost : BitVec 8 := 0x05
def causeStall : BitVec 8 := 0x06
def causeAbandoned : BitVec 8 := 0x07
def causeDeadlock : BitVec 8 := 0x08
def causeThrottle : BitVec 8 := 0x09
def causeFp : BitVec 8 := 0x0A
def causeMask : BitVec 8 := 0x0B
def causeStrict : BitVec 8 := 0x0C

/-- The SEQ code of an agent (R317). -/
def seqCode : Agent → Nat
  | .x _ => 0
  | .l => 1
  | .c => 2
  | .s => 3

/-- The CTX code of an agent: zero unless it is a context of X (R317). -/
def ctxCode : Agent → Nat
  | .x k => k.val
  | _ => 0

/-- The value of `tcause` for a trap (R317). -/
def tcauseOf (t : TrapInfo) : W64 :=
  BitVec.ofNat 64 (t.detail.toNat * 2 ^ 16 + ctxCode t.seq * 2 ^ 12 + seqCode t.seq * 2 ^ 8 + t.cause.toNat)

/-- The local-window VA of a scratchpad offset (R368). -/
def windowVa (off : Nat) : W64 := BitVec.ofNat 64 (0xFFFFFFE00000 + off)

/-- HIDX of a core without a handler (R373). -/
def noHandler : W32 := 0xFFFFFFFF

/-- HIDX of the running task (R371). -/
def Core.hidx (k : Core) : W32 :=
  match k.task with
  | some t => t.hidx
  | none => noHandler

/-! ### Draining -/

/-- The word at pc of the context has sent something whose answer must still come: a barrier operation, or a message
not yet answered. -/
def XCtx.owed (x : XCtx) : Bool :=
  match x.op with
  | some (.barrier _ _) => true
  | some (.mail _ _ none) => true
  | _ => false

/-- The context waits for a service answer (R319). -/
def XCtx.inService (x : XCtx) : Bool :=
  match x.op with
  | some (.service _) => true
  | _ => false

/-- What has issued is done: every matrix word has retired (10_matrix R239), every X load has returned, no barrier
word or message is unanswered (log 20). -/
def Core.settled (k : Core) : Bool :=
  k.matrix.words.isEmpty && k.seqs.x.toList.all (fun x => x.loads.isEmpty && !x.owed)

/-- The drain before a handler is complete (R369): what has issued is done and X0 waits for no service answer (log 20). -/
def Core.drained (k : Core) : Bool := k.settled && !(k.ctx 0).inService

/-- The word at pc of an agent has made its pops (R38, R195). -/
def Core.popped (k : Core) (a : Agent) : Bool :=
  match a with
  | .x _ => false
  | .l => k.seqs.l.popped
  | .c => k.seqs.c.popped
  | .s => k.seqs.s.popped

/-- A read or a refused message that the word at pc waits for is given up, and a fault not yet raised forgotten; the
word makes its accesses afresh when it issues again. -/
def XCtx.abandonOp (x : XCtx) : XCtx :=
  let x := { x with fault := none }
  match x.op with
  | some (.block _ _ _ _) => { x with op := none }
  | some (.host _ _) => { x with op := none }
  | some (.flush _ _) => { x with op := none }
  | some (.mail _ _ (some _)) => { x with op := none }
  | some (.mail _ _ none) => x
  | some (.barrier _ _) => x
  | some (.service _) => x
  | none => x

/-- A word waiting at issue is abandoned without effect (R369): its agent leaves the waiters, unless it is past its
pops, and stalls count afresh (R377). -/
def Core.abandonWaits (k : Core) : Core :=
  let k := { k with sync := { k.sync with waiters := k.sync.waiters.filter (fun w => k.popped w.1) } }
  let k := agents.foldl (fun k a => k.setWait a none) k
  { k with seqs := {
      x := k.seqs.x.map XCtx.abandonOp
      l := { k.seqs.l with fault := none }
      s := { k.seqs.s with fault := none }
      c := { k.seqs.c with fault := none } } }

/-- X0's next word as a word index (R371). -/
def Core.xpc (k : Core) : W64 := (k.ctx 0).pc

/-- The handler is entered: the trap registers are written, HMODE is set and X0 goes to the handler (R371). -/
def Core.enterHandler (k : Core) (t : TrapInfo) : Core :=
  let ended := (k.ctx 0).run == .ended
  let sys := { k.sys with
    tcause := tcauseOf t
    tepc := t.epc.setWidth 64
    tval := t.val
    txpc := if ended then k.sys.txpc else k.xpc &&& 0xFFFFFFFC }
  let k := { k with sys := sys, trap := { k.trap with halt := none, hmode := true, xend := k.trap.xend || ended } }
  k.setCtx 0 { k.ctx 0 with pc := k.hidx.setWidth 64 * 4, run := .runnable }

/-- A gang by its number. -/
def State.gang (s : State) (g : Nat) : Option Gang := s.disp.gangs.find? (fun x => x.id == g)

/-- The state with a gang changed. -/
def State.modGang (s : State) (g : Nat) (f : Gang → Gang) : State :=
  { s with disp := { s.disp with gangs := s.disp.gangs.map (fun x => if x.id == g then f x else x) } }

/-- Cores of the members that have not completed. -/
def Gang.live (g : Gang) : List CoreId := g.left.filterMap (fun m => g.cores[m]?)

/-- Every member of a gang stops (R373, R381). -/
def State.stopCores (s : State) : List CoreId → State
  | [] => s
  | c :: rest =>
    (s.modCore c (fun k => { k.abandonWaits with trap := { k.trap with stop := true } })).stopCores rest

/-- The gang of a core's task is terminated with a cause (R373): every member stops; each is freed once it has drained
(TASK_COMPLETION). A core whose task belongs to no gang of the dispatcher stops alone. -/
def State.terminate (s : State) (c : CoreId) (cause : W32) : State :=
  match (s.core c).task with
  | none => s.stopCores [c]
  | some t =>
    match s.gang t.gang with
    | none => s.stopCores [c]
    | some g =>
      (s.modGang g.id (fun g => { g with st := .killing, cause := if g.st == .killing then g.cause else cause })).stopCores g.live

/-- A trap is taken (R369 to R373). A synchronous trap of X0 in the handler, or one without a handler, terminates the
gang. Otherwise the core stops and, at once when nothing is left to drain, enters the handler; else TRAP_ENTRY does. A
trap that arises while the dispatcher stops the member is kept for the restore (R381). -/
def State.takeTrap (s : State) (c : CoreId) (t : TrapInfo) : State :=
  let k := s.core c
  if k.trap.stop then s.setCore c { k with trap := { k.trap with saved := some t } }
  else if k.trap.hmode || k.hidx == noHandler then s.terminate c ((tcauseOf t).setWidth 32)
  else
    let k := k.abandonWaits
    s.setCore c (if k.drained then k.enterHandler t else { k with trap := { k.trap with halt := some t } })

/-- The trap that an agent's current word raises. `tepc` has 32 bits: an offset of 2^32 or above, which only a fetch outside the section
meets (02_words R32), leaves its low 32 bits there (log 92). -/
def trapAt (k : Core) (a : Agent) (cause : BitVec 8) (detail : Nat) (val : W64) : TrapInfo :=
  { cause := cause, detail := BitVec.ofNat 16 detail, seq := a, epc := (k.pc a).setWidth 32, val := val }

/-- The agent's current word traps. -/
def State.raise (s : State) (c : CoreId) (a : Agent) (cause : BitVec 8) (detail : Nat) (val : W64) : State :=
  s.takeTrap c (trapAt (s.core c) a cause detail val)

/-- Return from the handler (R321, R372): HMODE clears, X0 resumes at XPC × 4 or stays ended when XEND is set, and
XEND clears. -/
def Core.trapReturn (k : Core) : Core :=
  let x := k.ctx 0
  let x := if k.trap.xend then { x with run := .ended } else { x with pc := k.sys.txpc }
  { k.setCtx 0 x with trap := { k.trap with hmode := false, xend := false } }

/-- A core issues nothing: it holds no task, a trap is being taken, or the dispatcher has stopped it. In the handler
only X0 issues (R371). -/
def Core.mayIssue (k : Core) (a : Agent) : Bool :=
  k.task.isSome && k.trap.halt.isNone && !k.trap.stop && (!k.trap.hmode || a == .x 0)
    && (match a with
      | .x i => (k.ctx i).run == .runnable
      | .l => !k.seqs.l.ended
      | .c => !k.seqs.c.ended
      | .s => !k.seqs.s.ended)

end Sys2Proof.Machine
end

