-- ==== Sys2Proof/Machine/Xlat.lean ====
section
/-! DEFINITION. Addresses and translation (03_memory R53 to R66): page-table walks, TLBs, owner tags, host segments,
peer targets. -/

namespace Sys2Proof.Machine

open Sys2Proof

/-! ### Windows of the virtual space -/

/-- The local window: the top 2 MiB (06_pool R136). -/
def inLocalWindow (va : Nat) : Bool := decide (0xFFFFFFE00000 ≤ va) && decide (va < 2 ^ 48)

/-- The gang window (12_sync R257). -/
def inGangWindow (va : Nat) : Bool := decide (0xFFFFFC000000 ≤ va) && decide (va < 0xFFFFFE000000)

/-- No page-table entry is ever consulted for the address: it lies beyond 48 bits or in a window (R53, R61, 06_pool R137). -/
def noTable (va : Nat) : Bool := decide (2 ^ 48 ≤ va) || inLocalWindow va || inGangWindow va

/-! ### Owners, host segments, peers -/

/-- The owner tag of a granule of local LPDDR6 (R65): 15 unless one is recorded, and 15 while its owner changes (R66). -/
def State.ownerTag (s : State) (gran : Nat) : Nat :=
  match s.mgmt.own with
  | some o => if o.gran == gran then 15 else ((s.mgmt.tags.lookup gran).getD 15)
  | none => (s.mgmt.tags.lookup gran).getD 15

/-- Granule of a local device physical address (R65). -/
def granOf (pa : Nat) : Nat := pa / 2 ^ 21

/-- The segment register of a host-aperture address (R54, 18_host R389). -/
def State.hostSeg (s : State) (pa : Nat) : W64 := s.host.hseg[(finOf 64 (pa / 2 ^ 33)).val]

/-- The segment is enabled and granted to the tenant (R54). -/
def segGrants (seg : W64) (t : Tenant) : Bool := seg.getLsbD 15 && seg.getLsbD t.val

/-- The segment of an address, as it stands, is enabled and granted to the tenant. -/
def State.hostGranted (s : State) (t : Tenant) (pa : Nat) : Bool := segGrants (s.hostSeg pa) t

/-- The host bus address of a host-aperture address under a segment (R54). -/
def busAt (seg : W64) (pa : Nat) : Nat := fld seg 63 33 * 2 ^ 33 + pa % 2 ^ 33

/-- This module's index (18_host R394). -/
def State.modIndex (s : State) : Nat := fld s.host.hstat 9 8

/-- The module that a page-table entry with this PM targets (R394). -/
def State.peerIndex (s : State) (pm : Nat) : Nat := (s.modIndex + pm) % 4

/-- A peer module by its index, when it is present. -/
def State.peer (s : State) (index : Nat) : Option PeerMod := s.host.peers.find? (fun p => p.index == index)

/-- The modules present on the ring, this one among them (R394). -/
def State.present (s : State) : List Nat := (List.range 4).filter (fun i => i == s.modIndex || (s.peer i).isSome)

/-- The module that port 0, and port 1, of a module links: the next present index upward, and downward, modulo 4 (R394). -/
def State.nextUp (s : State) (i : Nat) : Nat := (((List.range 4).map (fun k => (i + k + 1) % 4)).find? s.present.contains).getD i
def State.nextDown (s : State) (i : Nat) : Nat := (((List.range 4).map (fun k => (i + 3 - k) % 4)).find? s.present.contains).getD i

/-- A port is up. -/
def State.portUp (s : State) (p : Fin 2) : Bool := (s.host.slnk[p.val]).getLsbD 63

/-- The link of port 0 of a module carries traffic: this module's own port 0 or 1, where it is one of them, else as it is known. -/
def State.linkUp (s : State) (i : Nat) : Bool :=
  if i == s.modIndex then s.portUp 0 else if s.nextUp i == s.modIndex then s.portUp 1 else !s.host.cuts.contains i

/-- The links that traffic passes on its way upward from one module to another, by the module at their lower end. -/
def State.wayUp (s : State) (a b : Nat) : List Nat :=
  (((List.range 4).map (fun k => (a + k) % 4)).takeWhile (fun i => i != b)).filter s.present.contains

/-- The port that an access to a present module takes (R395, R397): the shorter way round, port 0 on a tie, and port pa[7] where both link
the same peer; the other way when a link of that one is down; none when both are cut. -/
def State.portTo (s : State) (index pa : Nat) : Option (Fin 2) :=
  let up := s.wayUp s.modIndex index
  let down := s.wayUp index s.modIndex
  let first : Fin 2 := if s.present.length == 2 then finOf 2 (pa / 128) else if down.length < up.length then 1 else 0
  let whole (p : Fin 2) : Bool := (if p == 0 then up else down).all s.linkUp
  if whole first then some first else if whole (1 - first) then some (1 - first) else none

/-- The code that a target's checks give before the access is performed: owner tag (0x12) for local memory, segment
(0x12) and link (0x21) for the host, presence (0x12), link (0x21) and owner tag (0x12) for a peer (R65, R67, R388, R394,
R397). `seg` is the segment register of a host access as its translation found it (R389). -/
def State.targetCodeAt (s : State) (seg : W64) (t : Tenant) (pa pm : Nat) (host : Bool) : Option Nat :=
  if host then
    if !segGrants seg t then some 0x12 else if !s.host.link then some 0x21 else none
  else if pm == 0 then
    if s.ownerTag (granOf pa) == t.val then none else some 0x12
  else
    match s.peer (s.peerIndex pm) with
    | none => some 0x12
    | some p =>
      if (s.portTo (s.peerIndex pm) pa).isNone then some 0x21
      else if (p.tags.lookup (granOf pa)).getD 15 == t.val then none
      else some 0x12

/-- The same for an access translated now. -/
def State.targetCode (s : State) (t : Tenant) (pa pm : Nat) (host : Bool) : Option Nat :=
  s.targetCodeAt (s.hostSeg pa) t pa pm host

/-- The code that a barrier address takes once it is translated (R65, R67, 05_copies R130, 12_sync R273): the checks of the owner and
of the segment come before the destination's answer, which is 0x20 on the host and on a peer. -/
def State.barrierCode (s : State) (t : Tenant) (pa pm : Nat) (host : Bool) : Option Nat :=
  if host then some (if s.hostGranted t pa then 0x20 else 0x12)
  else if pm != 0 then some ((s.targetCode t pa pm false).getD 0x20)
  else s.targetCode t pa 0 false

/-! ### Page-table entries (R58, R59) -/

/-- First device physical address of an entry's frame. -/
def pteFrame (e : Nat) : Nat := e / 2 ^ 12 % 2 ^ 28 * 2 ^ 12

/-- A bit of an entry. -/
def pteBit (e i : Nat) : Bool := e / 2 ^ i % 2 == 1

/-- log2 of the page that a leaf of this level maps (R57). -/
def leafBits (level : Nat) (e : Nat) : Nat :=
  if level == 0 then (if pteBit e 3 then 16 else 12) else 12 + 9 * level

/-- An entry with V set is malformed (R59). -/
def pteBad (level e : Nat) : Bool :=
  let leaf := pteBit e 1
  let frame := pteFrame e
  let pm := e / 2 ^ 60 % 4
  let host := pteBit e 62
  pteBit e 63 || e / 2 ^ 40 % 2 ^ 20 != 0 || e / 2 ^ 6 % 2 ^ 6 != 0
    || (level == 0 && !leaf) || (level == 3 && leaf)
    || (!leaf && (host || pm != 0 || pteBit e 5 || pteBit e 4 || pteBit e 3 || pteBit e 2 || decide (2 ^ 37 ≤ frame)))
    || (pteBit e 3 && level != 0)
    || (leaf && frame % 2 ^ leafBits level e != 0)
    || (leaf && host && (pm != 0 || decide (frame < 2 ^ 39)))
    || (leaf && !host && decide (2 ^ 37 ≤ frame))

/-- The outcome of a walk: the translation with the address of its leaf entry and the pointers met, or a code. -/
inductive WalkRes where
  | leaf (t : Tlb) (pte : Nat) (writable : Bool) (ptrs : List WalkPtr)
  | fault (code : Nat) (badPte : Bool)
  deriving DecidableEq, Repr

/-- Address of the entry of a level in a table (R57). -/
def pteAddr (table level va : Nat) : Nat := table + 8 * (va / 2 ^ (12 + 9 * level) % 512)

/-- A walk from the table of a level downward (R57 to R60). A leaf whose D bit already stands gives write permission in the TLBs to a
fill by a read as well (log 85). `zeroed` is the level whose entry is read as zero after an
uncorrectable error (R73). The walker may read granules tagged 12 or with the tenant (R65). -/
def State.walkFrom (s : State) (t : Tenant) (va : Nat) (zeroed : Option Nat) (ptrs : List WalkPtr) :
    (level : Nat) → (table : Nat) → WalkRes
  | level, table =>
    let a := pteAddr table level va
    let tag := s.ownerTag (granOf a)
    if tag != 12 && tag != t.val then .fault 0x12 false
    else
      let e := if zeroed == some level then 0 else s.mem.readLe a 8
      if !pteBit e 0 then .fault 0x10 false
      else if pteBad level e then .fault 0x10 true
      else if pteBit e 1 then
        let bits := leafBits level e
        .leaf { tenant := t, va := va / 2 ^ bits * 2 ^ bits, bits := bits, pa := pteFrame e, pm := e / 2 ^ 60 % 4,
                host := pteBit e 62, wr := pteBit e 2 && pteBit e 5 } a (pteBit e 2) ptrs
      else
        match level with
        | 0 => .fault 0x10 true
        | l + 1 =>
          s.walkFrom t va zeroed
            ({ tenant := t, level := l, stem := va / 2 ^ (12 + 9 * (l + 1)), table := pteFrame e } :: ptrs) l (pteFrame e)

/-- The walker port of an island for a VA (R62): the slice of the adjacent strip in column VA[24:21]. -/
def walkPort (i : IslandId) (va : Nat) : SliceId :=
  ⟨i.val / 2 * 16 + va / 2 ^ 21 % 16, by
    have h1 := i.isLt
    have h2 := Nat.mod_lt (va / 2 ^ 21) (show 0 < 16 by decide)
    omega⟩

/-- The deepest pointer of a walk cache that serves a VA. -/
def bestPtr (ps : List WalkPtr) (t : Tenant) (va : Nat) : Option WalkPtr :=
  (ps.filter (fun p => p.tenant == t && p.stem == va / 2 ^ (12 + 9 * (p.level + 1)))).foldl
    (fun b p =>
      match b with
      | none => some p
      | some q => if p.level < q.level then some p else some q)
    none

/-- A whole walk for a tenant: with EN clear every access takes 0x10 (R61). -/
def State.walk (s : State) (port : SliceId) (t : Tenant) (va : Nat) (zeroed : Option Nat) : WalkRes :=
  let root := (s.tenant t).troot
  if !root.getLsbD 0 then .fault 0x10 false
  else
    match bestPtr s.walkPtrs[port.val] t va with
    | some p => s.walkFrom t va zeroed [] p.level p.table
    | none => s.walkFrom t va zeroed [] 3 (fld root 39 12 * 2 ^ 12)

/-! ### TLBs (R62, R63) -/

/-- The entry serves an access. -/
def Tlb.serves (e : Tlb) (t : Tenant) (va : Nat) (write : Bool) : Bool :=
  e.tenant == t && e.va == va / 2 ^ e.bits * 2 ^ e.bits && (!write || e.wr)

/-- The device physical address that an entry gives. -/
def Tlb.addr (e : Tlb) (va : Nat) : Nat := e.pa + va % 2 ^ e.bits

/-- A list of entries after a fill: an entry for the same page is replaced; when the entry's set, named by `set`, holds `ways` entries the
one at a free place of the set is dropped (log 5). -/
def tlbFill (l : List Tlb) (e : Tlb) (set : Tlb → Nat) (ways free : Nat) : List Tlb :=
  let l := l.filter (fun x => !(x.tenant == e.tenant && x.va == e.va && x.bits == e.bits))
  let mine := l.filter (fun x => set x == set e)
  if mine.length < ways then e :: l
  else
    match mine[free % ways]? with
    | some v => e :: l.filter (fun x => x != v)
    | none => e :: l

/-- The set of an entry in the island TLB: 256 sets of 8 ways, by the number of its page (R62, log 5). -/
def islandSet (e : Tlb) : Nat := e.va / 2 ^ e.bits % 256

/-- One set for every entry. -/
def oneSet (_ : Tlb) : Nat := 0

/-- The micro-TLB that an agent uses: C's fetches go through X's (log 21). -/
def MicroTlbs.of (m : MicroTlbs) (a : Agent) : List Tlb :=
  match a with
  | .x _ => m.x
  | .c => m.x
  | .l => m.l
  | .s => m.s

/-- The micro-TLBs with an agent's replaced. -/
def MicroTlbs.put (m : MicroTlbs) (a : Agent) (l : List Tlb) : MicroTlbs :=
  match a with
  | .x _ => { m with x := l }
  | .c => { m with x := l }
  | .l => { m with l := l }
  | .s => { m with s := l }

/-- A micro-TLB of 32 entries after a fill. -/
def State.fillMicro (s : State) (c : CoreId) (a : Agent) (e : Tlb) : State :=
  let k := s.core c
  let l := tlbFill (k.tlbs.of a) e oneSet 32 (Config.freeNat s.draws)
  { s.setCore c { k with tlbs := k.tlbs.put a l } with draws := s.draws + 1 }

/-- An island TLB after a fill: 2,048 entries, 8-way, for 4 KiB and 64 KiB pages, 64 for larger ones (R62). -/
def State.fillIsland (s : State) (i : IslandId) (e : Tlb) : State :=
  let f := Config.freeNat s.draws
  let s := s.modIsland i (fun v =>
    if e.bits ≤ 16 then { v with tlb := tlbFill v.tlb e islandSet 8 f } else { v with side := tlbFill v.side e oneSet 64 f })
  { s with draws := s.draws + 1 }

/-- The physical place of an address of a tenant as its tables stand: what a translation of a core's S would give. -/
def State.whereIs (s : State) (c : CoreId) (t : Tenant) (va : Nat) : Option (Nat × Nat) :=
  let isl := s.island (islandOf c)
  if noTable va then none
  else
  match ((s.core c).tlbs.s ++ isl.tlb ++ isl.side).find? (fun e => e.serves t va true) with
  | some e => some (e.addr va, e.pm)
  | none =>
    match s.walk (walkPort (islandOf c) va) t va none with
    | .leaf e _ _ _ => some (e.addr va, e.pm)
    | .fault _ _ => none

/-- Two addresses of a tenant name one sector, by one page or by two pages of one frame. -/
def State.sameSector (s : State) (c : CoreId) (t : Tenant) (va pa pm : Nat) : Bool :=
  va % 4096 / 32 == pa % 4096 / 32 && (s.whereIs c t va).any (fun p => p.1 / 32 == pa / 32 && p.2 == pm)

/-- What translation answers an access. -/
inductive XRes where
  | ok (pa pm : Nat) (host : Bool)
  | fault (f : XFault)
  | wait
  deriving DecidableEq, Repr

/-- A fault that was left for the access at this VA; one left for an access that is no longer made says nothing. -/
def XFault.at_ (f : Option XFault) (va : Nat) : Option XFault := f.filter (fun f => f.va == va)

/-- The page of a VA as the tenant's tables map it now, if they do. -/
def State.leafOf (s : State) (c : CoreId) (t : Tenant) (va : Nat) : Option Tlb :=
  match s.walk (walkPort (islandOf c) va) t va none with
  | .leaf e _ _ _ => some e
  | .fault _ _ => none

/-- The walk is of the page of a VA: of the same 4 KiB, or of the larger page that the leaf maps. -/
def Walk.covers (w : Walk) (t : Tenant) (leaf : Option Tlb) (va : Nat) : Bool :=
  w.tenant == t && (w.page == va / 4096 || leaf.any (fun e => e.serves t (w.page * 4096) false))

/-- A requester joins the walk of its page, or a new one (R63). -/
def joinWalk (l : List Walk) (t : Tenant) (leaf : Option Tlb) (r : WalkReq) (now : Nat) : List Walk :=
  if l.any (fun w => w.covers t leaf r.va) then
    l.map (fun w => if w.covers t leaf r.va then (if w.reqs.contains r then w else { w with reqs := w.reqs ++ [r] }) else w)
  else l ++ [{ tenant := t, page := r.va / 4096, born := now, reqs := [r] }]

/-- The image pages of a task are read-only to it (02_words R32). -/
def Task.inImage (t : Task) (va : Nat) : Bool :=
  decide (t.image / 4096 * 4096 ≤ va) && decide (va < (t.image + t.imageSize + 4095) / 4096 * 4096)

/-- Translation of an access by an agent of a core (R53, R60 to R63): beyond 48 bits, in a window, or with EN clear it
takes 0x10; a store to the image takes 0x11; a TLB hit answers; a miss joins a walk and waits. -/
def State.xlate (s : State) (c : CoreId) (a : Agent) (who : XlatWho) (va : Nat) (write : Bool) : State × XRes :=
  let k := s.core c
  match k.task with
  | none => (s, .fault { va := va, code := 0x10, badPte := false, host := false })
  | some task =>
    let t := task.tenant
    if noTable va || !(s.tenant t).troot.getLsbD 0 then
      (s, .fault { va := va, code := 0x10, badPte := false, host := false })
    else
      let ro := write && task.inImage va
      match (k.tlbs.of a).find? (fun e => e.serves t va (write && !ro)) with
      | some e =>
        if ro then (s, .fault { va := va, code := 0x11, badPte := false, host := e.host })
        else (s, .ok (e.addr va) e.pm e.host)
      | none =>
        let isl := s.island (islandOf c)
        match (isl.tlb ++ isl.side).find? (fun e => e.serves t va (write && !ro)) with
        | some e =>
          if ro then (s, .fault { va := va, code := 0x11, badPte := false, host := e.host })
          else (s.fillMicro c a e, .ok (e.addr va) e.pm e.host)
        | none =>
          (s.modIsland (islandOf c) (fun v =>
            { v with walks := joinWalk v.walks t (s.leafOf c t va) { who := who, va := va, write := write, image := ro } s.time }), .wait)

end Sys2Proof.Machine
end

