-- ==== Sys2Proof/Machine/Fabric.lean ====
section
/-! DEFINITION. Where lines live (03_memory R56), the floor plan of routers (00_scope R14, 04_fabric R78), and sending a
message into the fabric. Routing itself stands in FabricCycle.lean. -/

namespace Sys2Proof.Machine

open Sys2Proof

/-! ### Floor plan -/

/-- Router of strip `i` and column `c`. -/
def routerAt (strip : Fin 15) (col : Fin 16) : RouterId := ⟨strip.val * 16 + col.val, by omega⟩

/-- Strip index of an island: 3 × (i div 2) + i mod 2 (R14). -/
def islandStrip (i : IslandId) : Fin 15 := ⟨3 * (i.val / 2) + i.val % 2, by omega⟩

/-- Column of a core. -/
def colOf (c : CoreId) : Fin 16 := ⟨c.val % 16, Nat.mod_lt _ (by decide)⟩

/-- Router of a core. -/
def coreRouter (c : CoreId) : RouterId := routerAt (islandStrip (islandOf c)) (colOf c)

/-- Strip index of slice strip S_k: 3k + 2 (R14). -/
def sliceStrip (k : Fin 5) : Fin 15 := ⟨3 * k.val + 2, by omega⟩

/-- A slice by strip k and column: number 16k + column. -/
def sliceAt (k : Fin 5) (col : Fin 16) : SliceId := ⟨k.val * 16 + col.val, by omega⟩

/-- Router of a slice. -/
def sliceRouter (i : SliceId) : RouterId :=
  routerAt (sliceStrip ⟨i.val / 16, by omega⟩) ⟨i.val % 16, Nat.mod_lt _ (by decide)⟩

/-- The core at a router, if it is a core router. -/
def coreAt (r : RouterId) : Option CoreId :=
  let strip := r.val / 16
  if strip % 3 == 2 then none else some (finOf 160 ((2 * (strip / 3) + strip % 3) * 16 + r.val % 16))

/-- The slice at a router, if it is a slice router. -/
def sliceOf (r : RouterId) : Option SliceId :=
  let strip := r.val / 16
  if strip % 3 == 2 then some (finOf 80 (strip / 3 * 16 + r.val % 16)) else none

/-! ### The hash of R56 -/

/-- Channel of a device physical address: the xor of eight nibbles from bit 7 up. -/
def chanOf (pa : Nat) : Nat :=
  (List.range 8).foldl (fun a i => Nat.xor a (pa / 2 ^ (7 + 4 * i) % 16)) 0

/-- The slice of a device physical address. -/
def sliceFor (pa : Nat) : SliceId := sliceAt (finOf 5 (pa / 2 ^ 11 % 2 ^ 28)) (finOf 16 (chanOf pa))

/-- Sector, line and byte addresses. -/
def sectorOf (pa : Nat) : Nat := pa / 32
def lineOf (pa : Nat) : Nat := pa / 128
/-- Sector of a line that an address lies in, 0 to 3. -/
def sectorIn (pa : Nat) : Nat := pa / 32 % 4

/-- Sectors of a line that `n` bytes from an address touch. -/
def secMask (pa n : Nat) : BitVec 4 :=
  (List.range 4).foldl (fun m i =>
    if decide (pa % 128 < 32 * i + 32) && decide (32 * i < pa % 128 + n) then m ||| (1#4 <<< i) else m) 0

/-! ### Messages -/

/-- Class of a body (R82). -/
def Body.cls : Body → Cls
  | .read .. => .readReq
  | .readReply .. => .readReply
  | .multiReply .. => .multiReply
  | .write .. => .write
  | .writeAck .. => .writeAck
  | .put .. => .put
  | .putAck .. => .putAnswer
  | .putRefuse .. => .putAnswer
  | .acc .. => .accumulate
  | .atom .. => .atomReq
  | .atomPort .. => .atomReq
  | .atomReply .. => .atomReply
  | .mail .. => .message
  | .mailAnswer .. => .accept
  | .barrier .. => .barrier
  | .barrierAck .. => .barrier
  | .wake .. => .barrier
  | .loss .. => .translation

/-- The code of a class in a header (R82); 0xF is none. -/
def clsCode : Cls → Nat
  | .readReq => 0x0
  | .readReply => 0x1
  | .multiReply => 0x2
  | .write => 0x3
  | .writeAck => 0x4
  | .put => 0x5
  | .putAnswer => 0x6
  | .accumulate => 0x7
  | .atomReq => 0x8
  | .atomReply => 0x9
  | .message => 0xA
  | .accept => 0xB
  | .barrier => 0xC
  | .translation => 0xD
  | .management => 0xE

/-- The 64-bit header of a flit (R81): DEST, SRC, CLASS, PRI, AGE, STAG, SOFF. Its check code is not held (log 77). -/
def Flit.header (f : Flit) : W64 :=
  BitVec.ofNat 64 (f.dst.val * 2 ^ 56 + f.src.val * 2 ^ 48 + clsCode f.cls * 2 ^ 44 + f.pri % 4 * 2 ^ 42 + min f.age 255 * 2 ^ 34
    + f.stag % 1024 * 2 ^ 24 + f.soff % 2 ^ 24)

/-- Who waits for the answer to a body, or gets it. -/
def Body.who : Body → Option Who
  | .read _ _ _ _ _ _ w => some w
  | .readReply _ _ _ w => some w
  | .multiReply _ _ _ => none
  | .write _ _ _ _ _ w => some w
  | .writeAck _ w => some w
  | .put _ _ _ _ w => some w
  | .putAck w => some w
  | .putRefuse _ w => some w
  | .acc _ _ _ _ _ _ _ w => some w
  | .atom _ _ _ _ w => some w
  | .atomPort _ _ _ _ w => some w
  | .atomReply _ _ _ w => some w
  | .mail _ _ _ w => some w
  | .mailAnswer _ w => some w
  | .barrier _ _ _ w => some w
  | .barrierAck _ _ _ _ _ w => some w
  | .wake _ _ _ => none
  | .loss _ w => w

/-- Request slot and sector of a requester (R81; the numbering of the slots is log 77). -/
def Who.slot : Who → Nat × Nat
  | .load _ x id => (x.val * 256 + id % 256, 0)
  | .store _ x id => (x.val * 256 + id % 256, 0)
  | .copy _ id idx _ => (id % 1024, idx % 2 ^ 24)
  | .atom _ id => (id % 1024, 0)
  | .fill _ id va _ => (id % 1024, va / 32 % 2 ^ 24)
  | .barrier _ x => (x.val, 0)
  | .report _ id _ _ _ => (id % 1024, 0)
  | .entry _ id => (id % 1024, 0)
  | .msg _ x => (x.val, 0)
  | .fetch _ a off => ((agentSect a).1, off / 32 % 2 ^ 24)
  | .peer _ tag => (tag % 1024, 0)
  | .nobody => (0, 0)

/-- STAG and SOFF of a sector of a copy that lands in a core (R81): the copy's watermark register and its issue generation, which is its
number modulo 64 (log 77), and the sector's index in landing order. -/
def State.landTags (s : State) (core : CoreId) (id idx : Nat) : Nat × Nat :=
  let land := (s.core core).land
  (id % 64 * 16 + ((((land.copies ++ land.orphans).find? (fun c => c.id == id)).map (fun c => c.w.toNat)).getD 0), idx % 2 ^ 24)

/-- STAG and SOFF of a body (R81): those of a landing sector, of a read's reply and of a put; for a multicast pa[36:5]; the request slot and
sector otherwise. -/
def State.tags (s : State) (b : Body) : Nat × Nat :=
  match b with
  | .multiReply pa _ _ => (pa / 2 ^ 29 % 256, pa / 32 % 2 ^ 24)
  | .readReply _ _ _ (.copy core id idx _) => s.landTags core id idx
  | .put _ _ _ _ (.copy core id idx _) => s.landTags core id idx
  | _ => ((b.who.map Who.slot).getD (0, 0))

/-- Priority of the task of a core (R81). -/
def Core.pri (k : Core) : Nat :=
  match k.task with
  | some t => t.cls
  | none => 3

/-- The segment register of an access to the host aperture, as it stands (18_host R389). -/
def State.segOf (s : State) (b : Body) : W64 :=
  let at_ (pa : Nat) : W64 := if 2 ^ 39 ≤ pa then s.hostSeg pa else 0
  match b with
  | .read pa _ _ _ _ _ _ => at_ pa
  | .write pa _ _ _ _ _ => at_ pa
  | .atom pa _ _ _ _ => at_ pa
  | _ => 0

/-- A message put into the outbox of a router's agent. -/
def State.send (s : State) (src dst : RouterId) (pri : Nat) (b : Body) : State :=
  let f : Flit := { cls := b.cls, dst := dst, src := src, pri := pri, age := 0, stag := (s.tags b).1, soff := (s.tags b).2, seg := s.segOf b, body := b }
  s.modRouter src (fun r => { r with outbox := r.outbox ++ [f] })

/-- A core sends to the slice of an address. -/
def State.sendSlice (s : State) (c : CoreId) (pa : Nat) (b : Body) : State :=
  s.send (coreRouter c) (sliceRouter (sliceFor pa)) (s.core c).pri b

/-- The core that a requester belongs to. -/
def Who.core : Who → Option CoreId
  | .load c _ _ => some c
  | .store c _ _ => some c
  | .copy c _ _ _ => some c
  | .atom c _ => some c
  | .fill c _ _ _ => some c
  | .barrier c _ => some c
  | .report c _ _ _ _ => some c
  | .entry c _ => some c
  | .msg c _ => some c
  | .fetch c _ _ => some c
  | .peer _ _ => none
  | .nobody => none

/-- A slice answers the core of a requester, under the request's priority (R81), or a peer module over the link (18_host R395). -/
def State.answer (s : State) (i : SliceId) (pri : Nat) (w : Who) (b : Body) : State :=
  match w.core, w with
  | some c, _ => s.send (sliceRouter i) (coreRouter c) pri b
  | none, .peer _ _ => { s with host := { s.host with answers := s.host.answers ++ [b] } }
  | none, _ => s

/-- A load or store of X, whose checks were made at its word so that its trap is precise there (14_scalar R310, log 14). -/
def Who.isX : Who → Bool
  | .load _ _ _ => true
  | .store _ _ _ => true
  | _ => false

/-- Flits of an inbox, by place. -/
def State.inboxAt (s : State) (r : RouterId) (n : Nat) : Option Flit := (s.router r).inbox[n]?

/-- The inbox without the flit at a place. -/
def State.takeInbox (s : State) (r : RouterId) (n : Nat) : State :=
  s.modRouter r (fun q => { q with inbox := q.inbox.eraseIdx n })

end Sys2Proof.Machine
end

