-- ==== Sys2Proof/Machine/Records.lean ====
section
/-! DEFINITION. Fault records and the queues that carry them to firmware (03_memory R69 to R71, R73). -/

namespace Sys2Proof.Machine

open Sys2Proof

/-- What a fault record says (R69). -/
structure RecInfo where
  miss : Nat
  landed : Nat
  va : Nat
  copyId : W32
  atom : Bool
  badPte : Bool
  host : Bool
  wr : Bool
  seq : Nat
  core : Nat
  tenant : Tenant
  code : Nat
  deriving DecidableEq, Repr

/-- The 256 bits of a record (R69). -/
def RecInfo.bits (r : RecInfo) : W256 :=
  BitVec.ofNat 256 (r.miss % 2 ^ 64 * 2 ^ 192 + r.landed % 2 ^ 32 * 2 ^ 128 + r.va % 2 ^ 48 * 2 ^ 64
    + r.copyId.toNat * 2 ^ 32 + bitCode r.atom * 2 ^ 29 + bitCode r.badPte * 2 ^ 28 + bitCode r.host * 2 ^ 27
    + bitCode r.wr * 2 ^ 26 + r.seq % 4 * 2 ^ 24 + r.core % 256 * 2 ^ 16 + r.tenant.val * 2 ^ 8 + r.code % 256)

/-- Size of a tenant's fault ring in records, or none when the queue is disabled (R71). -/
def TenantSt.fqSize (t : TenantSt) : Option Nat :=
  let n := fld t.fqbase 3 0
  if n ≤ 10 then some (2 ^ (6 + n)) else none

/-- First address of the fault ring. -/
def TenantSt.fqAddr (t : TenantSt) : Nat := fld t.fqbase 39 12 * 2 ^ 12

/-- An entry of the ring is free. -/
def TenantSt.fqFree (t : TenantSt) : Bool :=
  match t.fqSize with
  | some n => decide ((t.fqtail - t.fqhead).toNat < n)
  | none => false

/-- Records in the hold store (R71). -/
def TenantSt.held (t : TenantSt) : Nat := (t.hin - t.hout).toNat

/-- HFULL (R71). -/
def TenantSt.hfull (t : TenantSt) : Bool := decide (1024 ≤ t.held)

/-- The management core is interrupted. -/
def State.interrupt (s : State) (kind : Nat) : State := { s with mgmt := { s.mgmt with irq := s.mgmt.irq ++ [kind] } }

/-- A record is written into the ring and TAIL passes it (R71). -/
def State.ringRecord (s : State) (t : Tenant) (r : W256) : State :=
  let q := s.tenant t
  let n := q.fqSize.getD 1
  let s := { s with mem := s.mem.writeN (q.fqAddr + 32 * (q.fqtail.toNat % n)) (leBytes 32 r.toNat) }.channel 1
  (s.modTenant t (fun q => { q with fqtail := q.fqtail + 1 })).interrupt 0

/-- A record is placed in the hold store (R71). -/
def State.holdRecord (s : State) (t : Tenant) (r : W256) : State :=
  let q := s.tenant t
  let base := if q.held == 0 then q.fqAddr + 32 * q.fqSize.getD 0 else q.hold
  let s := { s with mem := s.mem.writeN (base + 32 * (q.hin.toNat % 1024)) (leBytes 32 r.toNat) }.channel 1
  s.modTenant t (fun q => { q with hold := base, hin := q.hin + 1 })

/-- Whether a new record can be written at once: into the ring when no held or waiting record is ahead of it and an
entry is free, or into the hold store. -/
def TenantSt.canPost (t : TenantSt) : Bool := t.waiting.isEmpty && ((t.fqFree && t.held == 0) || !t.hfull)

/-- A record is posted (R71): into the ring, into the hold store when the ring is full or disabled or records are held,
or it waits with its agent when the hold store is full. -/
def State.postRecord (s : State) (t : Tenant) (r : RecInfo) (h : Holder) : State :=
  let q := s.tenant t
  if !q.waiting.isEmpty then s.modTenant t (fun q => { q with waiting := q.waiting ++ [{ rec_ := r.bits, holder := h }] })
  else if q.fqFree && q.held == 0 then s.ringRecord t r.bits
  else if !q.hfull then s.holdRecord t r.bits
  else s.modTenant t (fun q => { q with waiting := q.waiting ++ [{ rec_ := r.bits, holder := h }] })

/-- The oldest held record moves into the ring when an entry is free; then waiting records enter the hold store (R71).
`n` bounds the moves. -/
def State.moveRecords (s : State) (t : Tenant) : Nat → State
  | 0 => s
  | n + 1 =>
    let q := s.tenant t
    if decide (0 < q.held) && q.void.contains q.hout then
      (s.modTenant t (fun q => { q with hout := q.hout + 1, void := q.void.erase q.hout })).moveRecords t n
    else if q.fqFree && decide (0 < q.held) then
      let a := q.hold + 32 * (q.hout.toNat % 1024)
      let r := BitVec.ofNat 256 (s.mem.readLe a 32)
      let s := ((s.channel 1).ringRecord t r).modTenant t (fun q => { q with hout := q.hout + 1 })
      s.moveRecords t n
    else
      match q.waiting with
      | [] => s
      | w :: rest =>
        if q.fqFree then
          ((s.modTenant t (fun q => { q with waiting := rest })).ringRecord t w.rec_).moveRecords t n
        else if !q.hfull then
          ((s.modTenant t (fun q => { q with waiting := rest })).holdRecord t w.rec_).moveRecords t n
        else s

/-- A record posted at a park: its code is none of 0x22, 0x30 and 0x41 (R68, R71). -/
def parkRecord (r : W256) : Bool :=
  r.extractLsb' 0 8 != 0x22 && r.extractLsb' 0 8 != 0x30 && r.extractLsb' 0 8 != 0x41

/-- The parking record of a killed copy or atomic is never written (R72): a waiting one goes, a held one is passed over. -/
def State.voidRecords (s : State) (t : Tenant) (id : W32) : State :=
  let q := s.tenant t
  let slots := (List.range q.held).map (fun i => q.hout + BitVec.ofNat 32 i)
  let mine (r : W256) : Bool := parkRecord r && r.extractLsb' 32 32 == id
  let dead := slots.filter (fun i => mine (BitVec.ofNat 256 (s.mem.readLe (q.hold + 32 * (i.toNat % 1024)) 32)))
  s.modTenant t (fun q => { q with waiting := q.waiting.filter (fun w => !mine w.rec_), void := q.void ++ dead })

/-- An agent still holds a record that could not be written (R71): its access does not complete. -/
def TenantSt.holds (t : TenantSt) (h : Holder) : Bool := t.waiting.any (fun w => w.holder == h)

/-- A saturating 32-bit counter plus one. -/
def satInc32 (v : W32) : W32 := if v == 0xFFFFFFFF then v else v + 1

/-- A saturating 16-bit counter plus one. -/
def satInc16 (v : W16) : W16 := if v == 0xFFFF then v else v + 1

/-- STRICT of a tenant (R61). -/
def State.strict (s : State) (t : Tenant) : Bool := (s.tenant t).troot.getLsbD 1

/-- An uncorrectable error met by a task's access (R73): one 0x30 record, TUE, and under STRICT the core's mark with
the latest VA (17_traps R380). -/
def State.memoryError (s : State) (c : CoreId) (t : Tenant) (seq : Nat) (va : Nat) (id : W32) (atom wr : Bool)
    (h : Holder) : State :=
  let s := s.postRecord t
    { miss := 0, landed := 0, va := va, copyId := id, atom := atom, badPte := false, host := false, wr := wr,
       seq := seq, core := c.val, tenant := t, code := 0x30 } h
  let s := s.modTenant t (fun q => { q with tue := satInc32 q.tue })
  if s.strict t then s.modCore c (fun k => { k with trap := { k.trap with strict := some va } }) else s

/-- An uncorrectable error met by an access that no task made (R73): to the owner of the granule, or FWUE. Its record has VA 0, which no
rule gives, and WR as the access: 1 for a write-back (log 86). -/
def State.memoryErrorOther (s : State) (pa : Nat) (i : SliceId) (wr : Bool) : State :=
  let tag := s.ownerTag (granOf pa)
  if h : tag < 12 then
    let t : Tenant := ⟨tag, h⟩
    let s := s.postRecord t
      { miss := 0, landed := 0, va := 0, copyId := 0, atom := false, badPte := false, host := false, wr := wr,
         seq := 0, core := 0xFF, tenant := t, code := 0x30 } (.slice i)
    s.modTenant t (fun q => { q with tue := satInc32 q.tue })
  else { (s.interrupt 2) with mgmt := { (s.interrupt 2).mgmt with fwue := satInc32 s.mgmt.fwue } }

end Sys2Proof.Machine
end

