-- ==== Sys2Proof/Machine/Vregs.lean ====
section
/-! DEFINITION. Vector registers: names, frames, states, recipe bindings and their invalidation (07_registers R153 to
R157, R167 to R178). -/

namespace Sys2Proof.Machine

open Sys2Proof

/-! ### Names and frames -/

/-- NR, the rotating registers of a register region of `rfb` KiB (R154). -/
def nrOf (rfb : Nat) : Nat := max 64 (rfb / 4 - 64)

/-- Physical register of a name (R155). -/
def physOf (rrb nr : Nat) (v : BitVec 7) : Nat :=
  if v.toNat < 64 then v.toNat else 64 + (v.toNat - 64 + rrb) % nr

/-- A physical register; beyond the file it reads as EMPTY. -/
def CRegs.preg (r : CRegs) (p : Nat) : PReg := (r.pregs[p]?).getD PReg.reset

/-- The file with a physical register replaced. -/
def CRegs.setPreg (r : CRegs) (p : Nat) (v : PReg) : CRegs := { r with pregs := r.pregs.set p v }

/-- Frames bound, in a file. -/
def CRegs.frames (r : CRegs) : List Nat := r.pregs.filterMap PReg.frame

/-- NF (R154). -/
def Core.nf (k : Core) : Nat := k.pool.rfb / 4

/-- A frame is bound, or kept for a word that writes at retirement (R157). -/
def Core.frameUsed (k : Core) (f : Nat) : Bool := k.regs.frames.contains f

/-- Free frames, those in gated banks included (R157, R175). -/
def Core.freeFrames (k : Core) : List Nat := (List.range k.nf).filter (fun f => !k.frameUsed f)

/-- Bank of a frame (R176). -/
def bankOf (f : Nat) : Nat := f / 16

/-- A free frame in a powered bank (R176). -/
def Core.poweredFree (k : Core) : Option Nat := k.freeFrames.find? (fun f => !k.pool.gated.contains (bankOf f))

/-- The 1,024 lanes of an EMPTY register, or of a new frame as it is taken. -/
def zeroLanes : List W32 := List.replicate 1024 0

/-- The lanes that a read of the register returns when no replay is needed (R156). -/
def PReg.read (p : PReg) : List W32 :=
  match p.st with
  | .plain => p.lanes
  | .tagged => p.lanes
  | .empty => zeroLanes
  | .dropped => zeroLanes
  | .lost => zeroLanes

/-- Lane (r, c) of a list of lanes (R153). -/
def lane (l : List W32) (r c : Nat) : W32 := (l[64 * r + c]?).getD 0

/-! ### Recipes (R167, R168) -/

/-- EN of a recipe entry. -/
def recipeOn (e : W256) : Bool := e.getLsbD 2

/-- The words of a recipe entry, first one first: NM1 + 1 of W0 to W3. -/
def recipeWords (e : W256) : List Nat :=
  ((List.range 4).take (fld256 e 1 0 + 1)).map (fun i => fld256 e (159 + 32 * i) (128 + 32 * i))

/-- Source fields of a vector word that a recipe may hold: a, and b for opcodes 0x01 to 0x15, and the addend d of the
FMA family. -/
def recipeSrcs (w : Nat) : List Nat :=
  let op := field w 25 6
  [field w 11 7] ++ (if op ≤ 0x15 then [field w 4 7] else [])
    ++ (if 0x07 ≤ op && op ≤ 0x0A then [field w 18 7] else [])

/-- Static operands of a recipe, as physical registers (R168). -/
def recipeStatics (e : W256) : List Nat := ((recipeWords e).flatMap recipeSrcs).filter (fun v => decide (v < 64))

/-- Ports that a recipe names (R168). -/
def recipePorts (e : W256) : List Nat :=
  (((recipeWords e).flatMap recipeSrcs).filter (fun v => decide (65 ≤ v) && decide (v ≤ 68))).map (fun v => v - 65)

/-- A recipe entry of the core. -/
def Core.recipe (k : Core) (i : BitVec 5) : W256 := k.tables.recipes[i.toNat]'i.isLt

/-- The binding names physical register `p` as an operand. -/
def Core.bindNames (k : Core) (b : Binding) (p : Nat) : Bool := (recipeStatics (k.recipe b.k)).contains p

/-- A binding is live while its register is TAGGED or DROPPED (R171). -/
def PReg.live (p : PReg) : Bool := p.st == .tagged || p.st == .dropped

/-! ### Invalidation (R174) -/

/-- A TAGGED register becomes PLAIN and a DROPPED register LOST. -/
def PReg.invalidate (p : PReg) : PReg :=
  match p.st with
  | .tagged => { p with st := .plain, bind := none }
  | .dropped => { p with st := .lost, bind := none }
  | .empty => p
  | .plain => p
  | .lost => p

/-- The register's live binding meets a condition. -/
def PReg.bindMeets (p : PReg) (f : Binding → Bool) : Bool :=
  p.live && (match p.bind with
    | some b => f b
    | none => false)

/-- Every binding that meets a condition is invalidated, and, round after round, every binding that names a register
made LOST; a chain is no longer than the file. -/
def invalidateRounds (names : Binding → Nat → Bool) : Nat → (Binding → Bool) → List PReg → List PReg
  | 0, _, ps => ps
  | n + 1, f, ps =>
    let lost := (ps.zipIdx.filter (fun q => q.1.st == .dropped && q.1.bindMeets f)).map Prod.snd
    let ps := ps.map (fun p => if p.bindMeets f then p.invalidate else p)
    if lost.isEmpty then ps else invalidateRounds names n (fun b => lost.any (names b)) ps

/-- The core with every binding that meets a condition invalidated (R174). -/
def Core.invalidateBinds (k : Core) (f : Binding → Bool) : Core :=
  if k.regs.pregs.any (fun p => p.bindMeets f) then
    { k with regs := { k.regs with
        pregs := invalidateRounds (fun b p => k.bindNames b p) (k.regs.pregs.length + 1) f k.regs.pregs } }
  else k

/-- Scratchpad bytes of a pinned footprint overlap [lo, hi) (R169). -/
def PortFoot.overlaps (p : PortFoot) (lo hi : Nat) : Bool :=
  (List.range p.r).any (fun r =>
    let a : Int := p.vbase + (r * p.rowp : Nat)
    decide (a < (hi : Int)) && decide ((lo : Int) < a + (4 * p.c : Nat)))

/-- The binding pins a byte of [lo, hi). -/
def Binding.pinsRange (b : Binding) (lo hi : Nat) : Bool :=
  b.pins.any (fun p =>
    match p with
    | some f => f.overlaps lo hi
    | none => false)

/-- The core after a write to scratchpad bytes [lo, hi) has invalidated the bindings that pin them (R174). -/
def Core.invalidateRange (k : Core) (lo hi : Nat) : Core := k.invalidateBinds (fun b => b.pinsRange lo hi)

/-- The core after a write by a C word to physical register `p` (R174): its own binding and those that name it. -/
def Core.wroteReg (k : Core) (p : Nat) : Core :=
  let k := { k with regs := k.regs.setPreg p (let q := k.regs.preg p
    if q.live then { q with st := .plain, bind := none } else q) }
  k.invalidateBinds (fun b => k.bindNames b p)

end Sys2Proof.Machine
end

