-- ==== Sys2Proof/Machine/Rings.lean ====
section
/-! DEFINITION. Operand rings, their summaries, and every write to the scratchpad (06_pool R142 to R148, 07_registers
R174). -/

namespace Sys2Proof.Machine

open Sys2Proof

/-! ### Configuration of a ring (R142) -/

/-- EN. -/
def Ring.on (r : Ring) : Bool := r.cfg.getLsbD 0
/-- First scratchpad offset of the ring. -/
def Ring.base (r : Ring) : Nat := 32 * fld r.cfg 63 48
/-- Tiles in the ring. -/
def Ring.tiles (r : Ring) : Nat := fld r.cfg 47 42 + 1
/-- Element format. -/
def Ring.fmt (r : Ring) : Option Fmt := Fmt.ofCode (fld r.cfg 41 38)
/-- Elements per line. -/
def Ring.k (r : Ring) : Nat := 64 * (fld r.cfg 37 34 + 1)
/-- Tiles are k-major. -/
def Ring.lay (r : Ring) : Bool := r.cfg.getLsbD 33
/-- Tiles carry block scales. -/
def Ring.sc (r : Ring) : Bool := r.cfg.getLsbD 32
/-- Matrix words that use each tile. -/
def Ring.usesPer (r : Ring) : Nat := fld r.cfg 31 24 + 1
/-- Tile size in sectors. -/
def Ring.tsz (r : Ring) : Nat := fld r.cfg 23 8

/-- Bits of an element of a format (R44). -/
def fmtBits : Fmt → Nat
  | .f32 => 32
  | .i32 => 32
  | .bf16 => 16
  | .fp16 => 16
  | .e4m3 => 8
  | .e5m2 => 8
  | .i8 => 8
  | .n8 => 8
  | .e8m0 => 8
  | .fp4 => 4
  | .i4 => 4
  | .n4 => 4

/-- Group size along k (R142, 08_numbers R200): 32 for 4-bit formats, 16 for 8-bit, 8 for 16-bit. -/
def fmtGroup (f : Fmt) : Nat := 128 / fmtBits f

/-- A format of the matrix engine (R142). -/
def fmtMatrix : Fmt → Bool
  | .fp4 | .i4 | .n4 | .e4m3 | .e5m2 | .i8 | .n8 | .bf16 | .fp16 => true
  | .f32 | .i32 | .e8m0 => false

/-- TSZ as the dispatcher computes it (R142). -/
def tileSectors (f : Fmt) (k : Nat) (sc : Bool) : Nat :=
  (64 * k * fmtBits f / 8 + (if sc then 64 * k / fmtGroup f else 0)) / 32

/-- Scratchpad offset of the slot of tile `n` (R144). -/
def Ring.slotOff (r : Ring) (n : Nat) : Nat := r.base + 32 * (n % r.tiles * r.tsz)

/-! ### Elements of a tile in the scratchpad (R142) -/

/-- `w` bits from bit `b` of the scratchpad; an element of 4 bits lies within one byte. -/
def scratchBits (m : Mem) (off b w : Nat) : Nat :=
  m.readLe (off + b / 8) ((w + 7) / 8) / 2 ^ (b % 8) % 2 ^ w

/-- Bits of element (line, κ) of a tile at an offset. -/
def tileElem (m : Mem) (f : Fmt) (k : Nat) (lay : Bool) (off line kap : Nat) : Nat :=
  scratchBits m off ((if lay then kap * 64 + line else line * k + kap) * fmtBits f) (fmtBits f)

/-- The scale byte of (line, group). -/
def tileScale (m : Mem) (f : Fmt) (k : Nat) (lay : Bool) (off line g : Nat) : Nat :=
  (m.read (off + 64 * k * fmtBits f / 8 + (if lay then g * 64 + line else line * (k / fmtGroup f) + g))).toNat

/-- The element is a NaN or an infinity (08_numbers R179). -/
def elemSpecial (f : Fmt) (e : Nat) : Bool :=
  match f with
  | .f32 => e / 2 ^ 23 % 256 == 255
  | .bf16 => e / 2 ^ 7 % 256 == 255
  | .fp16 => e / 2 ^ 10 % 32 == 31
  | .e5m2 => e / 4 % 32 == 31
  | .e4m3 => e % 128 == 127
  | .fp4 | .i32 | .i8 | .i4 | .n8 | .n4 | .e8m0 => false

/-- The element is zero of either sign. -/
def elemZero (f : Fmt) (e : Nat) : Bool :=
  match f with
  | .f32 | .bf16 | .fp16 | .e4m3 | .e5m2 | .fp4 => e % 2 ^ (fmtBits f - 1) == 0
  | .i32 | .i8 | .i4 | .n8 | .n4 | .e8m0 => e == 0

/-- F of a group of a tile (R147). -/
def groupF (m : Mem) (f : Fmt) (k : Nat) (lay sc : Bool) (off g : Nat) : Bool :=
  (List.range 64).any (fun l =>
    (List.range (fmtGroup f)).any (fun i => elemSpecial f (tileElem m f k lay off l (fmtGroup f * g + i)))
      || (sc && tileScale m f k lay off l g == 255))

/-- Z of a group of a tile (R147). -/
def groupZ (m : Mem) (f : Fmt) (k : Nat) (lay sc : Bool) (off g : Nat) : Bool :=
  (List.range 64).all (fun l => (List.range (fmtGroup f)).all (fun i => elemZero f (tileElem m f k lay off l (fmtGroup f * g + i))))
    && !groupF m f k lay sc off g

/-- Bits from a list, bit 0 first. -/
def natOfBits : List Bool → Nat
  | [] => 0
  | b :: bs => bitCode b + 2 * natOfBits bs

/-- The summary of a slot when its tile is whole; SV stays clear when a write has met the slot since the claim. -/
def Ring.summarise (r : Ring) (m : Mem) (n : Nat) : Summary :=
  match r.fmt with
  | none => { sv := false, z := 0, f := 0 }
  | some f =>
    let gs := List.range (r.k / fmtGroup f)
    { sv := !r.met.contains n
      z := BitVec.ofNat 128 (natOfBits (gs.map (groupZ m f r.k r.lay r.sc (r.slotOff n))))
      f := BitVec.ofNat 128 (natOfBits (gs.map (groupF m f r.k r.lay r.sc (r.slotOff n)))) }

/-- A summary by slot. -/
def Ring.sum (r : Ring) (slot : Nat) : Summary := (r.sums[slot]?).getD { sv := false, z := 0, f := 0 }

/-- A claim of `t` tiles (R144, R147): ITAIL passes them and SV of their slots clears. -/
def Ring.claim (r : Ring) (t : Nat) : Ring :=
  let slots := (List.range (min t r.tiles)).map (fun i => (r.itail + i) % r.tiles)
  { r with
    itail := r.itail + t
    sums := r.sums.zipIdx.map (fun p => if slots.contains p.2 then { p.1 with sv := false } else p.1) }

/-- One more sector of tile `n` has landed. -/
def Ring.land (r : Ring) (n : Nat) : Ring :=
  let have_ := (r.landed.lookup n).getD 0
  { r with landed := (n, have_ + 1) :: r.landed.filter (fun p => p.1 != n) }

/-- TAIL advances over whole tiles (R144), with their summaries (R147); at most `fuel` tiles. -/
def Ring.advance (r : Ring) (m : Mem) : Nat → Ring
  | 0 => r
  | fuel + 1 =>
    if (r.landed.lookup r.tail).getD 0 == r.tsz && r.tsz != 0 then
      let slot := r.tail % r.tiles
      Ring.advance { r with
        tail := r.tail + 1
        landed := r.landed.filter (fun p => p.1 != r.tail)
        met := r.met.filter (fun n => n != r.tail)
        sums := r.sums.set slot (r.summarise m r.tail) } m fuel
    else r

/-- A use of tile `n` retires (R145): uses of later tiles are held until their tile is the head. -/
def Ring.retire (r : Ring) (n : Nat) : Ring :=
  let early := r.early ++ [n]
  let rec go (head : Nat) (ucnt : Nat) (early : List Nat) : Nat → Ring
    | 0 => { r with head := head, ucnt := BitVec.ofNat 8 ucnt, early := early }
    | fuel + 1 =>
      if early.contains head then
        if ucnt + 1 == r.usesPer then go (head + 1) 0 (early.erase head) fuel
        else go head (ucnt + 1) (early.erase head) fuel
      else { r with head := head, ucnt := BitVec.ofNat 8 ucnt, early := early }
  go r.head r.ucnt.toNat early (early.length + 1)

/-- The state register of a ring (R143). -/
def Ring.stateReg (r : Ring) : W64 :=
  BitVec.ofNat 64 (r.head % 65536 * 2 ^ 48 + r.tail % 65536 * 2 ^ 32 + r.itail % 65536 * 2 ^ 16 + r.ucnt.toNat * 2 ^ 8)

/-! ### Writes to the scratchpad -/

/-- A write to bytes [lo, hi) by any means but the landing `copy.o` (R148): SV of the slots it meets clears, and the tiles claimed
for them and not yet landed whole will not set it. -/
def Ring.touch (r : Ring) (lo hi : Nat) : Ring :=
  if r.on && decide (lo < hi) && decide (lo < r.base + 32 * (r.tiles * r.tsz)) && decide (r.base < hi) && r.tsz != 0 then
    let tb := 32 * r.tsz
    let first := (lo - r.base) / tb
    let last := (hi - 1 - r.base) / tb
    let hit (slot : Nat) : Bool := decide (first ≤ slot) && decide (slot ≤ last)
    let open_ := ((List.range (r.itail - r.tail)).map (fun i => r.tail + i)).filter (fun n => hit (n % r.tiles))
    { r with
      met := (r.met ++ open_).eraseDups
      sums := r.sums.zipIdx.map (fun p => if hit p.2 then { p.1 with sv := false } else p.1) }
  else r

/-- Bytes into the scratchpad, with the invalidation of bindings that pin them (R174); the write of a landing
`copy.o`. -/
def Core.scratchLand (k : Core) (off : Nat) (bs : List Byte) : Core :=
  let k := { k with pool := { k.pool with scratch := k.pool.scratch.writeN off bs } }
  k.invalidateRange off (off + bs.length)

/-- The ring slots that `n` bytes meet lose their summaries (R148). -/
def Core.touchRings (k : Core) (off n : Nat) : Core :=
  { k with tables := { k.tables with rings := k.tables.rings.map (fun r => r.touch off (off + n)) } }

/-- Bytes into the scratchpad by any other means (R148, R174). -/
def Core.scratchWrite (k : Core) (off : Nat) (bs : List Byte) : Core := (k.scratchLand off bs).touchRings off bs.length

/-- Bytes of the scratchpad. -/
def Core.scratchRead (k : Core) (off n : Nat) : List Byte := k.pool.scratch.readN off n

/-- Bytes [off, off + n) lie inside the scratchpad (R131). -/
def Core.inScratch (k : Core) (off n : Nat) : Bool := decide (off + n ≤ k.scratchSize)

end Sys2Proof.Machine
end

