-- ==== Sys2Proof/Machine/Landing.lean ====
section
/-! DEFINITION. The landing unit: the places of a copy's sectors, footprints and gating, the lagoon, requests, commits,
completion, parking, replay and kill, and landing windows (05_copies R102 to R130). -/

namespace Sys2Proof.Machine

open Sys2Proof

/-! ### Handles (R102) -/

def hdDim0 (h : W256) : Nat := fld256 h 207 192
def hdDim1 (h : W256) : Nat := fld256 h 223 208
def hdDim2 (h : W256) : Nat := fld256 h 239 224
def hdDim3 (h : W256) : Nat := fld256 h 255 240
def hdAux (h : W256) : Nat := fld256 h 191 160
def hdGrp (h : W256) : Nat := fld256 h 159 156
def hdStride3 (h : W256) : Nat := fld256 h 155 128
def hdStride2 (h : W256) : Nat := fld256 h 127 96
def hdStride1 (h : W256) : Nat := fld256 h 95 64
def hdKind (h : W256) : Nat := fld256 h 63 62
def hdScope (h : W256) : Scope := Scope.ofCode (fld256 h 61 60)
def hdStrict (h : W256) : Bool := h.getLsbD 59
def hdSemen (h : W256) : Bool := h.getLsbD 58
def hdSem (h : W256) : BitVec 6 := BitVec.ofNat 6 (fld256 h 57 52)
def hdLp (h : W256) : Nat := fld256 h 51 48
def hdBase (h : W256) : Nat := fld256 h 47 0
/-- Pitch in sectors of a two-dimensional layout, 2^(LP − 1). -/
def hdPitch (h : W256) : Nat := 2 ^ (hdLp h - 1)

/-- The word belongs to S. -/
def CopyOp.isS : CopyOp → Bool
  | .wcopy | .scatter | .put | .acopy => true
  | .copy | .copyO | .pk | .uk | .gather => false

/-- The word takes an index list. -/
def CopyOp.isIndexed : CopyOp → Bool
  | .gather | .scatter => true
  | .copy | .copyO | .pk | .uk | .wcopy | .put | .acopy => false

/-- N (R104, R115). `i` is the interleave factor. -/
def copyCount (op : CopyOp) (h : W256) (i : Nat) : Nat :=
  match op with
  | .gather | .scatter => hdDim0 h * hdDim1 h
  | .pk => (i * hdAux h + 31) / 32
  | .uk => i * ((hdAux h + 31) / 32)
  | .copy | .copyO | .wcopy | .put | .acopy => hdDim0 h * hdDim1 h * hdDim2 h * hdDim3 h

/-- Plane and byte of byte q of the packed form (R115). -/
def packedAt (l g i q : Nat) : Nat × Nat :=
  let n := l / g
  let full := n * g * i
  if q < full then (q / g % i, q / (g * i) * g + q % g)
  else
    let rem := l - n * g
    ((q - full) / rem, n * g + (q - full) % rem)

/-- Byte of the packed form that holds byte b of plane j: the inverse of R115. -/
def packedOf (l g i j b : Nat) : Nat :=
  let n := l / g
  if b < n * g then b / g * (g * i) + j * g + b % g
  else n * g * i + j * (l - n * g) + (b - n * g)

/-- Interleave factor I = 2^c. -/
def Copy.planes (c : Copy) : Nat := 2 ^ c.il

/-- Index of a row, when its group has been read (R116). -/
def Copy.index (c : Copy) (row : Nat) : Option W32 :=
  match c.groups.lookup (row / 16) with
  | some g => g[row % 16]?
  | none => none

/-- The index names a row of memory (R116). -/
def Copy.rowInside (c : Copy) (x : W32) : Bool := x != 0xFFFFFFFF && decide (x.toNat < hdAux c.h)

/-- Memory address of sector i (R104, R116); none for a row without memory. -/
def Copy.vaOf (c : Copy) (i : Nat) : Option Nat :=
  let h := c.h
  let d0 := i % hdDim0 h
  let row := i / hdDim0 h
  if c.op.isIndexed then
    match c.index row with
    | some x => if c.rowInside x then some (hdBase h + 32 * (x.toNat * hdStride1 h + d0)) else none
    | none => none
  else
    some (hdBase h + 32 * (d0 + row % hdDim1 h * hdStride1 h + row / hdDim1 h % hdDim2 h * hdStride2 h
      + row / (hdDim1 h * hdDim2 h) * hdStride3 h))

/-- Memory address of byte t of sector i of an L word; none where a zero is written (R104, R115, R116). -/
def Copy.srcByte (c : Copy) (i t : Nat) : Option Nat :=
  let h := c.h
  let l := hdAux h
  let g := 2 ^ hdGrp h
  match c.op with
  | .pk =>
    let q := 32 * i + t
    if q < c.planes * l then
      let p := packedAt l g c.planes q
      some (hdBase h + 32 * (p.1 * hdStride1 h) + p.2)
    else none
  | .uk =>
    let b := 32 * (i / c.planes) + t
    if b < l then some (hdBase h + packedOf l g c.planes (i % c.planes) b) else none
  | .copy | .copyO | .gather | .wcopy | .scatter | .put | .acopy => (c.vaOf i).map (fun a => a + t)

/-- The memory sectors that sector i of an L word is built from, in the order of its bytes. -/
def Copy.parts (c : Copy) (i : Nat) : List Part :=
  ((((List.range 32).filterMap (c.srcByte i)).map (fun a => a / 32 * 32)).eraseDups).map
    (fun a => { va := a, pa := 0, pm := 0, data := none, failed := false, lost := false })

/-- The 32 bytes of sector i from its parts. -/
def Copy.assemble (c : Copy) (i : Nat) (ps : List Part) : List Byte :=
  (List.range 32).map (fun t =>
    match c.srcByte i t with
    | none => 0
    | some a =>
      match ps.find? (fun p => p.va == a / 32 * 32) with
      | some p => ((p.data.getD [])[a % 32]?).getD 0
      | none => 0)

/-- Scratchpad offset of sector i (R104, R114, R115). -/
def Copy.spOff (c : Copy) (k : Core) (i : Nat) : Nat :=
  let off := c.opnd.toNat
  let h := c.h
  match c.op with
  | .copyO =>
    let r := k.ring (c.opnd.setWidth 3)
    r.slotOff (c.tile0 + i / r.tsz) + 32 * (i % r.tsz)
  | .pk => off + 32 * i
  | .uk => off + 32 * (i % c.planes * hdPitch h + i / c.planes)
  | .copy | .gather | .wcopy | .scatter | .put | .acopy =>
    if hdLp h == 0 then off + 32 * i else off + 32 * (i / hdDim0 h * hdPitch h + i % hdDim0 h)

/-- Landing index of scratchpad sector x in the copy, if the footprint holds it (R108). -/
def Copy.indexOf (c : Copy) (k : Core) (x : Nat) : Option Nat :=
  let h := c.h
  match c.op with
  | .copyO =>
    let r := k.ring (c.opnd.setWidth 3)
    let size := r.tiles * r.tsz
    let b := r.base / 32
    if decide (b ≤ x) && decide (x < b + size) then
      let i := (x - b + size - c.tile0 % r.tiles * r.tsz) % size
      if i < c.n then some i else none
    else none
  | .pk =>
    let o := c.opnd.toNat / 32
    if decide (o ≤ x) && decide (x < o + c.n) then some (x - o) else none
  | .uk =>
    let o := c.opnd.toNat / 32
    let s := (hdAux h + 31) / 32
    if decide (o ≤ x) && decide ((x - o) / hdPitch h < c.planes) && decide ((x - o) % hdPitch h < s) then
      some ((x - o) % hdPitch h * c.planes + (x - o) / hdPitch h)
    else none
  | .copy | .gather | .wcopy | .scatter | .put | .acopy =>
    let o := c.opnd.toNat / 32
    if x < o then none
    else if hdLp h == 0 then (if x - o < c.n then some (x - o) else none)
    else
      let row := (x - o) / hdPitch h
      let d0 := (x - o) % hdPitch h
      if decide (d0 < hdDim0 h) && decide (row * hdDim0 h + d0 < c.n) then some (row * hdDim0 h + d0) else none

/-! ### Live copies and gating (R106, R108, R109) -/

/-- The gang of a core's task. -/
def Core.gangNo (k : Core) : Nat := (k.task.map Task.gang).getD 0

/-- The core runs a task of the gang. -/
def Core.inGang (k : Core) (g : Nat) : Bool := k.task.isSome && k.gangNo == g

/-- Not abandoned. -/
def Copy.live (c : Copy) : Bool := c.st != .abandoned

/-- A copy by its number. -/
def Core.copy (k : Core) (id : Nat) : Option Copy := k.land.copies.find? (fun c => c.id == id)

/-- A copy by its number, be it one that its register has forgotten. -/
def Core.anyCopy (k : Core) (id : Nat) : Option Copy := (k.land.copies ++ k.land.orphans).find? (fun c => c.id == id)

/-- The core with a copy replaced; one that its register has forgotten goes with its last answer. -/
def Core.setCopy (k : Core) (c : Copy) : Core :=
  { k with land := { k.land with
      copies := k.land.copies.map (fun d => if d.id == c.id then c else d)
      orphans := (k.land.orphans.map (fun d => if d.id == c.id then c else d)).filter (fun d => !d.out.isEmpty) } }

/-- The core with every copy changed. -/
def Core.mapCopies (k : Core) (f : Copy → Copy) : Core := { k with land := { k.land with copies := k.land.copies.map f } }

/-- The core with the open window of a register changed. -/
def Core.modWindow (k : Core) (w : BitVec 4) (f : LWindow → LWindow) : Core :=
  { k with land := { k.land with windows := k.land.windows.map (fun v => if v.w == w then f v else v) } }

/-- The index of the row of sector i is known, or the word has none (R116). -/
def Copy.rowKnown (c : Copy) (i : Nat) : Bool := !c.op.isIndexed || (c.index (i / hdDim0 c.h)).isSome

/-- Sector i belongs to a row that writes nothing (R118). -/
def Copy.skips (c : Copy) (i : Nat) : Bool := c.op.isIndexed && c.rowKnown i && (c.vaOf i).isNone

/-- The next source sector of an S word, in landing order: the first one not read and not performed (R118). Performed sectors beyond
the watermark are fewer than 64. -/
def Copy.sourceNext (c : Copy) : Option Nat :=
  if c.op.isS then ((List.range (min 65 (c.n - c.rd))).map (fun j => c.rd + j)).find? (fun i => !c.perf.contains i) else none

/-- The bytes of sector i of an S word have been read, or the sector has none to read. -/
def Copy.ready (c : Copy) (i : Nat) : Bool := (c.got.lookup i).isSome || c.skips i

/-- Live copies bound to a register, oldest first. -/
def Core.bound (k : Core) (w : BitVec 4) : List Copy := k.land.copies.filter (fun c => c.live && c.w == w)

/-- The open window of a register. -/
def Core.window (k : Core) (w : BitVec 4) : Option LWindow := k.land.windows.find? (fun v => v.w == w)

/-- The copy is the head of its register. -/
def Core.isHead (k : Core) (c : Copy) : Bool := (k.bound c.w).head?.map Copy.id == some c.id

/-- COUNT − START as gating sees it: nothing of a live copy behind another is past. -/
def Core.passed (k : Core) (c : Copy) : Nat := if c.live && !k.isHead c then 0 else c.done

/-- Scratchpad sector x is pending in the copy. -/
def Core.pendingIn (k : Core) (c : Copy) (x : Nat) : Bool :=
  match c.indexOf k x with
  | some i => decide (k.passed c ≤ i)
  | none => false

/-- Scratchpad sector x is pending in the window. -/
def Core.pendingWin (k : Core) (v : LWindow) (x : Nat) : Bool :=
  decide (v.off / 32 ≤ x) && decide (x < v.off / 32 + v.n) && decide ((k.wm v.w).count.toNat ≤ x - v.off / 32)

/-- A footprint that holds an access: its register, and whether its copy is abandoned or parked. -/
structure Block where
  w : BitVec 4
  dead : Bool
  parked : Bool
  deriving DecidableEq, Repr

/-- The footprints, made live before number `before`, in which sector x is pending; `sGated` tells an access that S
footprints gate too (R108). -/
def Core.blocks (k : Core) (before : Nat) (sGated : Bool) (x : Nat) : List Block :=
  (k.land.copies.filter (fun c => decide (c.id < before) && (sGated || !c.op.isS) && k.pendingIn c x)).map
      (fun c => { w := c.w, dead := !c.live, parked := c.st == .parked })
    ++ (k.land.windows.filter (fun v => decide (v.id < before) && k.pendingWin v x)).map
      (fun v => { w := v.w, dead := false, parked := false })

/-- The copy is a `copy.o` into one of the rings. -/
def Copy.fills (c : Copy) (rs : List (BitVec 3)) : Bool := c.op == .copyO && rs.contains (c.opnd.setWidth 3)

/-- The footprints that hold the operand fetch of a multiply-accumulate at sector x of its tiles: all that gate a load, but for the
`copy.o` words of its own rings, which reach a tile's slot only after the tile is freed (06_pool R144, R145; log 78). -/
def Core.tileBlocks (k : Core) (rs : List (BitVec 3)) (x : Nat) : List Block :=
  { k with land := { k.land with copies := k.land.copies.filter (fun c => !c.fills rs) } }.blocks k.land.nextId false x

/-- How an access stands. -/
inductive Gate where
  | free
  /-- pending sectors, first one first -/
  | held (secs : List Nat)
  /-- register and first sector of an abandoned copy -/
  | dead (w : BitVec 4) (sec : Nat)
  deriving DecidableEq, Repr

/-- The lowest of a list of registers. -/
def lowestW : List (BitVec 4) → BitVec 4
  | [] => 0
  | w :: rest => rest.foldl (fun a b => if b.toNat < a.toNat then b else a) w

/-- The gate of an access to a list of sectors, each held by the given footprints. -/
def gateOf (blocks : Nat → List Block) (secs : List Nat) : Gate :=
  let deadAt (x : Nat) : List (BitVec 4) := ((blocks x).filter (fun b => b.dead)).map Block.w
  match secs.find? (fun x => !(deadAt x).isEmpty) with
  | some x => .dead (lowestW (deadAt x)) x
  | none =>
    let held := secs.filter (fun x => !(blocks x).isEmpty)
    if held.isEmpty then .free else .held held

/-- The gate of an access to a list of sectors. -/
def Core.gateSecs (k : Core) (before : Nat) (sGated : Bool) (secs : List Nat) : Gate := gateOf (k.blocks before sGated) secs

/-- Sectors of `n` bytes from a scratchpad offset. -/
def secsOf (off n : Nat) : List Nat :=
  if n == 0 then [] else (List.range ((off + n - 1) / 32 - off / 32 + 1)).map (fun i => off / 32 + i)

/-- Scratchpad sectors of a port move. -/
def PortFoot.secs (f : PortFoot) : List Nat :=
  ((List.range f.r).flatMap (fun r => secsOf (f.vbase + (r * f.rowp : Nat)).toNat (4 * f.c))).eraseDups

/-- The core after the bindings that pin a sector of a copy's footprint are invalidated (07_registers R174). -/
def Core.invalidateFoot (k : Core) (c : Copy) : Core :=
  k.invalidateBinds (fun b => b.pins.any (fun p =>
    match p with
    | some f => f.secs.any (fun x => (c.indexOf k x).isSome)
    | none => false))

/-- The gate of an access by X, C or the atomic port. -/
def Core.gate (k : Core) (sGated : Bool) (off n : Nat) : Gate := k.gateSecs k.land.nextId sGated (secsOf off n)

/-- A commit of number `id` into sector x waits for an earlier footprint (R109). -/
def Core.commitBlocked (k : Core) (id x : Nat) : Bool := (k.blocks id true x).any (fun b => !b.dead)

/-! ### Watermark fields (R106) -/

/-- Footprint start, sectors per row, rows, pitch code and plane code of a copy. -/
def Copy.foot (c : Copy) (k : Core) : Nat × Nat × Nat × Nat × Nat :=
  match c.op with
  | .copyO => (c.spOff k 0 / 32, c.n, 1, 0, 0)
  | .pk => (c.opnd.toNat / 32, c.n, 1, 0, 0)
  | .uk => (c.opnd.toNat / 32, (hdAux c.h + 31) / 32, c.planes, hdLp c.h, c.il)
  | .copy | .gather | .wcopy | .scatter | .put | .acopy =>
    if hdLp c.h == 0 then (c.opnd.toNat / 32, c.n, 1, 0, 0)
    else (c.opnd.toNat / 32, hdDim0 c.h, c.n / hdDim0 c.h, hdLp c.h, 0)

/-- The fields of a register that follow its head copy, its window or neither. -/
def Core.refresh (k : Core) (w : BitVec 4) : Core :=
  match (k.bound w).head? with
  | some c =>
    let f := c.foot k
    k.modWm w (fun m => { m with
      fbase := BitVec.ofNat 16 f.1
      rlen := BitVec.ofNat 16 f.2.1
      nrow := BitVec.ofNat 16 f.2.2.1
      lp := BitVec.ofNat 4 f.2.2.2.1
      ic := BitVec.ofNat 3 f.2.2.2.2
      out := c.op.isS
      st := if c.st == .parked then 2 else 1
      total := BitVec.ofNat 16 c.n
      count := c.start + BitVec.ofNat 32 c.done })
  | none =>
    if (k.window w).isSome then k.modWm w (fun m => { m with st := 4 })
    else if k.land.copies.any (fun c => c.w == w) then k.modWm w (fun m => { m with st := 3 })
    else k.modWm w (fun m => { m with st := 0 })

/-- Bits [63:0] of a register. -/
def Core.wmLow (k : Core) (w : BitVec 4) : W64 :=
  let m := k.wm w
  BitVec.ofNat 64 (m.st.toNat * 2 ^ 61 + bitCode m.gix * 2 ^ 60 + bitCode m.dup * 2 ^ 59 + bitCode m.bnd * 2 ^ 58
    + m.total.toNat * 2 ^ 32 + m.count.toNat)

/-- Bits [127:64] of a register. -/
def Core.wmHigh (k : Core) (w : BitVec 4) : W64 :=
  let m := k.wm w
  BitVec.ofNat 64 (m.fbase.toNat * 2 ^ 48 + m.rlen.toNat * 2 ^ 32 + m.nrow.toNat * 2 ^ 16 + m.lp.toNat * 2 ^ 12
    + m.ic.toNat * 2 ^ 9 + bitCode m.out * 2 ^ 8 + (k.bound w).length % 8)

/-- START of a copy that becomes live now (R107): it lands after the live copies of its register. -/
def Core.startFor (k : Core) (w : BitVec 4) : W32 :=
  match (k.bound w).getLast? with
  | some c => c.start + BitVec.ofNat 32 c.n
  | none => (k.wm w).count

/-! ### The lagoon (R123, R124) -/

/-- Entries that a local copy holds. -/
def Copy.entries (c : Copy) : Nat := if c.op.isS then 0 else c.out.length + c.held.length

/-- Entries not in use and not in a share. -/
def Core.lagoonFree (k : Core) : Nat :=
  512 - (k.land.windows.map LWindow.share).sum - ((k.land.copies ++ k.land.orphans).map Copy.entries).sum

/-- The oldest live L copy that is not parked. -/
def Core.oldest (k : Core) : Option Copy := k.land.copies.find? (fun c => c.st == .active && !c.op.isS)

/-- Entries that only the oldest copy may still take. -/
def Core.heldBack (k : Core) : Nat :=
  match k.oldest with
  | some c => 32 - c.entries
  | none => 0

/-- Entries that a parked copy leaves free (R124): those held back, for the oldest copy or for the next one. -/
def Core.keptFree (k : Core) : Nat :=
  match k.oldest with
  | some c => 32 - c.entries
  | none => 32

/-- The copy may take one more entry. -/
def Core.mayEnter (k : Core) (c : Copy) : Bool :=
  decide (c.entries < 128)
    && (if k.oldest.map Copy.id == some c.id then decide (0 < k.lagoonFree) else decide (k.heldBack < k.lagoonFree))

/-! ### Barrier reports (R130) -/

/-- Barrier address of a bound word (R39, R112). -/
def Copy.barVa (c : Copy) : Nat := if c.op.isIndexed then c.aux.toNat % 2 ^ 48 else c.aux.toNat

/-- The sectors below `upto` and not yet reported are reported to the barrier object. -/
def State.reportUpto (s : State) (core : CoreId) (c : Copy) (upto : Nat) : State × Copy :=
  match c.barPa, (s.core core).task with
  | some pa, some t =>
    if c.bar && decide (c.reported < upto) then
      (s.sendSlice core pa (.barrier pa t.tenant (.report (BitVec.ofNat 32 (32 * (upto - c.reported))))
          (.report core c.id c.barVa (if c.op.isS then 3 else 1) c.copyId)),
        { c with reported := upto })
    else (s, c)
  | _, _ => (s, c)

/-- The sectors not yet reported are reported. -/
def State.reportBar (s : State) (core : CoreId) (c : Copy) : State × Copy := s.reportUpto core c c.done

/-- A report is due at this sector (R130). -/
def Copy.reportDue (c : Copy) : Bool := c.bar && c.done % 64 == 0

/-- A report of this copy is a release that covers host writes (R130, R297): a flushing read comes before it. -/
def Copy.reportFlushes (c : Copy) : Bool := hdScope c.h == .system && c.hostLast.isSome

/-- A report that has fallen due: sent at once, or after a flushing read, one at a time. -/
def State.reportNow (s : State) (core : CoreId) (c : Copy) : State × Copy :=
  if !c.reportFlushes then s.reportBar core c
  else
    match c.hostLast, (s.core core).task with
    | some pa, some t =>
      if c.repDue.isSome then (s, c)
      else (s.sendSlice core pa (.read pa 0 0 t.tenant c.hint true (.copy core c.id (c.n + 1) 0)), { c with repDue := some c.done })
    | _, _ => (s, c)

/-- The flushing read of a report is answered: the report goes out, and the next one that has fallen due meanwhile begins. -/
def State.reportFlushed (s : State) (core : CoreId) (id : Nat) : State :=
  match (s.core core).copy id with
  | none => s
  | some c =>
    match c.repDue with
    | none => s
    | some n =>
      let r := s.reportUpto core { c with repDue := none } n
      let r := if decide (n < c.done / 64 * 64) && c.st == .active then r.1.reportNow core r.2 else r
      r.1.modCore core (fun k => k.setCopy r.2)

/-! ### Commit and completion (R107, R109) -/

/-- The flushing read of R297 is still to be made before the release of this copy. -/
def Copy.needsFlush (c : Copy) : Bool := hdScope c.h == .system && c.hostLast.isSome && c.flush != 2

/-- The flushing read of a copy is sent. -/
def State.flushCopy (s : State) (core : CoreId) (c : Copy) : State :=
  match c.hostLast, (s.core core).task with
  | some pa, some t =>
    let s := s.modCore core (fun k => k.setCopy { c with flush := 1 })
    s.sendSlice core pa (.read pa 0 0 t.tenant c.hint true (.copy core c.id c.n 0))
  | _, _ => s

/-- Sector `done` of an L copy is committed: its bytes are written, COUNT advances, a ring tile may become whole. -/
def Core.commitSector (k : Core) (c : Copy) (bs : List Byte) : Core :=
  let off := c.spOff k c.done
  let k :=
    match c.op with
    | .copyO =>
      let r := c.opnd.setWidth 3
      let t := c.tile0 + c.done / (k.ring r).tsz
      let k := k.scratchLand off bs
      k.modRing r (fun g => (g.land t).advance k.pool.scratch (g.tiles + 1))
    | .copy | .pk | .uk | .gather | .wcopy | .scatter | .put | .acopy => k.scratchWrite off bs
  let d := c.done
  ((k.note .landed 1).setCopy { c with done := d + 1, held := c.held.filter (fun p => p.1 != d) }).refresh c.w

/-- A record that does not park waits with the copy (03_memory R71): its sectors do not complete. -/
def State.recordHeld (s : State) (core : CoreId) (id : Nat) : Bool :=
  match (s.core core).task with
  | some t => (s.tenant t.tenant).holds (.copy core id)
  | none => false

/-- Held sectors commit, and performed sectors pass, as far as they can; `fuel` bounds the sectors. -/
def State.advanceCopy (s : State) (core : CoreId) (id : Nat) : Nat → State
  | 0 => s
  | fuel + 1 =>
    let k := s.core core
    match k.copy id with
    | none => s
    | some c =>
      if c.st != .active || decide (c.n ≤ c.done) || s.recordHeld core id then s
      else if c.op.isS then
        if c.perf.contains c.done then
          let c := { c with done := c.done + 1, perf := c.perf.filter (fun i => i != c.done) }
          let r := if c.reportDue then s.reportNow core c else (s, c)
          (r.1.modCore core (fun k => (k.setCopy r.2).refresh c.w)).advanceCopy core id fuel
        else s
      else if !k.isHead c then s
      else
        match c.held.lookup c.done with
        | none => s
        | some bs =>
          if k.commitBlocked c.id (c.spOff k c.done / 32) then s
          else
            let s := s.setCore core (k.commitSector c bs)
            match (s.core core).copy id with
            | none => s
            | some c =>
              let r := if c.reportDue then s.reportBar core c else (s, c)
              (r.1.modCore core (fun k => k.setCopy r.2)).advanceCopy core id fuel

/-- A copy whose sectors are all past completes (R107): final report, semaphore, the register passes to the next
copy. -/
def State.completeCopy (s : State) (core : CoreId) (id : Nat) : State :=
  let k := s.core core
  match k.copy id with
  | none => s
  | some c =>
    if c.st != .active || decide (c.done < c.n) || !k.isHead c || s.recordHeld core id || c.repDue.isSome then s
    else if c.needsFlush then (if c.flush == 0 then s.flushCopy core c else s)
    else
      let r := s.reportBar core c
      r.1.modCore core (fun k =>
        let k := k.modWm c.w (fun m => { m with count := c.start + BitVec.ofNat 32 c.n })
        let k := { k with land := { k.land with copies := k.land.copies.filter (fun d => d.id != id) } }
        let k := k.refresh c.w
        if hdSemen c.h then k.semAdd (hdSem c.h) 1 else k)

/-- Held sectors of a window commit as COUNT reaches them (R122). -/
def Core.advanceWindow (k : Core) (w : BitVec 4) : Nat → Core
  | 0 => k
  | fuel + 1 =>
    match k.window w with
    | none => k
    | some v =>
      let i := (k.wm w).count.toNat
      match v.held.lookup i with
      | none => k
      | some bs =>
        let off := v.off + 32 * i
        if k.commitBlocked v.id (off / 32) then k
        else
          let k := (k.scratchWrite off bs).note .landed 1
          let k := k.modWindow w (fun u => { u with held := u.held.filter (fun p => p.1 != i) })
          (k.modWm w (fun m => { m with count := m.count + 1 })).advanceWindow w fuel

/-- Everything of the landing unit that can commit or complete does, copy by copy in issue order. -/
def State.commitAll (s : State) (core : CoreId) : State :=
  let s := (s.core core).land.copies.foldl
    (fun s c => (s.advanceCopy core c.id 192).completeCopy core c.id) s
  (s.core core).land.windows.foldl (fun s v => s.modCore core (fun k => k.advanceWindow v.w 257)) s

/-! ### Requests (R107, R114 to R118, R123, R126) -/

/-- A fault of a sector is noted: the copy issues nothing more (R126). -/
def Core.sectorFault (k : Core) (id : Nat) (f : SecFault) : Core :=
  match k.copy id with
  | some c => k.setCopy { c with faults := c.faults ++ [f] }
  | none => k

/-- The lowest faulting sector of a copy. -/
def Copy.firstFault (c : Copy) : Option SecFault :=
  c.faults.foldl (fun b f =>
    match b with
    | none => some f
    | some g => if f.idx < g.idx then some f else some g) none

/-- What an attempt to move a copy on gives: the state, and whether to try again. -/
abbrev Moved := State × Bool

/-- The translation agent of a copy. -/
def Copy.agent (c : Copy) : Agent := if c.op.isS then .s else .l

/-- The parts of a sector are translated in order: places, or nothing when one waits or faults (noted). The walks of the other
parts' pages go on beside one that waits (03_memory R63). -/
def State.xlateParts (s : State) (core : CoreId) (c : Copy) (i : Nat) : List Part → State × Option (List (Nat × Nat))
  | [] => (s, some [])
  | p :: rest =>
    let r := s.xlate core c.agent (.copy core c.id i p.va) p.va false
    match r.2 with
    | .wait => ((r.1.xlateParts core c i rest).1, none)
    | .fault f =>
      (r.1.modCore core (fun k => k.sectorFault c.id
        { idx := i, va := p.va, code := f.code, badPte := f.badPte, host := f.host, wr := false }), none)
    | .ok pa pm _ =>
      let q := r.1.xlateParts core c i rest
      (q.1, q.2.map (fun l => (pa, pm) :: l))

/-- An out-of-range index is met (R116, R118): GIX, and under the handle's STRICT one 0x41 record. -/
def State.badIndex (s : State) (core : CoreId) (c : Copy) (x : W32) : State :=
  let s := s.modCore core (fun k => k.modWm c.w (fun m => { m with gix := true }))
  match (s.core core).task with
  | some t =>
    if hdStrict c.h then
      s.postRecord t.tenant
        { miss := 0, landed := 0, va := x.toNat, copyId := c.copyId, atom := false, badPte := false, host := false,
           wr := c.op.isS, seq := if c.op.isS then 3 else 1, core := core.val, tenant := t.tenant, code := 0x41 }
        (.copy core c.id)
    else s
  | none => s

/-- Row status at the first sector of a row of an indexed word. -/
def State.noteRow (s : State) (core : CoreId) (c : Copy) (i : Nat) : State :=
  if c.op.isIndexed && i % hdDim0 c.h == 0 then
    match c.index (i / hdDim0 c.h) with
    | some x => if x != 0xFFFFFFFF && !c.rowInside x then s.badIndex core c x else s
    | none => s
  else s

/-- Read requests for the parts of sector i. -/
def State.sendParts (s : State) (core : CoreId) (t : Tenant) (c : Copy) (i : Nat) : List ((Nat × Nat) × Nat) → State
  | [] => s
  | ((pa, pm), n) :: rest =>
    (s.sendSlice core pa (.read pa 32 pm t c.hint false (.copy core c.id i n))).sendParts core t c i rest

/-- Every part of a sector is answered: with data, or with a code. -/
def answered (ps : List Part) : Bool := ps.all (fun p => p.data.isSome || p.failed)

/-- The parts of a sector that is out, after an answer (R107, R126): when the last one is answered the sector is held, unless one
met a code or the copy is abandoned. -/
def Core.putParts (k : Core) (c : Copy) (idx : Nat) (ps : List Part) : Core :=
  if answered ps then
    k.setCopy { c with
      out := c.out.filter (fun p => p.idx != idx)
      redo := c.redo.filter (fun i => i != idx)
      held := if c.live && !ps.any Part.failed then (idx, c.assemble idx ps) :: c.held else c.held }
  else k.setCopy { c with out := c.out.map (fun p => if p.idx == idx then { p with parts := ps } else p) }

/-- One part of a sector changed. -/
def partAt (ps : List Part) (n : Nat) (f : Part → Part) : List Part :=
  ps.zipIdx.map (fun p => if p.2 == n then f p.1 else p.1)

/-- A lost reply of part n is asked for again (04_fabric R95): its translation is made afresh; a fault of it is the part's answer. -/
def State.askPart (s : State) (core : CoreId) (t : Tenant) (id idx n : Nat) : State :=
  match (s.core core).copy id with
  | none => s
  | some c =>
    match c.out.find? (fun o => o.idx == idx) with
    | none => s
    | some o =>
      match o.parts[n]? with
      | none => s
      | some p =>
        if !p.lost then s
        else
          let r := s.xlate core c.agent (.copy core id idx p.va) p.va false
          match r.2 with
          | .wait => r.1
          | .fault f =>
            r.1.modCore core (fun k =>
              (k.putParts c idx (partAt o.parts n (fun q => { q with failed := true, lost := false }))).sectorFault id
                { idx := idx, va := p.va, code := f.code, badPte := f.badPte, host := f.host, wr := false })
          | .ok pa pm _ =>
            (r.1.modCore core (fun k => k.putParts c idx (partAt o.parts n (fun q => { q with pa := pa, pm := pm, lost := false })))).sendSlice
              core pa (.read pa 32 pm t c.hint false (.copy core id idx n))

/-- Every lost reply of a core's copies is asked for again, while the core is being stopped as well (R95, R126, R129). -/
def State.askLost (s : State) (core : CoreId) : State :=
  match (s.core core).task with
  | none => s
  | some t =>
    (s.core core).land.copies.foldl (fun s c =>
      c.out.foldl (fun s o =>
        o.parts.zipIdx.foldl (fun s p => if p.1.lost then s.askPart core t.tenant c.id o.idx p.2 else s) s) s) s

/-- Sector i of an L copy is requested. -/
def State.requestL (s : State) (core : CoreId) (t : Tenant) (c : Copy) (i : Nat) (again : Bool) : Moved :=
  let ps := c.parts i
  let bump (c : Copy) : Copy :=
    if again then { c with redo := c.redo.filter (fun j => j != i) } else { c with next := max c.next (i + 1) }
  if ps.isEmpty then
    let s := s.modCore core (fun k => k.setCopy (bump { c with held := (i, zeros 32) :: c.held }))
    -- the row's status was noted when the sector was first met (R116)
    (if again then s else s.noteRow core c i, true)
  else if hdBase c.h % 32 != 0 then
    (s.modCore core (fun k => k.sectorFault c.id
      { idx := i, va := (c.srcByte i 0).getD (hdBase c.h), code := 0x40, badPte := false, host := false, wr := false }), false)
  else
    let r := s.xlateParts core c i ps
    match r.2 with
    | none => (r.1, false)
    | some l =>
      let s := r.1.sendParts core t c i l.zipIdx
      let ps := (ps.zip l).map (fun p => { p.1 with pa := p.2.1, pm := p.2.2 })
      (s.modCore core (fun k => k.setCopy (bump { c with out := c.out ++ [{ idx := i, parts := ps }] })), true)

/-- The core of a gang member; of one that has completed, the core on which it ran, whose task is then none of the gang's (log 74).
A task outside the dispatcher's gangs is its own gang. -/
def State.memberCore (s : State) (core : CoreId) (m : Nat) : Option CoreId :=
  match (s.core core).task with
  | none => none
  | some t =>
    match s.gang t.gang with
    | some g => g.cores[m]?
    | none => if m == t.member then some core else none

/-- The core's own L1 loses the line of an S write or atomic as it is issued (R140), and sectors of fills still to
come; a peer's lines are never in it. -/
def Core.dropL1Sector (k : Core) (pa pm : Nat) : Core :=
  if pm != 0 then k else
  { k with
    l1 := k.l1.filter (fun l => l.line != lineOf pa)
    l1fills := k.l1fills.map (fun f => if f.line == lineOf pa then { f with want := 0 } else f) }

/-- A request of a copy to a place is out: of an abandoned copy too. -/
def Copy.outAt (c : Copy) (pa pm : Nat) : Bool := c.out.any (fun o => o.parts.any (fun p => p.pa / 32 == pa / 32 && p.pm == pm))

/-- Sector writes of earlier S words to the sector at `pa` are still to be performed (12_sync R264): of copies numbered below `id`,
sent or not yet sent, and of atomics before the copy. A row whose index has not been read may lie anywhere (log 95). -/
def State.earlierWrite (s : State) (core : CoreId) (t : Tenant) (atoms : List AtomFly) (id pa pm : Nat) : Bool :=
  let k := s.core core
  (k.land.copies ++ k.land.orphans).any (fun c => c.op.isS && c.op != .put && decide (c.id < id)
      && (c.outAt pa pm
        || (c.live && (List.range (c.n - c.done)).any (fun j =>
            !c.perf.contains (c.done + j) && !c.out.any (fun o => o.idx == c.done + j)
              && (!c.rowKnown (c.done + j) || (c.vaOf (c.done + j)).any (fun a => s.sameSector core t a pa pm))))))
    || atoms.any (fun a => decide (a.before ≤ id)
        && (match a.pa with
          | some p => p / 32 == pa / 32 && a.pm == pm
          | none => s.sameSector core t a.va pa pm))

/-- An earlier put to the same sector of the same member is still to be performed (R264). -/
def Core.putBefore (k : Core) (id member off : Nat) : Bool :=
  (k.land.copies ++ k.land.orphans).any (fun c => c.op == .put && decide (c.id < id) && hdBase c.h / 2 ^ 24 % 16 == member
      && (c.out.any (fun o => (hdBase c.h % 2 ^ 21 + 32 * o.idx) / 32 == off / 32)
        || (c.live && (List.range (c.n - c.done)).any (fun j =>
            !c.perf.contains (c.done + j) && (hdBase c.h % 2 ^ 21 + 32 * (c.done + j)) / 32 == off / 32))))

/-- An earlier put, or atomic through the gang window, to the same sector of the same member is still to be performed
(R264). -/
def Core.earlierPut (k : Core) (id member off : Nat) : Bool :=
  k.putBefore id member off
    || k.atoms.any (fun a => decide (a.before ≤ id) && inGangWindow a.va
          && (a.va - 0xFFFFFC000000) / 2 ^ 21 == member && (a.va - 0xFFFFFC000000) % 2 ^ 21 / 32 == off / 32)

/-- Sector i of an S copy, which has been read, is sent; a skipped row counts as performed. -/
def State.requestS (s : State) (core : CoreId) (t : Tenant) (c : Copy) (i : Nat) (again : Bool) : Moved :=
  let k := s.core core
  let bump (c : Copy) : Copy :=
    if again then { c with redo := c.redo.filter (fun j => j != i) } else { c with next := max c.next (i + 1) }
  let data := (c.got.lookup i).getD []
  match c.op with
  | .put =>
    match s.memberCore core (hdBase c.h / 2 ^ 24 % 16) with
    | none => (s, false)
    | some dst =>
      let target := hdBase c.h % 2 ^ 21 + 32 * i
      if k.earlierPut c.id (hdBase c.h / 2 ^ 24 % 16) target then (s, false) else
      let s := s.send (coreRouter core) (coreRouter dst) k.pri (.put dst target data k.gangNo (.copy core c.id i 0))
      (s.setCore core ((s.core core).setCopy (bump { c with
          out := c.out ++ [{ idx := i, parts :=
            [{ va := target, pa := target, pm := 0, data := none, failed := false, lost := false }] }] })), true)
  | .copy | .copyO | .pk | .uk | .gather | .wcopy | .scatter | .acopy =>
    match c.vaOf i with
    | none =>
      let s := s.setCore core (k.setCopy (bump { c with perf := i :: c.perf }))
      (if again then s else s.noteRow core c i, true)
    | some va =>
      if va % 32 != 0 then
        (s.setCore core (k.sectorFault c.id { idx := i, va := va, code := 0x40, badPte := false, host := false, wr := true }), false)
      else
        let r := s.xlate core .s (.copy core c.id i va) va true
        match r.2 with
        | .wait => (r.1, false)
        | .fault f =>
          (r.1.modCore core (fun k => k.sectorFault c.id
            { idx := i, va := va, code := f.code, badPte := f.badPte, host := f.host, wr := true }), false)
        | .ok pa pm host =>
          let s := r.1
          let k := s.core core
          if c.op == .acopy && host then
            -- the segment's check comes before the destination's answer (03_memory R67)
            (s.setCore core (k.sectorFault c.id
              { idx := i, va := va, code := if s.hostGranted t pa then 0x20 else 0x12, badPte := false, host := true, wr := true }), false)
          else if c.outAt pa pm || s.earlierWrite core t k.atoms c.id pa pm then (s, false)
          else
            let body : Body := if c.op == .acopy then .acc pa data pm t c.hint c.acc c.accFmt (.copy core c.id i 0)
              else .write pa data pm t c.hint (.copy core c.id i 0)
            let s := s.sendSlice core pa body
            let c := bump { c with out := c.out ++ [{ idx := i, parts :=
              [{ va := va, pa := pa, pm := pm, data := none, failed := false, lost := false }] }] }
            let c := if host then { c with hostLast := some pa, flush := 0 } else c
            (s.modCore core (fun k =>
              let k := (k.dropL1Sector pa pm).setCopy c
              if host then k.setLs true { k.seqs.s with hostStore := some pa } else k), true)

/-- Index group `g` of an indexed word, 16 entries. -/
def Core.readGroup (k : Core) (c : Copy) (g : Nat) : List W32 :=
  let list := fld c.aux 63 48 * 64
  (List.range 16).map (fun j => BitVec.ofNat 32 (k.pool.scratch.readLe (list + 64 * g + 4 * j) 4))

/-- Number of index groups. -/
def Copy.groupCount (c : Copy) : Nat := (hdDim1 c.h + 15) / 16

/-- The sectors of the index group that the word reads next, when it is near enough to the watermark (R116): eight groups from the
watermark's own on, which are what a descriptor has room for (R383; log 95). -/
def Copy.groupAccess (c : Copy) : List Nat :=
  let g := c.groups.length
  if !c.op.isIndexed || decide (c.groupCount ≤ g) || c.hold || decide (c.done / hdDim0 c.h / 16 + 8 ≤ g) then []
  else secsOf (fld c.aux 63 48 * 64 + 64 * g) 64

/-- The gate of an index read: every live footprint but the word's own (R108, R109). -/
def Core.groupGate (k : Core) (c : Copy) : Gate :=
  { k with land := { k.land with copies := k.land.copies.filter (fun d => d.id != c.id) } }.gateSecs k.land.nextId c.op.isS c.groupAccess

/-- The first index group not yet read is read when nothing gates it; else nothing changes. -/
def State.pumpGroup (s : State) (core : CoreId) (c : Copy) : State × Bool :=
  let k := s.core core
  let g := c.groups.length
  if c.groupAccess.isEmpty || k.groupGate c != .free then (s, false)
  else (s.setCore core (k.setCopy { c with groups := c.groups ++ [(g, k.readGroup c g)] }), true)

/-- Sector i may be asked for now: its bytes have been read, or a lagoon entry is free for it (R118, R123, R124). -/
def Core.mayAsk (k : Core) (c : Copy) (i : Nat) : Bool := if c.op.isS then c.ready i else k.mayEnter c

/-- The next sector of a copy that may be requested now, and whether it was requested before. A copy that has met a fault only
goes on with sectors below it that are to be requested again, whose answers the park awaits (R126). -/
def Core.nextSector (k : Core) (c : Copy) : Option (Nat × Bool) :=
  match c.firstFault, c.redo with
  | some f, redo => ((redo.find? (fun i => decide (i < f.idx))).filter (k.mayAsk c)).map (fun i => (i, true))
  | none, i :: _ => if k.mayAsk c i then some (i, true) else none
  | none, [] =>
    if decide (c.n ≤ c.next) || (c.op.isS && decide (c.done + 64 ≤ c.next)) || !k.mayAsk c c.next then none
    else
      match c.op with
      | .copyO =>
        let r := k.ring (c.opnd.setWidth 3)
        if c.tile0 + c.next / r.tsz < r.head + r.tiles then some (c.next, false) else none
      | .copy | .pk | .uk | .gather | .wcopy | .scatter | .put | .acopy => some (c.next, false)

/-- The barrier address of a bound copy is translated (R130), and afresh when the copy is replayed (R127): true when it stands. -/
def State.bindBarrier (s : State) (core : CoreId) (t : Tenant) (c : Copy) : State × Bool :=
  if !c.bar || c.barPa.isSome then (s, true)
  else
    let va := c.barVa
    let fault (s : State) (code : Nat) (bad host : Bool) : State :=
      s.modCore core (fun k => k.sectorFault c.id { idx := c.done, va := va, code := code, badPte := bad, host := host, wr := true })
    if va % 64 != 0 then (fault s 0x40 false false, false)
    else
      let r := s.xlate core c.agent (.bound core c.id) va true
      match r.2 with
      | .wait => (r.1, false)
      | .fault f => (fault r.1 f.code f.badPte f.host, false)
      | .ok pa pm host =>
        match r.1.barrierCode t pa pm host with
        | some code => (fault r.1 code false host, false)
        | none => (r.1.modCore core (fun k => k.setCopy { c with barPa := some pa }), true)

/-- An earlier copy of its register is parked: the copy issues no request until that one completes or is killed (03_memory R70). -/
def Core.behindParked (k : Core) (c : Copy) : Bool := (k.bound c.w).any (fun d => decide (d.id < c.id) && d.st == .parked)

/-- A copy may issue requests now: active, no earlier parked copy on its register (R70). -/
def Core.mayRequest (k : Core) (c : Copy) : Bool := c.st == .active && !k.behindParked c

/-- The scratchpad sector that the word reads next as its source, if it has one to read. -/
def Core.sourceAccess (k : Core) (c : Copy) : List Nat :=
  match c.sourceNext with
  | none => []
  | some i => if c.hold || !c.rowKnown i || c.skips i then [] else [c.spOff k i / 32]

/-- The gate of a source read (R108): the footprints live before the word. A later one cannot hold it, since the commits of a later
footprint to the word's own source wait for the word (R109, log 27). -/
def Core.sourceGate (k : Core) (c : Copy) : Gate := k.gateSecs c.id true (k.sourceAccess c)

/-- A live word makes reads: it is not parked, and has met no fault (R126). -/
def Copy.reads (c : Copy) : Bool := c.st == .active && c.faults.isEmpty

/-- What holds the reads that a live word makes next, an index group and a source sector: a read that meets an abandoned sector is not
put off by the other (17_traps R378); free when one of them may go on or none is to be made. -/
def Core.readGate (k : Core) (c : Copy) : Gate :=
  if !c.reads then .free
  else
    match k.groupGate c, k.sourceGate c with
    | .dead w x, _ => .dead w x
    | _, .dead w x => .dead w x
    | .free, h => if c.groupAccess.isEmpty then h else .free
    | .held l, .free => if (k.sourceAccess c).isEmpty then .held l else .free
    | .held l, .held m => .held (l ++ m)

/-- Footprints that hold the next index read of a word, with the sector that names the read and the first that is held: what its stall
is timed by (17_traps R377). -/
def Core.idxHolders (k : Core) (c : Copy) : Option (Nat × Nat × List Block) :=
  match k.groupGate c with
  | .held (x :: rest) =>
    if c.reads then
      let others := { k with land := { k.land with copies := k.land.copies.filter (fun d => d.id != c.id) } }
      some ((c.groupAccess.head?).getD x, x, (x :: rest).flatMap (fun y => others.blocks k.land.nextId c.op.isS y))
    else none
  | _ => none

/-- The same for its next source read. -/
def Core.srcHolders (k : Core) (c : Copy) : Option (Nat × Nat × List Block) :=
  match k.sourceGate c with
  | .held (x :: _) => if c.reads then some (x, x, k.blocks c.id true x) else none
  | _ => none

/-- Word number `id` of the landing order is a word of S, or of L: a copy or, of L, a `prefetch`. -/
def Core.ofSeq (k : Core) (isS : Bool) (id : Nat) : Bool :=
  (k.copy id).any (fun d => d.op.isS == isS) || (!isS && k.land.fetches.any (fun f => f.id == id))

/-- A miss of an earlier request of the same sequencer waits for one of the 32 walks: later requests are held back (03_memory
R63). -/
def State.missAhead (s : State) (core : CoreId) (isS : Bool) (id : Nat) : Bool :=
  let k := s.core core
  ((s.island (islandOf core)).walks.drop 32).any (fun w => w.reqs.any (fun r =>
    match r.who with
    | .copy c j _ _ => c == core && decide (j < id) && k.ofSeq isS j
    | .bound c j => c == core && decide (j < id) && (k.copy j).any (fun d => d.op.isS == isS)
    | .atom c j => c == core && isS && k.atoms.any (fun a => a.id == j && decide (a.before ≤ id))
    | .word _ _ => false
    | .ahead _ _ => false))

/-- The next source sector of an S word is read when nothing gates it; one of a skipped row is passed over; else nothing changes
(R118). -/
def State.pumpSource (s : State) (core : CoreId) (c : Copy) : State × Bool :=
  let k := s.core core
  match c.sourceNext with
  | none => (s, false)
  | some i =>
    if c.hold || !c.rowKnown i then (s, false)
    else if c.skips i then (s.setCore core (k.setCopy { c with rd := i + 1 }), true)
    else if k.sourceGate c != .free then (s, false)
    else (s.setCore core (k.setCopy { c with rd := i + 1, got := c.got ++ [(i, k.scratchRead (c.spOff k i) 32)] }), true)

/-- A live word reads its next index group or its next source sector, whatever becomes of its requests (01_journey R24). -/
def State.pumpRead (s : State) (core : CoreId) (c : Copy) : State × Bool :=
  if !c.reads then (s, false)
  else
    let g := s.pumpGroup core c
    if g.2 then g else s.pumpSource core c

/-- A copy issues its next request. -/
def State.pumpAsk (s : State) (core : CoreId) (t : Tenant) (c : Copy) : Moved :=
  if !(s.core core).mayRequest c || s.missAhead core c.op.isS c.id then (s, false)
  else
    let r := if c.faults.isEmpty then s.bindBarrier core t c else (s, true)
    if !r.2 then (r.1, false)
    else
      match (r.1.core core).copy c.id with
      | none => (r.1, false)
      | some c =>
        match (r.1.core core).nextSector c with
        | none => (r.1, false)
        | some (i, again) =>
          if !c.rowKnown i then (r.1, false)
          else if c.op.isS then r.1.requestS core t c i again
          else r.1.requestL core t c i again

/-- A copy moves on by one read of its own or one request. -/
def State.pumpOne (s : State) (core : CoreId) (id : Nat) : Moved :=
  match (s.core core).copy id, (s.core core).task with
  | some c, some t =>
    let r := s.pumpRead core c
    if r.2 then r else s.pumpAsk core t.tenant c
  | _, _ => (s, false)

/-- A copy moves on as far as it can. -/
def State.pump (s : State) (core : CoreId) (id : Nat) : Nat → State
  | 0 => s
  | fuel + 1 =>
    let r := s.pumpOne core id
    if r.2 then r.1.pump core id fuel else r.1

/-- Source reads, or index reads, of the word at pc hold its sequencer no longer: the word is abandoned, has met a fault or has parked, or
it has no read to make now, be it that they are finished or that the next index group is not near enough to its watermark (01_journey
R24, 02_words R38; log 71). -/
def Core.readsDone (k : Core) (id : Nat) : Bool :=
  match k.copy id with
  | none => true
  | some c => !c.live || (!c.hold && (!c.reads || (c.groupAccess.isEmpty && (k.sourceAccess c).isEmpty)))

/-- The own read of a word of L or S traps, at the word's offset: it reads no more until `tret` (R25, R38). -/
def State.trapRead (s : State) (core : CoreId) (id : Nat) (cause : BitVec 8) (w : BitVec 4) (x : Nat) : State :=
  let k := s.core core
  match k.copy id with
  | none => s
  | some c =>
    if k.trap.halt.isSome || k.trap.hmode || k.trap.stop then s
    else
      (s.setCore core (k.setCopy { c with hold := true, idxStall := none, srcStall := none })).takeTrap core
        { cause := cause, detail := BitVec.ofNat 16 w.toNat, seq := c.agent, epc := c.pc.setWidth 32, val := windowVa (32 * x) }

/-- The reads of a live word of L or S: the sequencer passes when they are finished, else it waits on their gate; a read that meets an
abandoned sector traps. The reads of a word that its sequencer has passed hold no sequencer. -/
def State.settleReads (s : State) (core : CoreId) (isS : Bool) (id : Nat) : State :=
  let k := s.core core
  let q := k.ls isS
  let a : Agent := if isS then .s else .l
  if q.reading == some id && k.readsDone id then
    s.setCore core ((k.setLs isS { q with reading := none, popped := false, pc := q.pc + 4 }).setWait a none)
  else
    match (k.copy id).map (fun c => k.readGate c) with
    | some (.held l) => if q.reading == some id then s.setCore core (k.setWait a (some (.gate l (!isS)))) else s
    | some (.dead w x) => s.trapRead core id causeAbandoned w x
    | _ => if q.reading == some id then s.setCore core (k.setWait a (some .other)) else s

/-- Sectors of a line of this module's memory to which a write of the core's own X or S is still to be performed: a reply that is
now asked for may bring older bytes, and is not installed (R140, 13_ordering R283, R291). -/
def Core.writesOut (k : Core) (line : Nat) : BitVec 4 :=
  let stores := k.seqs.x.toList.flatMap XCtx.stores
  if (k.land.copies ++ k.land.orphans).any (fun c => c.op.isS && c.op != .put
        && c.out.any (fun o => o.parts.any (fun p => p.pm == 0 && lineOf p.pa == line)))
      || k.atoms.any (fun a => a.sent && a.pm == 0 && a.pa.any (fun p => lineOf p == line)) then 15
  else stores.foldl (fun m t => if t.pm == 0 && lineOf t.pa == line then m ||| (1#4 <<< sectorIn t.pa) else m) 0

/-- Sectors of a line of this module's memory that loads of the core's X have asked for and not yet received: the slice may answer them
after what is now asked for, which is then not installed (13_ordering R283). -/
def Core.readsOut (k : Core) (line : Nat) : BitVec 4 :=
  (k.seqs.x.toList.flatMap XCtx.loads).foldl (fun m l => if l.pm == 0 && lineOf l.pa == line then m ||| (1#4 <<< sectorIn l.pa) else m) 0

/-- Sectors of a line that line fills in progress will still install. -/
def Core.fillsWant (k : Core) (line : Nat) : BitVec 4 :=
  (k.l1fills.filter (fun f => f.line == line)).foldl (fun m f => m ||| f.want) 0

/-- A line fill, or the read of an acquire load, begins as number `nextFill`: its replies install the sectors that it wants and that
nothing else is under way to (R139, 13_ordering R283); nothing is installed without an L1. -/
def Core.startFill (k : Core) (line : Nat) (want : BitVec 4) (h : Hint) (multi : Bool) (va : Nat) : Core :=
  if k.pool.l1b ≤ k.pool.spb then k
  else
    let want := want &&& ~~~(k.writesOut line ||| k.readsOut line ||| k.fillsWant line)
    { k with
      l1fills := if want == 0 then k.l1fills
        else k.l1fills ++ [{ id := k.nextFill, line := line, want := want, hint := h, multi := multi, va := va }]
      nextFill := k.nextFill + 1 }

/-- A `prefetch` moves on by one sector of its handle: a line not touched just before is read into its slice and filled
into the L1 (R117). A fault skips the line. -/
def State.pumpFetch (s : State) (core : CoreId) (f : Prefetch) : State × Bool :=
  let k := s.core core
  let upd (s : State) (f : Prefetch) : State := s.modCore core (fun k =>
    { k with land := { k.land with fetches := k.land.fetches.map (fun g => if g.id == f.id then f else g) } })
  let va (i : Nat) : Nat :=
    let h := f.h
    let row := i / hdDim0 h
    hdBase h + 32 * (i % hdDim0 h + row % hdDim1 h * hdStride1 h + row / hdDim1 h % hdDim2 h * hdStride2 h
      + row / (hdDim1 h * hdDim2 h) * hdStride3 h)
  match k.task with
  | none => (s, false)
  | some t =>
    if f.n ≤ f.next then (s, false)
    else if decide (0 < f.next) && va f.next / 128 == va (f.next - 1) / 128 || va f.next % 32 != 0 then
      (upd s { f with next := f.next + 1 }, true)
    else
      let r := s.xlate core .l (.copy core f.id f.next (va f.next)) (va f.next) false
      match r.2 with
      | .wait => (r.1, false)
      | .fault _ => (upd r.1 { f with next := f.next + 1 }, true)
      | .ok pa pm host =>
        if host || pm != 0 then (upd r.1 { f with next := f.next + 1 }, true)
        else
          let line := lineOf pa
          let id := (r.1.core core).nextFill
          let s := r.1.modCore core (fun k => k.startFill line 15 f.hint true (va f.next))
          let s := (List.range 4).foldl (fun s i =>
            s.sendSlice core (line * 128) (.read (line * 128 + 32 * i) 32 0 t.tenant f.hint false (.fill core id (va f.next) 1))) s
          (upd s { f with next := f.next + 1 }, true)

/-- A `prefetch` moves on as far as it can, and leaves the list when its last request has gone; a miss of an earlier request of L that
waits for a walk holds it back (03_memory R63). -/
def State.pumpFetches (s : State) (core : CoreId) (id : Nat) : Nat → State
  | 0 => s
  | fuel + 1 =>
    match (s.core core).land.fetches.find? (fun f => f.id == id) with
    | none => s
    | some f =>
      let r := if s.missAhead core false id then (s, false) else s.pumpFetch core f
      if r.2 then r.1.pumpFetches core id fuel
      else if f.n ≤ f.next then
        r.1.modCore core (fun k => { k with land := { k.land with fetches := k.land.fetches.filter (fun g => g.id != id) } })
      else r.1

/-- Every copy and every `prefetch` of a core moves on, in issue order (R107, R123); then the reads of L's words, and those of S's, pass
their sequencers, hold them or trap, L before S (17_traps R370). -/
def State.pumpAll (s : State) (core : CoreId) : State :=
  let s := (s.core core).land.copies.foldl (fun s c => s.pump core c.id 400) s
  let s := [false, true].foldl (fun s isS =>
    ((s.core core).land.copies.filter (fun c => c.op.isS == isS)).foldl (fun s c => s.settleReads core isS c.id) s) s
  (s.core core).land.fetches.foldl (fun s f => s.pumpFetches core f.id 400) s

/-! ### Answers to requests -/

/-- Data of a part of a sector has come (R107). Data of a part that has been answered already, or of a sector that is committed or
held, is discarded (R95). -/
def Core.landPart (k : Core) (id idx part : Nat) (data : List Byte) : Core :=
  match k.anyCopy id with
  | none => k
  | some c =>
    match c.out.find? (fun o => o.idx == idx) with
    | none => k
    | some o =>
      k.putParts c idx (partAt o.parts part (fun p =>
        if p.data.isSome || p.failed then p else { p with data := some data, lost := false }))

/-- A part of a sector is answered with a parking code (R68): of a live copy the fault is noted. -/
def Core.failPart (k : Core) (id idx part code : Nat) : Core :=
  match k.anyCopy id with
  | none => k
  | some c =>
    match c.out.find? (fun o => o.idx == idx) with
    | none => k
    | some o =>
      let q := o.parts[part]?
      let k := k.putParts c idx (partAt o.parts part (fun p => { p with failed := true, lost := false }))
      if !c.live then k
      else k.sectorFault id { idx := idx, va := (q.map Part.va).getD 0, code := code, badPte := false
                              host := decide (2 ^ 39 ≤ (q.map Part.pa).getD 0), wr := c.op.isS }

/-- The reply of a part of a sector is lost (04_fabric R95): it is asked for again if it is still out and its copy is live. -/
def Core.losePart (k : Core) (id idx part : Nat) : Core :=
  match k.anyCopy id with
  | none => k
  | some c =>
    match c.out.find? (fun o => o.idx == idx) with
    | none => k
    | some o =>
      k.putParts c idx (partAt o.parts part (fun p =>
        if p.data.isSome || p.failed then p else if c.live then { p with lost := true } else { p with failed := true }))

/-- A sector write of an S word is performed. -/
def Core.performed (k : Core) (id idx : Nat) : Core :=
  match k.anyCopy id with
  | none => k
  | some c =>
    if c.out.any (fun o => o.idx == idx) then
      k.setCopy { c with out := c.out.filter (fun o => o.idx != idx), perf := if c.live then idx :: c.perf else c.perf
                         got := c.got.filter (fun p => p.1 != idx)
                         refused := c.refused.filter (fun r => r.idx != idx) }
    else k

/-! ### Park, replay, kill (R126 to R128) -/

/-- Sectors of a copy that exist and are neither committed nor held, nor performed, from LANDED on, 64 at most. -/
def Copy.miss (c : Copy) : Nat :=
  natOfBits ((List.range 64).map (fun i =>
    let x := c.done + i
    decide (x < c.n) && (c.held.lookup x).isNone && !c.perf.contains x))

/-- The copy can park now: it has met a fault, nothing it asked for is unanswered, and COUNT has come to the lowest
faulting sector. -/
def Core.canPark (k : Core) (c : Copy) : Bool :=
  match c.firstFault with
  | none => false
  | some f => c.st == .active && c.out.isEmpty && k.isHead c && c.done == f.idx && c.repDue.isNone

/-- Held sectors of a parked copy are dropped from the highest index until 32 entries are free (R124). -/
def Core.trim (k : Core) (id : Nat) : Nat → Core
  | 0 => k
  | fuel + 1 =>
    match k.copy id with
    | none => k
    | some c =>
      if decide (k.keptFree ≤ k.lagoonFree) || c.held.isEmpty then k
      else
        let top := c.held.foldl (fun m p => max m p.1) 0
        (k.setCopy { c with held := c.held.filter (fun p => p.1 != top) }).trim id fuel

/-- Parked copies keep held sectors only while 32 entries stay free (R124): the youngest gives up first (log 75). -/
def Core.trimParked (k : Core) : Core :=
  if decide (k.keptFree ≤ k.lagoonFree) then k
  else (k.land.copies.filter (fun c => c.st == .parked && !c.op.isS)).reverse.foldl (fun k c => k.trim c.id 128) k

/-- A copy parks (R126). -/
def State.parkCopy (s : State) (core : CoreId) (id : Nat) : State :=
  let k := s.core core
  match k.copy id, k.task with
  | some c, some t =>
    match c.firstFault with
    | none => s
    | some f =>
      if !k.canPark c then s
      else if c.needsFlush && c.bar && decide (c.reported < c.done) then (if c.flush == 0 then s.flushCopy core c else s)
      else
        let c := { c with
          st := .parked
          held := c.held.filter (fun p => decide (p.1 < c.done + 64))
          perf := c.perf.filter (fun i => decide (i < c.done + 64))
          faults := []
          redo := []
          refused := [] }
        let s := s.setCore core (((k.setCopy c).trim id 128).refresh c.w)
        let c := ((s.core core).copy id).getD c
        let r := s.reportBar core c
        -- a parked copy keeps no translation (03_memory R64)
        let s := r.1.modCore core (fun k => k.setCopy { r.2 with barPa := none })
        s.postRecord t.tenant
          { miss := c.miss, landed := c.done, va := f.va, copyId := c.copyId, atom := false, badPte := f.badPte,
             host := f.host, wr := f.wr, seq := if c.op.isS then 3 else 1, core := core.val, tenant := t.tenant,
             code := f.code } (.copy core id)
  | _, _ => s

/-- Replay of a parked copy (R127): every sector requested before and neither committed nor held, nor performed, is
requested afresh. The barrier address is translated afresh too, since a parked copy keeps no translation. -/
def Core.replayCopy (k : Core) (id : Nat) : Core :=
  match k.copy id with
  | none => k
  | some c =>
    if c.st != .parked then k
    else
      let redo := ((List.range (c.next - c.done)).map (fun i => c.done + i)).filter
        (fun x => (c.held.lookup x).isNone && !c.perf.contains x)
      (k.setCopy { c with st := .active, redo := redo, idxStall := none, srcStall := none }).refresh c.w

/-- A word of L or S whose copy is abandoned makes no pushes (R128). -/
def LSeq.dropPushes (q : LSeq) (ids : List Nat) : LSeq :=
  { q with pend := q.pend.map (fun p =>
      match p.fin with
      | .issued id => if ids.contains id then { p with fin := .now, pushes := [], sem := none } else p
      | .performed id => if ids.contains id then { p with fin := .now, pushes := [], sem := none } else p
      | .now => p
      | .atom _ => p) }

/-- What is still to be answered of an abandoned copy: the requests that are on their way. -/
def Copy.onWay (c : Copy) : List OutSec :=
  (c.out.map (fun o => { o with parts := o.parts.map (fun p => { p with failed := p.failed || p.lost, lost := false }) })).filter
    (fun o => !answered o.parts)

/-- A kill (R128): the copy and every later copy of its register are abandoned; what they have asked for is still answered. -/
def Core.killCopy (k : Core) (id : Nat) : Core :=
  match k.copy id with
  | none => k
  | some c =>
    let ids := (k.land.copies.filter (fun d => d.w == c.w && decide (c.id ≤ d.id))).map Copy.id
    let k := k.mapCopies (fun d =>
      if ids.contains d.id then
        { d with st := .abandoned, held := [], got := [], out := d.onWay, redo := [], faults := [], refused := [], repDue := none
                 done := if d.id == id then d.done else 0 }
      else d)
    let k := { k with seqs := { k.seqs with l := k.seqs.l.dropPushes ids, s := k.seqs.s.dropPushes ids } }
    k.refresh c.w

/-! ### Landing windows (R119 to R122) -/

/-- The lagoon can grant a share now. -/
def Core.canShare (k : Core) (share : Nat) : Bool := decide (share + k.heldBack ≤ k.lagoonFree)

/-- A window opens on a register (R119); bindings pinned under it are invalidated (07_registers R174). -/
def Core.openWindow (k : Core) (w : BitVec 4) (off : Nat) (aux : W64) (hint : Hint) : Core :=
  let n := fld aux 31 0 / 32
  let k := k.invalidateRange off (off + 32 * n)
  let v : LWindow :=
    { id := k.land.nextId, w := w, off := off, n := n, share := fld aux 39 32 + 1, aux := aux, hint := hint, held := [] }
  let k := { k with land := { k.land with windows := k.land.windows ++ [v], nextId := k.land.nextId + 1 } }
  k.modWm w (fun m => { m with
    fbase := BitVec.ofNat 16 (off / 32), rlen := BitVec.ofNat 16 n, nrow := 1, lp := 0, ic := 0, out := false, st := 4
    total := BitVec.ofNat 16 n, count := 0 })

/-- A window closes (R120): held sectors are discarded and STATE is 0, also where the register still holds a copy that a kill
abandoned before the `open`; COUNT and TOTAL stay. -/
def Core.closeWindow (k : Core) (w : BitVec 4) : Core :=
  if (k.window w).isSome then
    ({ k with land := { k.land with windows := k.land.windows.filter (fun v => v.w != w) } }).modWm w (fun m => { m with st := 0 })
  else k

/-- What becomes of a put sector (R122). -/
inductive PutRes where
  | taken (k : Core)
  | refused (covered : Bool)

/-- A put sector at a scratchpad offset (R122). -/
def Core.putSector (k : Core) (off : Nat) (data : List Byte) : PutRes :=
  match k.land.windows.find? (fun v => decide (v.off ≤ off) && decide (off + 32 ≤ v.off + 32 * v.n)) with
  | none => .refused false
  | some v =>
    let i := (off - v.off) / 32
    let count := (k.wm v.w).count.toNat
    if decide (i < count) || (v.held.lookup i).isSome then .taken (k.modWm v.w (fun m => { m with dup := true }))
    else if i == count && !k.commitBlocked v.id (off / 32) then
      .taken ((((k.scratchWrite off data).note .landed 1).modWm v.w (fun m => { m with count := m.count + 1 })).advanceWindow v.w 257)
    else if v.held.length < v.share then
      .taken (k.modWindow v.w (fun u => { u with held := (i, data) :: u.held }))
    else .refused true

end Sys2Proof.Machine
end

