-- ==== Sys2Proof/Machine/L1.lean ====
section
/-! DEFINITION. The L1 of a core (06_pool R138 to R141). Of the lines of one set, the least recently used stands first in
the list. -/

namespace Sys2Proof.Machine

open Sys2Proof

/-- Number of sets: L1B − SPB; 0 when the core has no L1 (R138). -/
def Core.l1Sets (k : Core) : Nat := k.pool.l1b - k.pool.spb

/-- Set of a line. -/
def Core.l1Set (k : Core) (line : Nat) : Nat := line % k.l1Sets

/-- The line of an address, when its sector is valid. -/
def Core.l1Hit (k : Core) (t : Tenant) (pa : Nat) : Option L1Line :=
  k.l1.find? (fun l => l.line == lineOf pa && l.tenant == t && l.valid.getLsbD (sectorIn pa))

/-- A line put in its place for a hint (04_fabric R75): stream at the least recently used position, bypass where it was,
the others at the most recently used position. -/
def placeLine (ls : List L1Line) (l : L1Line) (h : Hint) : List L1Line :=
  match h with
  | .stream => l :: ls.filter (fun m => m.line != l.line)
  | .bypass => if ls.any (fun m => m.line == l.line) then ls.map (fun m => if m.line == l.line then l else m) else ls ++ [l]
  | .dflt => ls.filter (fun m => m.line != l.line) ++ [l]
  | .sticky => ls.filter (fun m => m.line != l.line) ++ [l]

/-- The hint recorded after an access: bypass keeps the line's own (R75). -/
def nextHint (old : Hint) (h : Hint) : Hint :=
  match h with
  | .bypass => old
  | .dflt => .dflt
  | .stream => .stream
  | .sticky => .sticky

/-- At most four sticky lines of a set: beyond that the least recently used one takes the default hint (R139). -/
def Core.l1Limit (k : Core) (set : Nat) : Core :=
  let sticky := k.l1.filter (fun l => k.l1Set l.line == set && l.hint == .sticky)
  if 4 < sticky.length then
    match sticky.head? with
    | some v => { k with l1 := k.l1.map (fun l => if l.line == v.line then { l with hint := .dflt } else l) }
    | none => k
  else k

/-- A hit changes hint and recency (R75, R139). -/
def Core.l1Touch (k : Core) (line : Nat) (h : Hint) : Core :=
  match k.l1.find? (fun l => l.line == line) with
  | some l => ({ k with l1 := placeLine k.l1 { l with hint := nextHint l.hint h } h }).l1Limit (k.l1Set line)
  | none => k

/-- Bytes of a line with some replaced from an offset. -/
def spliceBytes (bs : List Byte) (off : Nat) (v : List Byte) : List Byte := bs.take off ++ v ++ bs.drop (off + v.length)

/-- The eight ways of the set are full: the least recently used non-sticky line leaves (R75). -/
def Core.l1Evict (k : Core) (line : Nat) : Core :=
  let set := k.l1Set line
  if decide (8 ≤ (k.l1.filter (fun l => k.l1Set l.line == set)).length) then
    match k.l1.find? (fun l => k.l1Set l.line == set && l.hint != .sticky) with
    | some v => { k with l1 := k.l1.filter (fun l => l.line != v.line) }
    | none => k
  else k

/-- A 32-byte sector is put into the L1, allocating its line when it is absent. -/
def Core.l1Install (k : Core) (t : Tenant) (pa : Nat) (data : List Byte) (h : Hint) : Core :=
  if k.l1Sets == 0 then k
  else
    let line := lineOf pa
    let i := sectorIn pa
    let bit : BitVec 4 := 1#4 <<< i
    match k.l1.find? (fun l => l.line == line && l.tenant == t) with
    | some l =>
      { k with l1 := k.l1.map (fun m =>
          if m.line == line then
            { l with valid := l.valid ||| bit, pairs := l.pairs &&& ~~~(1#2 <<< (i / 2)), bytes := spliceBytes l.bytes (32 * i) data }
          else m) }
    | none =>
      let k := { k with l1 := k.l1.filter (fun l => l.line != line) }
      let k := k.l1Evict line
      let l : L1Line := { line := line, tenant := t, valid := bit, pairs := 0, hint := if h == .bypass then .dflt else h
                          bytes := spliceBytes (zeros 128) (32 * i) data }
      ({ k with l1 := placeLine k.l1 l h }).l1Limit (k.l1Set line)

/-- The half of a line at an address came with one 64-byte read (14_scalar R306). -/
def Core.l1Pair (k : Core) (pa : Nat) : Core :=
  { k with l1 := k.l1.map (fun l => if l.line == lineOf pa then { l with pairs := l.pairs ||| (1#2 <<< (pa % 128 / 64)) } else l) }

/-- A line fill no longer wants the sector of an address. -/
def Core.l1Unwant (k : Core) (id pa : Nat) : Core :=
  { k with l1fills := (k.l1fills.map (fun (g : L1Fill) =>
      if g.id == id then { g with want := g.want &&& ~~~(1#4 <<< sectorIn pa) } else g)).filter (fun g => g.want != 0) }

/-- A sector of line fill `id` has come back: it is installed if it is still wanted (R139). -/
def Core.l1Fill (k : Core) (id : Nat) (t : Tenant) (pa : Nat) (data : List Byte) : Core :=
  match k.l1fills.find? (fun f => f.id == id && f.line == lineOf pa) with
  | none => k
  | some f => if f.want.getLsbD (sectorIn pa) then (k.l1Unwant id pa).l1Install t pa data f.hint else k

/-- Line fill `id` still wants the sector of an address. -/
def Core.l1Wants (k : Core) (id pa : Nat) : Bool :=
  k.l1fills.any (fun f => f.id == id && f.line == lineOf pa && f.want.getLsbD (sectorIn pa))

/-- The reply of an acquire load refreshes its present line, or allocates one unless its hint is bypass (R139): the sector that it has
read (log 97). -/
def Core.l1Refresh (k : Core) (t : Tenant) (pa : Nat) (data : List Byte) (h : Hint) : Core :=
  if h == .bypass && !k.l1.any (fun l => l.line == lineOf pa && l.tenant == t) then k
  else
    let here := k.l1.any (fun l => l.line == lineOf pa && l.tenant == t)
    let k := k.l1Install t pa data h
    if here then k.l1Touch (lineOf pa) h else k

/-- Every line without the sticky hint is invalidated (R141), and fills that would bring one no longer do. -/
def Core.l1Invalidate (k : Core) : Core :=
  { k with l1 := k.l1.filter (fun l => l.hint == .sticky), l1fills := k.l1fills.filter (fun f => f.hint == .sticky) }

/-- Every line is invalidated (R141). -/
def Core.l1Clear (k : Core) : Core := { k with l1 := [], l1fills := [] }

/-- The invalidation of an acquire at a scope (R141). -/
def Core.l1Acquire (k : Core) (sc : Scope) : Core :=
  match sc with
  | .core => k
  | .island => k.l1Invalidate
  | .device => k.l1Invalidate
  | .system => k.l1Invalidate

/-- A store of the core's own X updates a present sector in place (R140); a fill of that sector no longer comes. -/
def Core.l1Store (k : Core) (pa : Nat) (data : List Byte) : Core :=
  let i := sectorIn pa
  { k with
    l1 := k.l1.map (fun l =>
      if l.line == lineOf pa && l.valid.getLsbD i then
        { l with pairs := l.pairs &&& ~~~(1#2 <<< (i / 2)), bytes := spliceBytes l.bytes (pa % 128) data }
      else l)
    l1fills := k.l1fills.map (fun f =>
      if f.line == lineOf pa then { f with want := f.want &&& ~~~(1#4 <<< i) } else f) }

end Sys2Proof.Machine
end

