-- ==== Sys2Proof/Machine/Operands.lean ====
section
/-! DEFINITION. The operand forms: registers of the context, sequencer and core in focus, effective addresses (14_scalar
R301, R303, R308; 05_copies R97), and how a word of X, L or S retires, waits or traps. -/

namespace Sys2Proof.Machine

open Sys2Proof

/-! ### The word in focus -/

/-- The core in focus. -/
def State.here (s : State) : Core := s.core s.focus.1

/-- The context in focus; X0 when the agent in focus is no context. -/
def State.fctx (s : State) : CtxId :=
  match s.focus.2 with
  | .x k => k
  | .l => 0
  | .c => 0
  | .s => 0

/-- The context's state. -/
def State.fx (s : State) : XCtx := s.here.ctx s.fctx

/-- The sequencer in focus is S. -/
def State.fIsS (s : State) : Bool := s.focus.2 == .s

/-- The agent of an L or S word in focus. -/
def State.fls (s : State) : Agent := if s.fIsS then .s else .l

/-- The state of L or S. -/
def State.fq (s : State) : LSeq := s.here.ls s.fIsS

/-- The state with the core in focus changed. -/
def State.modHere (s : State) (f : Core → Core) : State := s.modCore s.focus.1 f

/-- The tenant of the task in focus. -/
def State.ftenant (s : State) : Tenant := (s.here.tenant).getD 0

/-! ### Immediates -/

/-- Sign extension of an n-bit immediate to 64 bits. -/
def sext64 {n : Nat} (v : BitVec n) : W64 := v.signExtend 64

/-- Zero extension to 64 bits. -/
def zext64 {n : Nat} (v : BitVec n) : W64 := v.setWidth 64

/-- 1 or 0. -/
def flag64 (b : Bool) : W64 := if b then 1 else 0

/-- Effective address of a memory word (R308): s_a + sext(off11) × size. -/
def xmEa (o : XMem) (x : XCtx) (size : Nat) : W64 := x.get o.a + sext64 o.off * BitVec.ofNat 64 size

/-! ### X: retire, wait, trap -/

/-- The context retires its word: `f` changes it and the next word is at pc + 4. -/
def Core.xRetire (k : Core) (i : CtxId) (f : XCtx → XCtx) : Core :=
  (k.setCtx i { f (k.ctx i) with pc := (k.ctx i).pc + 4, op := none, fault := none, wait := none, stall := 0 }).leaveWait (.x i)

/-- The word in focus retires. -/
def State.xRetire (s : State) (f : XCtx → XCtx) : State := s.modHere (fun k => k.xRetire s.fctx f)

/-- The context goes to an offset of its section. -/
def State.xJump (s : State) (target : W64) (f : XCtx → XCtx) : State :=
  s.modHere (fun k =>
    (k.setCtx s.fctx { f (k.ctx s.fctx) with pc := target, op := none, fault := none, wait := none, stall := 0 }).leaveWait
      (.x s.fctx))

/-- The word in focus waits at issue. -/
def State.xWait (s : State) (w : Wait) : State := s.modHere (fun k => k.setWait (.x s.fctx) (some w))

/-- The word in focus traps. -/
def State.xTrap (s : State) (cause : BitVec 8) (detail : Nat) (val : W64) : State :=
  s.raise s.focus.1 (.x s.fctx) cause detail val

/-- A load that writes the register is in flight (R302): a word that names it is not ready. -/
def XCtx.busy (x : XCtx) (r : BitVec 5) : Bool := r != 0 && x.loads.any (fun l => l.d == r)

/-- Every register of a list is ready. -/
def XCtx.ready (x : XCtx) (rs : List (BitVec 5)) : Bool := rs.all (fun r => !x.busy r)

/-- A word that computes a register from registers (R303, R304): it waits for its operands, then writes and retires. -/
def State.xAlu (s : State) (d : BitVec 5) (uses : List (BitVec 5)) (v : XCtx → W64) : State :=
  if s.fx.ready (d :: uses) then s.xRetire (fun x => x.set d (v x)) else s.xWait .other

/-- A conditional branch (R307): target pc + 4 × sext(off16). -/
def State.xBranch (s : State) (a b : BitVec 5) (off : BitVec 16) (p : W64 → W64 → Bool) : State :=
  if s.fx.ready [a, b] then
    if p (s.fx.get a) (s.fx.get b) then s.xJump (s.fx.pc + 4 * sext64 off) (fun x => x) else s.xRetire (fun x => x)
  else s.xWait .other

/-! ### L and S: retire, wait, trap (02_words R37, R38) -/

/-- Reached its finishing point. The last request of a copy that has parked has been issued: it issues no further ones until a replay
(05_copies R126, 22_program_faulting_copy R417, R418; log 96). -/
def Core.finished (k : Core) (f : Finish) : Bool :=
  match f with
  | .now => true
  | .issued id =>
    !(k.land.fetches.any (fun p => p.id == id))
      && (match k.copy id with
        | none => true
        | some c => decide (c.n ≤ c.next) || c.st == .parked)
  | .performed id =>
    match k.copy id with
    | none => true
    | some c => decide (c.n ≤ c.done) && !c.needsFlush
  | .atom id => !(k.atoms.any (fun a => a.id == id))

/-- Words at the head of the list that have reached their finishing point make their pushes and increments, in program
order, as far as the queues have room (R37, R256, R286). -/
def Core.flushPend (k : Core) (isS : Bool) : Nat → Core
  | 0 => k
  | fuel + 1 =>
    match (k.ls isS).pend with
    | [] => k
    | p :: rest =>
      if k.finished p.fin && k.room p.pushes then
        let k := (k.setLs isS { k.ls isS with pend := rest }).pushAll p.pushes
        let k := match p.sem with
          | some (i, n) => k.semAdd i n
          | none => k
        k.flushPend isS fuel
      else k

/-- Queues that have no room for all the tokens that a word pushes to them together. -/
def Core.crowded (k : Core) (ps : List (QName × Option W32)) : List QName :=
  ((ps.map Prod.fst).eraseDups).filter (fun q => decide (16 < (k.queue q).length + ps.countP (fun r => r.1 == q)))

/-- The queues at which a word of L or S that has reached its finishing point holds its pushes. -/
def Core.holdsPush (k : Core) (isS : Bool) : List QName :=
  match (k.ls isS).pend with
  | [] => []
  | p :: _ => if k.finished p.fin then k.crowded p.pushes else []

/-- Offset of the word that a queue deadlock of an agent names: for L or S holding pushes, the word that owes them (R38); for C, the
bundle that waits to issue. -/
def Core.heldPc (k : Core) (a : Agent) : W64 :=
  let held (isS : Bool) : W64 :=
    match (k.ls isS).pend with
    | [] => k.pc a
    | p :: _ => if (k.holdsPush isS).isEmpty then k.pc a else p.pc
  match a with
  | .l => held false
  | .s => held true
  | .x _ => k.pc a
  | .c => k.pc a

/-- A word of L or S retires from the front: `f` changes the sequencer, the next word is at `pc`, and the word owes its
pushes and its semaphore increment. -/
def Core.lsRetire (k : Core) (isS : Bool) (pc : W64) (p : Pend) (f : LSeq → LSeq) : Core :=
  let q := f (k.ls isS)
  let a : Agent := if isS then .s else .l
  let k := (k.setLs isS { q with pc := pc, popped := false, pend := q.pend ++ [{ p with pc := (k.ls isS).pc }], fault := none, wait := none, stall := 0 })
  (k.leaveWait a).flushPend isS 64

/-- The sequencer in focus waits. -/
def State.lsWait (s : State) (w : Wait) : State := s.modHere (fun k => k.setWait s.fls (some w))

/-- The word in focus traps. -/
def State.lsTrap (s : State) (cause : BitVec 8) (detail : Nat) (val : W64) : State :=
  s.raise s.focus.1 s.fls cause detail val

/-- Queues among those popped that hold fewer tokens than are popped from them: words of one bundle may name one queue (09_vector
R206). -/
def Core.emptyOf (k : Core) (qs : List QName) : List QName :=
  qs.filter (fun q => decide ((k.queue q).length < qs.countP (fun r => r == q)))

/-- Every pop can be made now. Only X's contexts compete for a queue (R312). -/
def Core.canPop (k : Core) (qs : List QName) : Bool := (k.emptyOf qs).isEmpty

/-- The core after the token pops of a word of L or S, which is marked as popped (R38). -/
def Core.lsPop (k : Core) (isS : Bool) (t : Token) : Core :=
  let a : Agent := if isS then .s else .l
  let k := k.popAll (tokPops a t)
  k.setLs isS { k.ls isS with popped := true }

/-- The token pops of the word in focus are made, unless they were made before; `go` then takes the word on. -/
def State.lsPops (s : State) (t : Token) (go : State → State) : State :=
  let k := s.here
  if s.fq.popped then go s
  else if k.canPop (tokPops s.fls t) then go (s.modHere (fun k => k.lsPop s.fIsS t))
  else s.lsWait (.pop (k.emptyOf (tokPops s.fls t)))

/-- A word that only computes registers of L or S (R98): pops, effect, retirement with its pushes. -/
def State.lsOp (s : State) (t : Token) (f : LSeq → LSeq) : State :=
  s.lsPops t (fun s => s.modHere (fun k => k.lsRetire s.fIsS ((k.ls s.fIsS).pc + 4)
    { fin := .now, pushes := tokPushes s.fls t none, sem := none } f))

/-- A word that chooses the next offset (R99). -/
def State.lsJump (s : State) (t : Token) (target : LSeq → W64) (f : LSeq → LSeq) : State :=
  s.lsPops t (fun s => s.modHere (fun k => k.lsRetire s.fIsS (target (k.ls s.fIsS))
    { fin := .now, pushes := tokPushes s.fls t none, sem := none } f))

end Sys2Proof.Machine
end

