-- ==== Sys2Proof/Machine/XInt.lean ====
section
/-! DEFINITION. The integer words of X (14_scalar R303 to R305). No value traps. -/

namespace Sys2Proof.Machine

open Sys2Proof

/-- Shift amount: s_b[5:0] (R303). -/
def shamt (v : W64) : Nat := v.toNat % 64

/-- Leading zeros of the low `n` bits; `n` for zero. -/
def leadingZeros : Nat → Nat → Nat
  | 0, _ => 0
  | n + 1, v => if v / 2 ^ n % 2 == 1 then 0 else 1 + leadingZeros n v

/-- Trailing zeros of the low `n` bits; `n` for zero. -/
def trailingZeros : Nat → Nat → Nat
  | 0, _ => 0
  | n + 1, v => if v % 2 == 1 then 0 else 1 + trailingZeros n (v / 2)

/-- One bits of the low `n` bits. -/
def oneBits : Nat → Nat → Nat
  | 0, _ => 0
  | n + 1, v => v % 2 + oneBits n (v / 2)

/-- Signed quotient, truncated toward zero; by zero −1; −2^63 by −1 wraps to −2^63 (R304). -/
def divSigned (a b : W64) : W64 := if b == 0 then -1 else BitVec.ofInt 64 (a.toInt.tdiv b.toInt)

/-- Unsigned quotient; by zero 2^64 − 1 (R304). -/
def divUnsigned (a b : W64) : W64 := if b == 0 then -1 else BitVec.ofNat 64 (a.toNat / b.toNat)

/-- Signed remainder with the sign of the dividend; by zero the dividend (R304). -/
def remSigned (a b : W64) : W64 := if b == 0 then a else BitVec.ofInt 64 (a.toInt.tmod b.toInt)

/-- Unsigned remainder; by zero the dividend (R304). -/
def remUnsigned (a b : W64) : W64 := if b == 0 then a else BitVec.ofNat 64 (a.toNat % b.toNat)

/-- The bit network (R305): bit i of the result comes from entry i of the pattern. `n` bits are computed from a source of
64. -/
def bitNet (pat : List Byte) (v : Nat) (n : Nat) : Nat :=
  ((List.range n).map (fun i =>
    let e := ((pat[i]?).getD 0).toNat
    if e / 128 % 2 == 1 then 0 else (v / 2 ^ (e % 64) + e / 64) % 2 * 2 ^ i)).sum

/-- Pattern Pk of the core in focus (09_vector R220). -/
def Core.pat (k : Core) (i : BitVec 3) : List Byte := k.regs.pats[i.toNat]'i.isLt

/-- X_ADD (R303). -/
def execXAdd (d a b : BitVec 5) (s : State) : Out :=
  .next (s.xAlu d [a, b] (fun x => x.get a + x.get b))

/-- X_SUB (R303). -/
def execXSub (d a b : BitVec 5) (s : State) : Out :=
  .next (s.xAlu d [a, b] (fun x => x.get a - x.get b))

/-- X_AND (R303). -/
def execXAnd (d a b : BitVec 5) (s : State) : Out :=
  .next (s.xAlu d [a, b] (fun x => x.get a &&& x.get b))

/-- X_OR (R303). -/
def execXOr (d a b : BitVec 5) (s : State) : Out :=
  .next (s.xAlu d [a, b] (fun x => x.get a ||| x.get b))

/-- X_XOR (R303). -/
def execXXor (d a b : BitVec 5) (s : State) : Out :=
  .next (s.xAlu d [a, b] (fun x => x.get a ^^^ x.get b))

/-- X_ANDN (R303). -/
def execXAndn (d a b : BitVec 5) (s : State) : Out :=
  .next (s.xAlu d [a, b] (fun x => x.get a &&& ~~~(x.get b)))

/-- X_SLL (R303). -/
def execXSll (d a b : BitVec 5) (s : State) : Out :=
  .next (s.xAlu d [a, b] (fun x => x.get a <<< shamt (x.get b)))

/-- X_SRL (R303). -/
def execXSrl (d a b : BitVec 5) (s : State) : Out :=
  .next (s.xAlu d [a, b] (fun x => x.get a >>> shamt (x.get b)))

/-- X_SRA (R303). -/
def execXSra (d a b : BitVec 5) (s : State) : Out :=
  .next (s.xAlu d [a, b] (fun x => (x.get a).sshiftRight (shamt (x.get b))))

/-- X_SLT (R303). -/
def execXSlt (d a b : BitVec 5) (s : State) : Out :=
  .next (s.xAlu d [a, b] (fun x => flag64 ((x.get a).slt (x.get b))))

/-- X_SLTU (R303). -/
def execXSltu (d a b : BitVec 5) (s : State) : Out :=
  .next (s.xAlu d [a, b] (fun x => flag64 ((x.get a).ult (x.get b))))

/-- X_SEQ (R303). -/
def execXSeq (d a b : BitVec 5) (s : State) : Out :=
  .next (s.xAlu d [a, b] (fun x => flag64 (x.get a == x.get b)))

/-- X_SNE (R303). -/
def execXSne (d a b : BitVec 5) (s : State) : Out :=
  .next (s.xAlu d [a, b] (fun x => flag64 (x.get a != x.get b)))

/-- X_MIN (R303). -/
def execXMin (d a b : BitVec 5) (s : State) : Out :=
  .next (s.xAlu d [a, b] (fun x => if (x.get a).slt (x.get b) then x.get a else x.get b))

/-- X_MAX (R303). -/
def execXMax (d a b : BitVec 5) (s : State) : Out :=
  .next (s.xAlu d [a, b] (fun x => if (x.get a).slt (x.get b) then x.get b else x.get a))

/-- X_MINU (R303). -/
def execXMinu (d a b : BitVec 5) (s : State) : Out :=
  .next (s.xAlu d [a, b] (fun x => if (x.get a).ult (x.get b) then x.get a else x.get b))

/-- X_MAXU (R303). -/
def execXMaxu (d a b : BitVec 5) (s : State) : Out :=
  .next (s.xAlu d [a, b] (fun x => if (x.get a).ult (x.get b) then x.get b else x.get a))

/-- X_SEL (R303). -/
def execXSel (d a b c : BitVec 5) (s : State) : Out :=
  .next (s.xAlu d [a, b, c] (fun x => if x.get a != 0 then x.get b else x.get c))

/-- X_CLZ (R303). -/
def execXClz (d a : BitVec 5) (s : State) : Out :=
  .next (s.xAlu d [a] (fun x => BitVec.ofNat 64 (leadingZeros 64 (x.get a).toNat)))

/-- X_CTZ (R303). -/
def execXCtz (d a : BitVec 5) (s : State) : Out :=
  .next (s.xAlu d [a] (fun x => BitVec.ofNat 64 (trailingZeros 64 (x.get a).toNat)))

/-- X_POPC (R303). -/
def execXPopc (d a : BitVec 5) (s : State) : Out :=
  .next (s.xAlu d [a] (fun x => BitVec.ofNat 64 (oneBits 64 (x.get a).toNat)))

/-- X_MUL (R304). -/
def execXMul (d a b : BitVec 5) (s : State) : Out :=
  .next (s.xAlu d [a, b] (fun x => x.get a * x.get b))

/-- X_MULH (R304). -/
def execXMulh (d a b : BitVec 5) (s : State) : Out :=
  .next (s.xAlu d [a, b] (fun x => BitVec.ofInt 64 (((x.get a).toInt * (x.get b).toInt) / 2 ^ 64)))

/-- X_MULHU (R304). -/
def execXMulhu (d a b : BitVec 5) (s : State) : Out :=
  .next (s.xAlu d [a, b] (fun x => BitVec.ofNat 64 (((x.get a).toNat * (x.get b).toNat) / 2 ^ 64)))

/-- X_DIV (R304). -/
def execXDiv (d a b : BitVec 5) (s : State) : Out :=
  .next (s.xAlu d [a, b] (fun x => divSigned (x.get a) (x.get b)))

/-- X_DIVU (R304). -/
def execXDivu (d a b : BitVec 5) (s : State) : Out :=
  .next (s.xAlu d [a, b] (fun x => divUnsigned (x.get a) (x.get b)))

/-- X_REM (R304). -/
def execXRem (d a b : BitVec 5) (s : State) : Out :=
  .next (s.xAlu d [a, b] (fun x => remSigned (x.get a) (x.get b)))

/-- X_REMU (R304). -/
def execXRemu (d a b : BitVec 5) (s : State) : Out :=
  .next (s.xAlu d [a, b] (fun x => remUnsigned (x.get a) (x.get b)))

/-- X_ADDI (R303). -/
def execXAddi (d a : BitVec 5) (imm : BitVec 16) (s : State) : Out :=
  .next (s.xAlu d [a] (fun x => x.get a + sext64 imm))

/-- X_ANDI (R303). -/
def execXAndi (d a : BitVec 5) (imm : BitVec 16) (s : State) : Out :=
  .next (s.xAlu d [a] (fun x => x.get a &&& zext64 imm))

/-- X_ORI (R303). -/
def execXOri (d a : BitVec 5) (imm : BitVec 16) (s : State) : Out :=
  .next (s.xAlu d [a] (fun x => x.get a ||| zext64 imm))

/-- X_XORI (R303). -/
def execXXori (d a : BitVec 5) (imm : BitVec 16) (s : State) : Out :=
  .next (s.xAlu d [a] (fun x => x.get a ^^^ zext64 imm))

/-- X_SLTI (R303). -/
def execXSlti (d a : BitVec 5) (imm : BitVec 16) (s : State) : Out :=
  .next (s.xAlu d [a] (fun x => flag64 ((x.get a).slt (sext64 imm))))

/-- X_SLTIU (R303). -/
def execXSltiu (d a : BitVec 5) (imm : BitVec 16) (s : State) : Out :=
  .next (s.xAlu d [a] (fun x => flag64 ((x.get a).ult (sext64 imm))))

/-- X_LUI (R303): sext(imm16 × 2^16). -/
def execXLui (d : BitVec 5) (imm : BitVec 16) (s : State) : Out :=
  .next (s.xAlu d [] (fun _ => sext64 (imm ++ 0#16)))

/-- X_SLLI (R303). -/
def execXSlli (d a : BitVec 5) (n : BitVec 6) (s : State) : Out :=
  .next (s.xAlu d [a] (fun x => x.get a <<< n.toNat))

/-- X_SRLI (R303). -/
def execXSrli (d a : BitVec 5) (n : BitVec 6) (s : State) : Out :=
  .next (s.xAlu d [a] (fun x => x.get a >>> n.toNat))

/-- X_SRAI (R303). -/
def execXSrai (d a : BitVec 5) (n : BitVec 6) (s : State) : Out :=
  .next (s.xAlu d [a] (fun x => (x.get a).sshiftRight n.toNat))

/-- BXP (R305): the 64 bits of s_a through pattern Pk. -/
def execBxp (d a : BitVec 5) (k : BitVec 3) (s : State) : Out :=
  .next (s.xAlu d [a] (fun x => BitVec.ofNat 64 (bitNet (s.here.pat k) (x.get a).toNat 64)))

end Sys2Proof.Machine
end

