-- ==== Sys2Proof/Machine/XFlow.lean ====
section
/-! DEFINITION. Branches, jumps and calls of X (14_scalar R307). A target beyond the section is met at the fetch (02_words
R32). -/

namespace Sys2Proof.Machine

open Sys2Proof

/-- X_BEQ (R307). -/
def execXBeq (a b : BitVec 5) (off : BitVec 16) (s : State) : Out := .next (s.xBranch a b off (fun u v => u == v))

/-- X_BNE (R307). -/
def execXBne (a b : BitVec 5) (off : BitVec 16) (s : State) : Out := .next (s.xBranch a b off (fun u v => u != v))

/-- X_BLT (R307). -/
def execXBlt (a b : BitVec 5) (off : BitVec 16) (s : State) : Out := .next (s.xBranch a b off (fun u v => u.slt v))

/-- X_BGE (R307). -/
def execXBge (a b : BitVec 5) (off : BitVec 16) (s : State) : Out := .next (s.xBranch a b off (fun u v => !u.slt v))

/-- X_BLTU (R307). -/
def execXBltu (a b : BitVec 5) (off : BitVec 16) (s : State) : Out := .next (s.xBranch a b off (fun u v => u.ult v))

/-- X_BGEU (R307). -/
def execXBgeu (a b : BitVec 5) (off : BitVec 16) (s : State) : Out := .next (s.xBranch a b off (fun u v => !u.ult v))

/-- X_J (R307): pc + 4 × sext(off26). -/
def execXJ (off : BitVec 26) (s : State) : Out := .next (s.xJump (s.fx.pc + 4 * sext64 off) (fun x => x))

/-- CALL (R307): the return offset goes to s31. -/
def execCall (off : BitVec 26) (s : State) : Out :=
  .next (if s.fx.ready [31] then s.xJump (s.fx.pc + 4 * sext64 off) (fun x => x.set 31 (x.pc + 4)) else s.xWait .other)

/-- JR (R307): to s_a + 4 × sext(imm16); a target that is no multiple of 4 traps. -/
def execJr (a : BitVec 5) (imm : BitVec 16) (s : State) : Out :=
  .next (if s.fx.ready [a] then
      let t := s.fx.get a + 4 * sext64 imm
      if t.toNat % 4 == 0 then s.xJump t (fun x => x) else s.xTrap causeMisaligned 0x01 0
    else s.xWait .other)

/-- CALLR (R307): to s_a; the return offset goes to s_d. -/
def execCallr (d a : BitVec 5) (s : State) : Out :=
  .next (if s.fx.ready [d, a] then
      let t := s.fx.get a
      if t.toNat % 4 == 0 then s.xJump t (fun x => x.set d (x.pc + 4)) else s.xTrap causeMisaligned 0x01 0
    else s.xWait .other)

end Sys2Proof.Machine
end

