-- ==== Sys2Proof/Machine/XMemory.lean ====
section
/-! DEFINITION. Loads, stores and fences of X, and the 64-byte reads of `bxl` and `launch` (14_scalar R306, R308 to R310,
06_pool R136 to R141, 13_ordering R284, R285). An access to a sector with another access of the context in flight waits,
so that accesses to one location keep program order (R283). -/

namespace Sys2Proof.Machine

open Sys2Proof

/-! ### Where an address lies -/

/-- The local window's first address. -/
def windowBase : Nat := 0xFFFFFFE00000

/-- How the address of an X word is served, or the trap that it takes (R309, R310). -/
inductive XPlace where
  | trap (cause : BitVec 8) (detail : Nat) (val : W64)
  | scratch (off : Nat)
  | mem (pa pm : Nat) (host : Bool)
  | wait

/-- The place of `n` bytes at a VA that must be a multiple of `n` (R67, R136, R257, R310). -/
def State.xPlace (s : State) (va : W64) (n : Nat) (write : Bool) : State × XPlace :=
  let a := va.toNat
  if a % n != 0 then (s, .trap causeMisaligned 0x40 va)
  else if inLocalWindow a then
    if s.here.inScratch (a - windowBase) n then (s, .scratch (a - windowBase)) else (s, .trap causeMisaligned 0x02 0)
  else
    match XFault.at_ s.fx.fault a with
    | some f => (s, .trap causeTranslation f.code va)
    | none =>
      let r := s.xlate s.focus.1 (.x s.fctx) (.word s.focus.1 (.x s.fctx)) a write
      match r.2 with
      | .wait => (r.1, .wait)
      | .fault f => (r.1, .trap causeTranslation f.code va)
      | .ok pa pm host =>
        match s.targetCode s.ftenant pa pm host with
        | some code => (r.1, .trap causeTranslation code va)
        | none => (r.1, .mem pa pm host)

/-- An access of the context to the sector is in flight. -/
def XCtx.sectorBusy (x : XCtx) (pa pm : Nat) : Bool :=
  x.loads.any (fun l => sectorOf l.pa == sectorOf pa && l.pm == pm) || x.stores.any (fun t => sectorOf t.pa == sectorOf pa && t.pm == pm)

/-- The bytes at an address of this module's memory are on their way to the L1 (06_pool R139): a load of them waits for the fill, so that
what it reads and what the L1 then holds do not go backwards (13_ordering R283). -/
def Core.l1Coming (k : Core) (pa pm n : Nat) : Bool := pm == 0 && (k.fillsWant (lineOf pa) &&& secMask pa n) != 0

/-- An acquire load is in flight: no later access of the context begins (R284). -/
def XCtx.acquiring (x : XCtx) : Bool := x.loads.any (fun l => l.acq.isSome)

/-- Every earlier load has returned and every earlier store is performed: at core, island and device scope these are one
moment, the slice's (R282). -/
def XCtx.quiet (x : XCtx) : Bool := x.loads.isEmpty && x.stores.isEmpty

/-- A gated access waits, or traps on an abandoned copy (R108, R128, R378). -/
def State.xGated (s : State) (g : Gate) (load : Bool) (go : State) : State :=
  match g with
  | .free => go
  | .held l => s.xWait (.gate l load)
  | .dead w x => s.xTrap causeAbandoned w.toNat (windowVa (32 * x))

/-- The next number of an access of the context in focus. -/
def State.xOpNew (s : State) (op : Nat → XOp) : State :=
  s.modHere (fun k => k.setCtx s.fctx { k.ctx s.fctx with
    op := some (op (k.ctx s.fctx).nextId), nextId := (k.ctx s.fctx).nextId + 1, wait := some .other })

/-! ### Loads -/

/-- The value of a load from its bytes. -/
def loadValue (bs : List Byte) (size : Nat) (signed : Bool) : W64 :=
  let v := leNat (bs.take size)
  if signed then (BitVec.ofNat (8 * size) v).signExtend 64 else BitVec.ofNat 64 v

/-- The other sectors of a line that a load or block read of `n` bytes fills are read from its slice (R139). -/
def State.fillLine (s : State) (id : Nat) (va pa n : Nat) (h : Hint) : State :=
  let line := lineOf pa * 128
  let t := s.ftenant
  (List.range 4).foldl (fun s i =>
    if decide (sectorIn pa ≤ i) && decide (32 * i < pa % 128 + n) then s
    else s.sendSlice s.focus.1 line (.read (line + 32 * i) 32 0 t h true (.fill s.focus.1 id va 0))) s

/-- A load leaves for its slice: its register is written when the value comes back (R302). An acquire invalidates the L1 now, and
again when its value returns. -/
def State.xLoadSend (s : State) (o : XMem) (va : W64) (size : Nat) (signed : Bool) (pa pm : Nat) : State :=
  let t := s.ftenant
  let id := s.fx.nextId
  let local_ := pm == 0 && s.here.l1Sets != 0
  let cached := o.hint != .bypass && local_ && o.ord.isNone
  let whole := cached || (local_ && o.ord.isSome)
  let fill := s.here.nextFill
  let s := s.modHere (fun k =>
    let k := match o.ord with
      | some sc => k.l1Acquire sc
      | none => k
    let k := if cached then (k.startFill (lineOf pa) 15 o.hint false va.toNat).l1Touch (lineOf pa) o.hint
      else if whole then k.startFill (lineOf pa) (1#4 <<< sectorIn pa) o.hint false va.toNat
      else k
    let x := k.ctx s.fctx
    let k := k.setCtx s.fctx { x with
      nextId := id + 1
      loads := x.loads ++ [{ id := id, d := o.d, pa := pa, pm := pm, size := size, signed := signed, acq := o.ord, hint := o.hint
                             fill := if whole then some fill else none, va := va.toNat }] }
    k.xRetire s.fctx (fun x => x))
  let who : Who := .load s.focus.1 s.fctx id
  let s := if cached then s.fillLine fill va.toNat pa size o.hint else s
  if whole then s.sendSlice s.focus.1 pa (.read (sectorOf pa * 32) 32 pm t o.hint true who)
  else s.sendSlice s.focus.1 pa (.read pa size pm t o.hint true who)

/-- A scalar load of `size` bytes (R308 to R310). -/
def State.xLoad (s : State) (o : XMem) (size : Nat) (signed : Bool) : State :=
  let x := s.fx
  if !x.ready [o.d, o.a] || x.acquiring || decide (8 ≤ x.loads.length) then s.xWait .other
  else
    let va := xmEa o x size
    match x.op with
    | some (.host _ none) => s.xWait .other
    | some (.host _ (some (bs, code))) =>
      if code == 0 then
        (s.modHere (fun k =>
          match o.ord with
          | some sc => k.l1Acquire sc
          | none => k)).xRetire (fun x => x.set o.d (loadValue bs size signed))
      else s.xTrap causeTranslation code va
    | _ =>
      let r := s.xPlace va size false
      let s := r.1
      match r.2 with
      | .trap c d v => s.xTrap c d v
      | .wait => s.xWait .other
      | .scratch off =>
        s.xGated (s.here.gate false off size) true
          ((s.modHere (fun k =>
            match o.ord with
            | some sc => k.l1Acquire sc
            | none => k)).xRetire (fun x => x.set o.d (loadValue (s.here.scratchRead off size) size signed)))
      | .mem pa pm host =>
        if host then
          if x.sectorBusy pa pm then s.xWait .other
          else
            let s := s.modHere (fun k =>
              match o.ord with
              | some sc => k.l1Acquire sc
              | none => k)
            let id := s.fx.nextId
            (s.xOpNew (fun id => .host id none)).sendSlice s.focus.1 pa
              (.read pa size pm s.ftenant o.hint true (.load s.focus.1 s.fctx id))
        else
          match (if o.ord.isNone && o.hint != .bypass && pm == 0 then s.here.l1Hit s.ftenant pa else none) with
          | some l =>
            if x.sectorBusy pa pm then s.xWait .other
            else
              (s.modHere (fun k => k.l1Touch (lineOf pa) o.hint)).xRetire
                (fun x => x.set o.d (loadValue (l.bytes.drop (pa % 128)) size signed))
          | none =>
            if x.sectorBusy pa pm || s.here.l1Coming pa pm size then s.xWait .other else s.xLoadSend o va size signed pa pm

/-! ### Stores -/

/-- What a release at a scope still waits for: earlier accesses, and at system scope the flushing read after host stores
(R284, R285, R297). None when it may go on. -/
def State.xReleaseWait (s : State) (sc : Scope) : Option State :=
  let x := s.fx
  if !x.quiet then some (s.xWait .other)
  else if sc != .system then none
  else
    match x.hostStore, x.op with
    | none, _ => none
    | some _, some (.flush _ true) => none
    | some _, some (.flush _ false) => some (s.xWait .other)
    | some pa, _ =>
      some ((s.xOpNew (fun id => .flush id false)).sendSlice s.focus.1 pa
        (.read pa 0 0 s.ftenant .dflt true (.load s.focus.1 s.fctx x.nextId)))

/-- A store goes to its slice; a present L1 sector of this module's memory is updated in place (R140). -/
def State.xStoreSend (s : State) (o : XMem) (va : W64) (data : List Byte) (pa pm : Nat) (host : Bool) : State :=
  let t := s.ftenant
  let id := s.fx.nextId
  let s := s.modHere (fun k =>
    let k := if host || pm != 0 then k else k.l1Store pa data
    let x := k.ctx s.fctx
    let k := k.setCtx s.fctx { x with
      nextId := id + 1
      stores := x.stores ++ [{ id := id, pa := pa, pm := pm, va := va.toNat }]
      hostStore := if host then some pa else x.hostStore }
    k.xRetire s.fctx (fun x => x))
  s.sendSlice s.focus.1 pa (.write pa data pm t o.hint (.store s.focus.1 s.fctx id))

/-- The body of a store, once the release of its ordering, if any, is done. -/
def State.xStoreGo (s : State) (o : XMem) (size : Nat) : State :=
  let x := s.fx
  let va := xmEa o x size
  let data := leBytes size (x.get o.d).toNat
  let r := s.xPlace va size true
  let s := r.1
  match r.2 with
  | .trap c d v => s.xTrap c d v
  | .wait => s.xWait .other
  | .scratch off => s.xGated (s.here.gate true off size) false ((s.modHere (fun k => k.scratchWrite off data)).xRetire (fun x => x))
  | .mem pa pm host => if x.sectorBusy pa pm then s.xWait .other else s.xStoreSend o va data pa pm host

/-- A scalar store of `size` bytes (R308 to R310). -/
def State.xStore (s : State) (o : XMem) (size : Nat) : State :=
  let x := s.fx
  if !x.ready [o.d, o.a] || x.acquiring || decide (16 ≤ x.stores.length) then s.xWait .other
  else
    match o.ord with
    | none => s.xStoreGo o size
    | some sc =>
      match s.xReleaseWait sc with
      | some t => t
      | none =>
        let s := if sc == .system then s.modHere (fun k => k.setCtx s.fctx { k.ctx s.fctx with hostStore := none }) else s
        s.xStoreGo o size

/-- LD_D (R308). -/
def execLdD (o : XMem) (s : State) : Out := .next (s.xLoad o 8 false)

/-- LD_W (R308). -/
def execLdW (o : XMem) (s : State) : Out := .next (s.xLoad o 4 true)

/-- LD_WU (R308). -/
def execLdWu (o : XMem) (s : State) : Out := .next (s.xLoad o 4 false)

/-- LD_H (R308). -/
def execLdH (o : XMem) (s : State) : Out := .next (s.xLoad o 2 true)

/-- LD_HU (R308). -/
def execLdHu (o : XMem) (s : State) : Out := .next (s.xLoad o 2 false)

/-- LD_B (R308). -/
def execLdB (o : XMem) (s : State) : Out := .next (s.xLoad o 1 true)

/-- LD_BU (R308). -/
def execLdBu (o : XMem) (s : State) : Out := .next (s.xLoad o 1 false)

/-- ST_D (R308). -/
def execStD (o : XMem) (s : State) : Out := .next (s.xStore o 8)

/-- ST_W (R308). -/
def execStW (o : XMem) (s : State) : Out := .next (s.xStore o 4)

/-- ST_H (R308). -/
def execStH (o : XMem) (s : State) : Out := .next (s.xStore o 2)

/-- ST_B (R308). -/
def execStB (o : XMem) (s : State) : Out := .next (s.xStore o 1)

/-- FENCE (R285). -/
def execFence (sc : Scope) (s : State) : Out :=
  .next (match s.xReleaseWait sc with
    | some t => t
    | none =>
      let s := s.modHere (fun k => if sc == .system then k.l1Clear else k.l1Acquire sc)
      s.xRetire (fun x => if sc == .system then { x with hostStore := none } else x))

/-! ### 64-byte reads -/

/-- The 64 bytes of an L1 line at an address, when both their sectors are valid and came with one 64-byte read: the block is one
single-copy atomic read (R306). -/
def Core.l1Block (k : Core) (t : Tenant) (pa : Nat) : Option (List Byte) :=
  match k.l1Hit t pa, k.l1Hit t (pa + 32) with
  | some l, some _ => if l.pairs.getLsbD (pa % 128 / 64) then some ((l.bytes.drop (pa % 128)).take 64) else none
  | _, _ => none

/-- The 64 bytes at a VA, for `bxl` and `launch` (R306, R318): `go` takes the word on when they are there. The block of `bxl` is a
relaxed load with the default hint, so the L1 serves it or is filled by it (R139); `launch` reads at the slice. Either is a load of its
context, of which at most 8 are in flight (R302). -/
def State.xBlock (s : State) (va : W64) (cached : Bool) (go : State → List Byte → State) : State :=
  match s.fx.op with
  | some (.block _ _ _ none) => s.xWait .other
  | some (.block _ _ _ (some (bs, code))) => if code == 0 || code == 0x30 then go s bs else s.xTrap causeTranslation code va
  | _ =>
    let x := s.fx
    if 8 ≤ x.loads.length then s.xWait .other
    else
    let r := s.xPlace va 64 false
    let s := r.1
    match r.2 with
    | .trap c d v => s.xTrap c d v
    | .wait => s.xWait .other
    | .scratch off => s.xGated (s.here.gate false off 64) true (go s (s.here.scratchRead off 64))
    | .mem pa pm host =>
      if x.sectorBusy pa pm || x.sectorBusy (pa + 32) pm || s.here.l1Coming pa pm 64 then s.xWait .other
      else
        let cached := cached && pm == 0 && !host && s.here.l1Sets != 0
        match (if cached then s.here.l1Block s.ftenant pa else none) with
        | some bs => go (s.modHere (fun k => k.l1Touch (lineOf pa) .dflt)) bs
        | none =>
          let fill := s.here.nextFill
          let s := if cached then (s.modHere (fun k => (k.startFill (lineOf pa) 15 .dflt false va.toNat).l1Touch (lineOf pa) .dflt)).fillLine fill va.toNat pa 64 .dflt else s
          (s.xOpNew (fun id => .block va.toNat id (if cached then some fill else none) none)).sendSlice s.focus.1 pa
            (.read pa 64 pm s.ftenant .dflt true (.load s.focus.1 s.fctx x.nextId))

/-- BXL (R306): pattern Pk from 64 bytes. -/
def execBxl (a : BitVec 5) (k : BitVec 3) (s : State) : Out :=
  .next (if !s.fx.ready [a] || s.fx.acquiring then s.xWait .other
    else s.xBlock (s.fx.get a) true (fun s bs =>
      (s.modHere (fun c => { c with regs := { c.regs with pats := c.regs.pats.set k.toNat bs k.isLt } })).xRetire (fun x => x)))

end Sys2Proof.Machine
end

