-- ==== Sys2Proof/Machine/XSync.lean ====
section
/-! DEFINITION. Queue, semaphore, barrier and mailbox words of X (14_scalar R311, R312; 12_sync R254 to R256, R269 to
R277). -/

namespace Sys2Proof.Machine

open Sys2Proof

/-! ### Queues -/

/-- A push: earlier accesses are performed at core scope, then the queue has room, then the token is pushed (R286,
R311). -/
def State.xPush (s : State) (p : Peer) (v : Option W32) : State :=
  let q := pushQ (.x s.fctx) p
  if !s.fx.quiet then s.xWait .other
  else if s.here.queueFull q then s.xWait (.push [q])
  else (s.modHere (fun k => k.pushQueue q v)).xRetire (fun x => x)

/-- X_PUSH_VALUE (R311). -/
def execXPushValue (a : BitVec 5) (p : Peer) (s : State) : Out :=
  .next (if s.fx.ready [a] then s.xPush p (some ((s.fx.get a).setWidth 32)) else s.xWait .other)

/-- X_PUSH_BARE (R311). -/
def execXPushBare (p : Peer) (s : State) : Out := .next (s.xPush p none)

/-- A pop: contexts that wait on one queue are served in the order in which they began to wait (R312). -/
def State.xPop (s : State) (p : Peer) (f : Option W32 → XCtx → XCtx) : State :=
  let q := popQ (.x s.fctx) p
  let a : Agent := .x s.fctx
  match s.here.queue q with
  | v :: _ =>
    if s.here.firstWaiter a (WaitFor.onQueue q) then (s.modHere (fun k => k.popQueue q)).xRetire (f v)
    else (s.modHere (fun k => k.joinWait a (.queue q))).xWait (.pop [q])
  | [] => (s.modHere (fun k => k.joinWait a (.queue q))).xWait (.pop [q])

/-- The value a `pop` or `qpop` delivers: zero for a bare token (R100, R311). -/
def tokenValue (v : Option W32) : W64 := (v.getD 0).setWidth 64

/-- X_POP_VALUE (R311). -/
def execXPopValue (d : BitVec 5) (p : Peer) (s : State) : Out :=
  .next (if s.fx.ready [d] then s.xPop p (fun v x => x.set d (tokenValue v)) else s.xWait .other)

/-- X_POP_BARE (R311). -/
def execXPopBare (p : Peer) (s : State) : Out := .next (s.xPop p (fun _ x => x))

/-! ### Semaphores -/

/-- X_SEMA (R254, R255). -/
def execXSema (i : BitVec 6) (n : BitVec 10) (s : State) : Out :=
  .next (
    let a : Agent := .x s.fctx
    if s.here.semServed a i n.toNat then (s.modHere (fun k => k.semTake a i n.toNat)).xRetire (fun x => x)
    else (s.modHere (fun k => k.joinWait a (.sem i n.toNat))).xWait (.sema i))

/-- X_SEMV (R254, R256). -/
def execXSemv (i : BitVec 6) (n : BitVec 10) (s : State) : Out :=
  .next (if s.fx.quiet then (s.modHere (fun k => k.semAdd i n.toNat)).xRetire (fun x => x) else s.xWait .other)

/-! ### Barriers -/

/-- A barrier operation leaves for the slice of its object; the word retires on the answer (R269 to R271, R273). -/
def State.xBarrier (s : State) (va : W64) (entry : Option Nat) (go : State → Nat → State) : State :=
  match s.fx.op with
  | some (.barrier _ _) => s.xWait .other
  | _ =>
    let a := va.toNat
    if a % 64 != 0 then s.xTrap causeMisaligned 0x40 va
    else
      match XFault.at_ s.fx.fault a with
      | some f => s.xTrap causeTranslation f.code va
      | none =>
        let x := s.fx
        let r := s.xlate s.focus.1 (.x s.fctx) (.word s.focus.1 (.x s.fctx)) a true
        let s := r.1
        match r.2 with
        | .wait => s.xWait .other
        | .fault f => s.xTrap causeTranslation f.code va
        | .ok pa pm host =>
          match s.barrierCode s.ftenant pa pm host with
          | some code => s.xTrap causeTranslation code va
          | none =>
            if x.sectorBusy pa 0 || x.sectorBusy (pa + 32) 0 then s.xWait .other
            else go (s.xOpNew (fun _ => .barrier a entry)) pa

/-- The barrier message of the context in focus. -/
def State.xBarrierSend (s : State) (pa : Nat) (op : BarOp) (w : Who) : State :=
  s.sendSlice s.focus.1 pa (.barrier pa s.ftenant op w)

/-- BARR (R269): earlier accesses are performed at device scope first. -/
def execBarr (a : BitVec 5) (s : State) : Out :=
  .next (if !s.fx.ready [a] || !s.fx.quiet then s.xWait .other
    else s.xBarrier (s.fx.get a) none (fun s pa => s.xBarrierSend pa .arrive (.barrier s.focus.1 s.fctx)))

/-- BEXP (R270). -/
def execBexp (a b : BitVec 5) (s : State) : Out :=
  .next (if !s.fx.ready [a, b] || s.fx.acquiring then s.xWait .other
    else s.xBarrier (s.fx.get a) none (fun s pa =>
      s.xBarrierSend pa (.declare ((s.fx.get b).setWidth 32)) (.barrier s.focus.1 s.fctx)))

/-- The barrier word at pc has been sent. -/
def XCtx.inBarrier (x : XCtx) : Bool :=
  match x.op with
  | some (.barrier _ _) => true
  | _ => false

/-- BWAIT (R271, R272): one of eight registration entries is taken and the registration is sent. -/
def execBwait (a b : BitVec 5) (k : BitVec 6) (s : State) : Out :=
  .next (if !s.fx.ready [a, b] || s.fx.acquiring then s.xWait .other
    else if !s.fx.inBarrier && decide (8 ≤ s.here.sync.entries.length) then s.xWait .other
    else s.xBarrier (s.fx.get a) (some s.here.sync.nextEntry) (fun s pa =>
      let phase := (s.fx.get b).setWidth 31
      let id := s.here.sync.nextEntry
      let s := s.modHere (fun c => { c with sync := { c.sync with
        entries := c.sync.entries ++ [{ id := id, pa := pa, phase := phase, sem := k }], nextEntry := id + 1 } })
      s.xBarrierSend pa (.register phase k) (.barrier s.focus.1 s.fctx)))

/-! ### Mailboxes -/

/-- Doublewords of 64 scratchpad bytes. -/
def dwords (bs : List Byte) : List W64 := (List.range 8).map (fun i => BitVec.ofNat 64 (leNat ((bs.drop (8 * i)).take 8)))

/-- The message is put on its way to a core. -/
def State.sendMail (s : State) (core : CoreId) (ctx : CtxId) (dst : CoreId) (m : Mail) : State :=
  s.send (coreRouter core) (coreRouter dst) (s.core core).pri (.mail dst m (.gang (s.core core).gangNo) (.msg core ctx))

/-- MSEND (R275). -/
def execMsend (d a b : BitVec 5) (s : State) : Out :=
  .next (
    let x := s.fx
    if !x.ready [d, a, b] || !x.quiet || x.op.isSome then s.xWait .other
    else
      let m := (x.get d).toNat
      let off := (x.get a).toNat
      let h := x.get b
      let size := (s.here.task.map Task.size).getD 1
      if decide (size ≤ m) || decide (16 ≤ m) then s.xTrap causeMisaligned 0x05 0
      else if off % 64 != 0 || h.toNat % 4 != 0 then s.xTrap causeMisaligned 0x01 0
      else if !s.here.inScratch off 64 then s.xTrap causeMisaligned 0x02 0
      else s.xGated (s.here.gate false off 64) true (
        match s.memberCore s.focus.1 m with
        | none => s.xRetire (fun x => x)
        | some dst =>
          let src := s.focus.1.val * 256 + (s.here.task.map Task.member).getD 0
          let msg : Mail := { dw := dwords (s.here.scratchRead off 64), src := BitVec.ofNat 64 src, hnd := h }
          (s.modHere (fun k => k.setCtx s.fctx { k.ctx s.fctx with op := some (.mail dst msg none), wait := some .other })).sendMail
            s.focus.1 s.fctx dst msg))

/-- HEND (R277): the context is dormant; in X0 the word is illegal. -/
def execHend (s : State) : Out :=
  .next (if s.fctx == 0 then s.xTrap causeIllegal 0 0
    else if !s.fx.loads.isEmpty then s.xWait .other
    else s.xRetire (fun x => { x with run := .dormant }))

end Sys2Proof.Machine
end

