-- ==== Sys2Proof/Machine/Views.lean ====
section
/-! DEFINITION. What status registers read as: island clock and power (16_energy R353 to R355, 14_scalar R316), island
status (04_fabric R94), fault and service queues (03_memory R71, 14_scalar R320), the service ring. -/

namespace Sys2Proof.Machine

open Sys2Proof

/-! ### Ratios and steps (R353) -/

/-- V(ratio) in 0.1 mV. -/
def ratioV (r : Nat) : Nat := if r == 0 then 5600 else if r == 1 then 7000 else 8400

/-- The frequencies of a ratio, step 0 first, in MHz. -/
def ratioTable (r : Nat) : List Nat :=
  if r == 0 then [400, 460, 520, 580, 640, 700, 750, 800]
  else if r == 1 then [800, 850, 900, 975, 1050, 1125, 1200, 1250]
  else [1250, 1300, 1350, 1400, 1450, 1500, 1550, 1600]

/-- F(ratio, step). -/
def ratioF (r s : Nat) : Nat := ((ratioTable r)[s]?).getD 0

/-- The highest ratio whose voltage has been reached (R354). -/
def Clock.ratio (c : Clock) : Nat := if ratioV 2 ≤ c.v then 2 else if ratioV 1 ≤ c.v then 1 else 0

/-- The step of the frequency in that ratio's table: the last one not above it. -/
def Clock.step (c : Clock) : Nat := ((ratioTable c.ratio).filter (fun f => decide (f ≤ c.f))).length - 1

/-- The island is boosted: its target ratio is high (R358). -/
def Clock.boosted (c : Clock) : Bool := c.trat == 2

/-- Bits [26:0] of `iclk` (R316, R354). -/
def Clock.iclk (c : Clock) : W64 :=
  BitVec.ofNat 64 (c.f * 2 ^ 16 + c.ratio * 2 ^ 8 + bitCode c.boosted * 2 ^ 7 + bitCode c.warn * 2 ^ 6 + c.step)

/-- IPWR_i (R355). -/
def Clock.ipwr (c : Clock) : W64 :=
  let low := c.low.getD (0, 0, 0)
  BitVec.ofNat 64 (c.temp % 256 * 2 ^ 56 + c.supr.toNat * 2 ^ 48 + c.stpct % 256 * 2 ^ 40 + low.2.2 % 16 * 2 ^ 36
    + low.1 % 4 * 2 ^ 34 + c.trat % 4 * 2 ^ 32 + c.tstep % 8 * 2 ^ 29 + c.iclk.toNat)

/-- ISTAT_i (R94). -/
def Island.istat (i : Island) : W64 :=
  BitVec.ofNat 64 (i.tcyc.toNat * 2 ^ 32 + i.wseq.toNat * 2 ^ 16 + bitCode i.tact * 2 ^ 15 + i.dratio % 2048)

/-- FQTAIL_n (R71). -/
def TenantSt.fqTailReg (t : TenantSt) : W64 :=
  BitVec.ofNat 64 (bitCode t.hfull * 2 ^ 63 + t.held % 2 ^ 15 * 2 ^ 32 + t.fqtail.toNat)

/-! ### The service ring (R320) -/

/-- Size of the ring in requests, or none when it is disabled. -/
def TenantSt.sqSize (t : TenantSt) : Option Nat :=
  let n := fld t.sqbase 3 0
  if n ≤ 8 then some (2 ^ (4 + n)) else none

/-- The ring has a free entry. -/
def TenantSt.sqFree (t : TenantSt) : Bool :=
  match t.sqSize with
  | some n => decide ((t.sqtail - t.sqhead).toNat < n)
  | none => false

/-- A request is written into the ring, and TAIL passes it. -/
def State.ringService (s : State) (t : Tenant) (r : List Byte) : State :=
  let q := s.tenant t
  let a := fld q.sqbase 39 12 * 2 ^ 12 + 64 * (q.sqtail.toNat % q.sqSize.getD 1)
  let s := { s with mem := s.mem.writeN a r }.channel 2
  (s.modTenant t (fun q => { q with sqtail := q.sqtail + 1 })).interrupt 1

/-- A request is posted; a full or disabled ring holds it, in order. -/
def State.postService (s : State) (t : Tenant) (r : List Byte) : State :=
  if (s.tenant t).sqFree && (s.tenant t).sqheld.isEmpty then s.ringService t r
  else s.modTenant t (fun q => { q with sqheld := q.sqheld ++ [r] })

/-- Held requests enter the ring as entries become free; `fuel` bounds them. -/
def State.moveServices (s : State) (t : Tenant) : Nat → State
  | 0 => s
  | fuel + 1 =>
    match (s.tenant t).sqheld with
    | [] => s
    | r :: rest =>
      if (s.tenant t).sqFree then
        ((s.modTenant t (fun q => { q with sqheld := rest })).ringService t r).moveServices t fuel
      else s

/-! ### Launch queues (15_dispatch R327, R330) -/

/-- The queue holds 32 records. -/
def State.launchFull (s : State) (t : Tenant) (q : Fin 4) : Bool :=
  decide (32 ≤ ((s.tenant t).queues[q.val]).recs.length)

/-- A record enters a queue and takes the tenant's next serial; the dispatcher is to look at it. `origin` stands in a forwarded
record (R326). -/
def State.launchFrom (s : State) (t : Tenant) (q : Fin 4) (bytes : List Byte) (origin : Option (Nat × Nat × Nat)) : State :=
  let s := s.modTenant t (fun v =>
    let l := v.queues[q.val]
    { v with
      queues := v.queues.set q.val { l with recs := l.recs ++ [{ bytes := bytes, serial := v.serial, kernel := none, origin := origin }] } q.isLt
      serial := v.serial + 1 })
  { s with disp := { s.disp with look := true } }

/-- A record of this module enters a queue. -/
def State.launchRecord (s : State) (t : Tenant) (q : Fin 4) (bytes : List Byte) : State := s.launchFrom t q bytes none

end Sys2Proof.Machine
end

