-- ==== Sys2Proof/Machine/XSystem.lean ====
section
/-! DEFINITION. System registers, launches, service requests, trap return and end of X (14_scalar R313 to R322). -/

namespace Sys2Proof.Machine

open Sys2Proof

/-! ### The register map (R314) -/

/-- A system register. -/
inductive SysReg where
  | cid | gng | kvar | pblk | lkind
  | lvl (i : Fin 6)
  | pool | jtask | ibal | eres | iclk | istat | cyc | ftim | stg | lpc | mxcnt | sovf
  | am (j : Fin 4)
  | dkey | dctr
  | orc (j : Fin 8)
  | ors (j : Fin 8)
  | tcause | tepc | tval | txpc | tscr0 | tscr1
  deriving DecidableEq, Repr

/-- The register of a number (R314). -/
def SysReg.ofNum (n : Nat) : Option SysReg :=
  if n == 0x00 then some .cid
  else if n == 0x01 then some .gng
  else if n == 0x02 then some .kvar
  else if n == 0x03 then some .pblk
  else if n == 0x04 then some .lkind
  else if h : 0x08 ≤ n ∧ n ≤ 0x0D then some (.lvl ⟨n - 8, by omega⟩)
  else if n == 0x10 then some .pool
  else if n == 0x20 then some .jtask
  else if n == 0x21 then some .ibal
  else if n == 0x22 then some .eres
  else if n == 0x23 then some .iclk
  else if n == 0x24 then some .istat
  else if n == 0x28 then some .cyc
  else if n == 0x29 then some .ftim
  else if n == 0x40 then some .stg
  else if n == 0x41 then some .lpc
  else if n == 0x42 then some .mxcnt
  else if n == 0x43 then some .sovf
  else if h : 0x48 ≤ n ∧ n ≤ 0x4B then some (.am ⟨n - 0x48, by omega⟩)
  else if n == 0x50 then some .dkey
  else if n == 0x51 then some .dctr
  else if h : 0x60 ≤ n ∧ n ≤ 0x67 then some (.orc ⟨n - 0x60, by omega⟩)
  else if h : 0x68 ≤ n ∧ n ≤ 0x6F then some (.ors ⟨n - 0x68, by omega⟩)
  else if n == 0x80 then some .tcause
  else if n == 0x81 then some .tepc
  else if n == 0x82 then some .tval
  else if n == 0x83 then some .txpc
  else if n == 0x84 then some .tscr0
  else if n == 0x85 then some .tscr1
  else none

/-- `cid` (R315): priority, tenant, module, island, column, core. -/
def State.cid (s : State) (c : CoreId) : W64 :=
  match (s.core c).task with
  | some t =>
    BitVec.ofNat 64 (t.cls * 2 ^ 36 + t.tenant.val * 2 ^ 32 + s.modIndex * 2 ^ 24 + c.val / 16 * 2 ^ 16 + c.val % 16 * 2 ^ 8
      + c.val)
  | none => BitVec.ofNat 64 (s.modIndex * 2 ^ 24 + c.val / 16 * 2 ^ 16 + c.val % 16 * 2 ^ 8 + c.val)

/-- `pool` (R133). -/
def Core.poolReg (k : Core) : W64 := BitVec.ofNat 64 (k.pool.l1b * 2 ^ 32 + k.pool.spb * 2 ^ 16 + k.pool.rfb)

/-- `jtask` in nanojoules (R316): the memory charges of the open tick are in it already (16_energy R346, 19_program_gemm R406; log 98). -/
def Core.jtask (k : Core) : W64 := BitVec.ofNat 64 ((k.sys.jtaskPj + k.sys.memPj) / 1000)

/-- LPC (R159). -/
def CRegs.lpc (r : CRegs) : W64 := BitVec.ofNat 64 (r.rrb * 2 ^ 48 + r.epi.toNat * 2 ^ 32 + r.cnt.toNat)

/-- What a register reads as for a core. -/
def State.sysRead (s : State) (c : CoreId) (r : SysReg) : W64 :=
  let k := s.core c
  let isl := s.island (islandOf c)
  match r with
  | .cid => s.cid c
  | .gng => k.sys.gng
  | .kvar => k.sys.kvar
  | .pblk => k.sys.pblk
  | .lkind => k.sys.lkind
  | .lvl i => k.sys.lvl[i.val]
  | .pool => k.poolReg
  | .jtask => k.jtask
  | .ibal => BitVec.ofInt 64 isl.bal
  | .eres => k.sys.eres
  | .iclk => isl.clock.iclk
  | .istat => isl.istat
  | .cyc => k.sys.cyc
  | .ftim => BitVec.ofNat 64 s.time
  | .stg => k.regs.stg.setWidth 64
  | .lpc => k.regs.lpc
  | .mxcnt => k.matrix.mxcnt
  | .sovf => k.sync.sovf
  | .am j => (k.sys.am[j.val]).setWidth 64
  | .dkey => k.sys.dkey
  | .dctr => k.sys.dctr
  | .orc j => k.tables.rings[j.val].cfg
  | .ors j => k.tables.rings[j.val].stateReg
  | .tcause => k.sys.tcause
  | .tepc => k.sys.tepc
  | .tval => k.sys.tval
  | .txpc => k.sys.txpc
  | .tscr0 => k.sys.tscr0
  | .tscr1 => k.sys.tscr1

/-- The core after a write of a register with RW or W1C fields; none for any other register (R313). -/
def Core.sysWrite (k : Core) (r : SysReg) (v : W64) : Option Core :=
  match r with
  | .stg => some { k with regs := { k.regs with stg := v.setWidth 8 } }
  | .lpc => some { k with regs := { k.regs with
      rrb := fld v 56 48 % nrOf k.pool.rfb, epi := BitVec.ofNat 8 (fld v 39 32), cnt := v.setWidth 32 } }
  | .sovf => some { k with sync := { k.sync with sovf := k.sync.sovf &&& ~~~v } }
  | .am j => some { k with sys := { k.sys with am := k.sys.am.set j.val (v.setWidth 32) j.isLt } }
  | .dkey => some { k with sys := { k.sys with dkey := v } }
  | .dctr => some { k with sys := { k.sys with dctr := v } }
  | .txpc => some { k with sys := { k.sys with txpc := v &&& 0xFFFFFFFC } }
  | .tscr0 => some { k with sys := { k.sys with tscr0 := v } }
  | .tscr1 => some { k with sys := { k.sys with tscr1 := v } }
  | .cid | .gng | .kvar | .pblk | .lkind | .lvl _ | .pool | .jtask | .ibal | .eres | .iclk | .istat | .cyc | .ftim
  | .mxcnt | .orc _ | .ors _ | .tcause | .tepc | .tval => none

/-- RSYS (R313). -/
def execRsys (d : BitVec 5) (n : BitVec 16) (s : State) : Out :=
  .next (match SysReg.ofNum n.toNat with
    | none => s.xTrap causeIllegal 0 0
    | some r =>
      if s.fx.ready [d] then s.xRetire (fun x => x.set d (s.sysRead s.focus.1 r)) else s.xWait .other)

/-- WSYS (R313). -/
def execWsys (a : BitVec 5) (n : BitVec 16) (s : State) : Out :=
  .next (match SysReg.ofNum n.toNat with
    | none => s.xTrap causeIllegal 0 0
    | some r =>
      if !s.fx.ready [a] then s.xWait .other
      else
        match s.here.sysWrite r (s.fx.get a) with
        | none => s.xTrap causePrivileged 0 0
        | some k => (s.setCore s.focus.1 k).xRetire (fun x => x))

/-! ### Launch and service (R318, R319) -/

/-- LAUNCH (R318). -/
def execLaunch (a : BitVec 5) (q : BitVec 2) (s : State) : Out :=
  .next (
    if !s.fx.ready [a] then s.xWait .other
    else if (s.fx.get a).toNat % 64 != 0 then s.xTrap causeMisaligned 0x40 (s.fx.get a)
    else if !s.fx.quiet then s.xWait .other
    else s.xBlock (s.fx.get a) false (fun s bs =>
      if s.launchFull s.ftenant q.toFin then s.xWait .other
      else (s.launchRecord s.ftenant q.toFin bs).xRetire (fun x => x)))

/-- The 64 bytes of a service request (R319). -/
def State.serviceRequest (s : State) (n : BitVec 16) : List W64 :=
  BitVec.ofNat 64 (s.ftenant.val * 2 ^ 32 + s.focus.1.val * 2 ^ 24 + s.fctx.val * 2 ^ 16 + n.toNat)
    :: ([1, 2, 3, 4, 5, 6].map (fun r => s.fx.get r)) ++ [0]

/-- SYS (R319): the request is posted; the word retires when its answer is loaded into s1 and s2. -/
def execSys (n : BitVec 16) (s : State) : Out :=
  .next (match s.fx.op with
    | some (.service _) => s.xWait .other
    | _ =>
      if !s.fx.ready [1, 2, 3, 4, 5, 6] || !s.fx.quiet then s.xWait .other
      else
        let r := s.serviceRequest n
        (s.modHere (fun k => k.setCtx s.fctx { k.ctx s.fctx with
          op := some (.service none), service := r, wait := some .other })).postService s.ftenant
            (r.flatMap (fun w => leBytes 8 w.toNat)))

/-! ### Return and end (R321, R322) -/

/-- Copies whose own source read raised a trap read on (R38). -/
def Core.releaseHolds (k : Core) : Core := k.mapCopies (fun c => { c with hold := false })

/-- TRET (R321, R372): legal only in X0 while it runs a handler. -/
def execTret (s : State) : Out :=
  .next (if s.fctx != 0 || !s.here.trap.hmode then s.xTrap causeIllegal 0 0
    else s.modHere (fun k =>
      let k := k.setCtx 0 { k.ctx 0 with op := none, fault := none, wait := none, stall := 0 }
      k.releaseHolds.trapReturn))

/-- X_END (R322): legal only in X0; in the handler it terminates the gang with the cause in `tcause` (R372). -/
def execXEnd (s : State) : Out :=
  .next (if s.fctx != 0 then s.xTrap causeIllegal 0 0
    else if s.here.trap.hmode then s.terminate s.focus.1 (s.here.sys.tcause.setWidth 32)
    else if !s.fx.loads.isEmpty then s.xWait .other
    else s.xRetire (fun x => { x with run := .ended }))

/-- X_NOP (R49). -/
def execXNop (s : State) : Out := .next (s.xRetire (fun x => x))

end Sys2Proof.Machine
end

