-- ==== Sys2Proof/Machine/LSAddr.lean ====
section
/-! DEFINITION. Address, loop, branch and queue words of L and S, their semaphore words and end (05_copies R98 to R103,
12_sync R254 to R256). The sequencer in focus says whose registers a word uses. -/

namespace Sys2Proof.Machine

open Sys2Proof

/-- LS_ADDI (R98). -/
def execLsAddi (d a : BitVec 4) (imm : BitVec 12) (t : Token) (s : State) : Out :=
  .next (s.lsOp t (fun q => q.set d (q.get a + sext64 imm)))

/-- LS_ADD (R98). -/
def execLsAdd (d a b : BitVec 4) (t : Token) (s : State) : Out := .next (s.lsOp t (fun q => q.set d (q.get a + q.get b)))

/-- LS_SUB (R98). -/
def execLsSub (d a b : BitVec 4) (t : Token) (s : State) : Out := .next (s.lsOp t (fun q => q.set d (q.get a - q.get b)))

/-- LS_MUL (R98). -/
def execLsMul (d a b : BitVec 4) (t : Token) (s : State) : Out := .next (s.lsOp t (fun q => q.set d (q.get a * q.get b)))

/-- LS_AND (R98). -/
def execLsAnd (d a b : BitVec 4) (t : Token) (s : State) : Out := .next (s.lsOp t (fun q => q.set d (q.get a &&& q.get b)))

/-- LS_OR (R98). -/
def execLsOr (d a b : BitVec 4) (t : Token) (s : State) : Out := .next (s.lsOp t (fun q => q.set d (q.get a ||| q.get b)))

/-- LS_XOR (R98). -/
def execLsXor (d a b : BitVec 4) (t : Token) (s : State) : Out := .next (s.lsOp t (fun q => q.set d (q.get a ^^^ q.get b)))

/-- LS_SLL (R98). -/
def execLsSll (d a b : BitVec 4) (t : Token) (s : State) : Out :=
  .next (s.lsOp t (fun q => q.set d (q.get a <<< shamt (q.get b))))

/-- LS_SRL (R98). -/
def execLsSrl (d a b : BitVec 4) (t : Token) (s : State) : Out :=
  .next (s.lsOp t (fun q => q.set d (q.get a >>> shamt (q.get b))))

/-- LI (R98). -/
def execLi (d : BitVec 4) (imm : BitVec 16) (t : Token) (s : State) : Out := .next (s.lsOp t (fun q => q.set d (sext64 imm)))

/-- LIH (R98): a_d × 2^16 + imm16. -/
def execLih (d : BitVec 4) (imm : BitVec 16) (t : Token) (s : State) : Out :=
  .next (s.lsOp t (fun q => q.set d (q.get d * 65536 + zext64 imm)))

/-- SHLI (R98). -/
def execShli (d a : BitVec 4) (n : BitVec 6) (t : Token) (s : State) : Out :=
  .next (s.lsOp t (fun q => q.set d (q.get a <<< n.toNat)))

/-- SHRI (R98). -/
def execShri (d a : BitVec 4) (n : BitVec 6) (t : Token) (s : State) : Out :=
  .next (s.lsOp t (fun q => q.set d (q.get a >>> n.toNat)))

/-- LSET (R99). -/
def execLset (a : BitVec 4) (k : BitVec 2) (t : Token) (s : State) : Out :=
  .next (s.lsOp t (fun q => q.setLoop k ((q.get a).setWidth 32)))

/-- LNEXT (R99). -/
def execLnext (k : BitVec 2) (off : BitVec 12) (t : Token) (s : State) : Out :=
  .next (s.lsJump t (fun q => if 1 < (q.loop k).toNat then q.pc + 4 * sext64 off else q.pc + 4)
    (fun q => q.setLoop k (if 1 < (q.loop k).toNat then q.loop k - 1 else 0)))

/-- BZ (R99). -/
def execBz (a : BitVec 4) (off : BitVec 12) (t : Token) (s : State) : Out :=
  .next (s.lsJump t (fun q => if q.get a == 0 then q.pc + 4 * sext64 off else q.pc + 4) (fun q => q))

/-- BNZ (R99). -/
def execBnz (a : BitVec 4) (off : BitVec 12) (t : Token) (s : State) : Out :=
  .next (s.lsJump t (fun q => if q.get a != 0 then q.pc + 4 * sext64 off else q.pc + 4) (fun q => q))

/-- LS_J (R99). -/
def execLsJ (off : BitVec 20) (t : Token) (s : State) : Out := .next (s.lsJump t (fun q => q.pc + 4 * sext64 off) (fun q => q))

/-! ### Queues (R100) -/

/-- A `qpop`: after its token pops it waits on the named queue and pops one entry. -/
def State.lsQpop (s : State) (p : Peer) (t : Token) (f : Option W32 → LSeq → LSeq) : State :=
  s.lsPops t (fun s =>
    let q := popQ s.fls p
    match s.here.queue q with
    | [] => s.lsWait (.pop [q])
    | v :: _ =>
      (s.modHere (fun k => k.popQueue q)).modHere (fun k => k.lsRetire s.fIsS ((k.ls s.fIsS).pc + 4)
        { fin := .now, pushes := tokPushes s.fls t none, sem := none } (f v)))

/-- QPOP_VALUE (R100). -/
def execQpopValue (d : BitVec 4) (p : Peer) (t : Token) (s : State) : Out :=
  .next (s.lsQpop p t (fun v q => q.set d (tokenValue v)))

/-- QPOP_BARE (R100). -/
def execQpopBare (p : Peer) (t : Token) (s : State) : Out := .next (s.lsQpop p t (fun _ q => q))

/-- A `qpush`: its own entry is pushed before the bare tokens of its token field. -/
def State.lsQpush (s : State) (p : Peer) (t : Token) (v : LSeq → Option W32) : State :=
  s.lsPops t (fun s => s.modHere (fun k => k.lsRetire s.fIsS ((k.ls s.fIsS).pc + 4)
    { fin := .now, pushes := (pushQ s.fls p, v (k.ls s.fIsS)) :: tokPushes s.fls t none, sem := none } (fun q => q)))

/-- QPUSH_VALUE (R100). -/
def execQpushValue (a : BitVec 4) (p : Peer) (t : Token) (s : State) : Out :=
  .next (s.lsQpush p t (fun q => some ((q.get a).setWidth 32)))

/-- QPUSH_BARE (R100). -/
def execQpushBare (p : Peer) (t : Token) (s : State) : Out := .next (s.lsQpush p t (fun _ => none))

/-! ### Semaphores (12_sync R254 to R256) -/

/-- LS_SEMA: after its token pops it waits until served. -/
def execLsSema (i : BitVec 6) (n : BitVec 14) (t : Token) (s : State) : Out :=
  .next (s.lsPops t (fun s =>
    let a := s.fls
    if s.here.semServed a i n.toNat then
      (s.modHere (fun k => k.semTake a i n.toNat)).modHere (fun k => k.lsRetire s.fIsS ((k.ls s.fIsS).pc + 4)
        { fin := .now, pushes := tokPushes a t none, sem := none } (fun q => q))
    else (s.modHere (fun k => k.joinWait a (.sem i n.toNat))).lsWait (.sema i)))

/-- LS_SEMV: the increment stands at retirement, after every earlier word has reached its finishing point (R256). -/
def execLsSemv (i : BitVec 6) (n : BitVec 14) (t : Token) (s : State) : Out :=
  .next (s.lsPops t (fun s => s.modHere (fun k => k.lsRetire s.fIsS ((k.ls s.fIsS).pc + 4)
    { fin := .now, pushes := tokPushes s.fls t none, sem := some (i, n.toNat) } (fun q => q))))

/-- LS_NOP (R49). -/
def execLsNop (t : Token) (s : State) : Out := .next (s.lsOp t (fun q => q))

/-- LS_END (R101): the sequencer issues nothing further. -/
def execLsEnd (t : Token) (s : State) : Out := .next (s.lsOp t (fun q => { q with ended := true }))

/-- HSET (R103): word k of handle h. -/
def execHset (h : BitVec 6) (a : BitVec 4) (k : BitVec 2) (t : Token) (s : State) : Out :=
  .next (s.lsPops t (fun s => s.modHere (fun c =>
    let v := (c.ls s.fIsS).get a
    let old := c.handle h
    let m : W256 := (0xFFFFFFFFFFFFFFFF#256) <<< (64 * k.toNat)
    let c := c.setHandle h ((old &&& ~~~m) ||| (v.setWidth 256 <<< (64 * k.toNat)))
    c.lsRetire s.fIsS ((c.ls s.fIsS).pc + 4) { fin := .now, pushes := tokPushes s.fls t none, sem := none } (fun q => q))))

end Sys2Proof.Machine
end

