-- ==== Sys2Proof/Machine/LSCopy.lean ====
section
/-! DEFINITION. Copy-family words, `prefetch`, window and watermark words of L and S (05_copies R107, R111 to R125). -/

namespace Sys2Proof.Machine

open Sys2Proof

/-! ### Operand checks (R105, R125) -/

/-- What a copy-family word names, as read at issue. -/
structure CopyWord where
  op : CopyOp
  h : W256
  /-- scratchpad offset, or ring -/
  opnd : W64
  aux : W64
  il : Nat

/-- The word as a copy that is not yet live, for its geometry. -/
def CopyWord.shape (c : CopyWord) (k : Core) : Copy :=
  { id := k.land.nextId, op := c.op, h := c.h, opnd := c.opnd, aux := c.aux, w := 0, hint := .dflt, bar := false, il := c.il
    acc := .add, accFmt := .f32, copyId := 0, start := 0, n := copyCount c.op c.h (2 ^ c.il), st := .active, next := 0
    rd := 0, got := []
    redo := [], out := [], held := [], done := 0, perf := [], faults := [], groups := [], reported := 0, barPa := none
    refused := [], tile0 := (k.ring (c.opnd.setWidth 3)).itail, hold := false, pc := 0
    idxStall := none, srcStall := none, hostLast := none, flush := 0, repDue := none }

/-- Detail 0x03: the handle is unusable. -/
def CopyWord.badHandle (c : CopyWord) : Bool :=
  let h := c.h
  let counts : List Nat := match c.op with
    | .pk | .uk => []
    | .gather | .scatter => [hdDim0 h, hdDim1 h]
    | .copy | .copyO | .wcopy | .put | .acopy => [hdDim0 h, hdDim1 h, hdDim2 h, hdDim3 h]
  (hdKind h != (if c.op == .put then 1 else 0)) || counts.contains 0
    || (match c.op with
      | .pk => decide (12 < hdGrp h) || hdAux h == 0 || hdLp h != 0
      | .uk => decide (12 < hdGrp h) || hdAux h == 0 || hdLp h == 0 || decide (hdPitch h < (hdAux h + 31) / 32)
      | .copy | .copyO | .gather | .wcopy | .scatter | .put | .acopy => hdLp h != 0 && decide (hdPitch h < hdDim0 h))
    || (c.op.isIndexed && (hdDim2 h != 1 || hdDim3 h != 1))
    || (c.op == .put && (hdBase h / 2 ^ 28 != 0 || hdBase h / 2 ^ 21 % 8 != 0))

/-- The last byte, plus one, of the scratchpad places of the word. -/
def CopyWord.spEnd (c : CopyWord) (k : Core) : Nat :=
  let v := c.shape k
  v.spOff k (v.n - 1) + 32

/-- First offset of the index list (R116). -/
def CopyWord.list (c : CopyWord) : Nat := fld c.aux 63 48 * 64

/-- The detail of R125 that a word takes, if any, in the order 0x03, 0x04, 0x05, 0x01, 0x02, 0x06. -/
def CopyWord.check (c : CopyWord) (k : Core) : Option Nat :=
  let h := c.h
  let ring := k.ring (c.opnd.setWidth 3)
  if c.badHandle then some 0x03
  else if c.op == .copyO && (!ring.on || copyCount c.op h 1 % ring.tsz != 0) then some 0x04
  else if c.op == .put && decide ((k.task.map Task.size).getD 1 ≤ hdBase h / 2 ^ 24 % 16) then some 0x05
  else if (c.op != .copyO && c.opnd.toNat % 32 != 0) || (c.op == .put && hdBase h % 32 != 0) then some 0x01
  else if (c.op != .copyO && decide (k.scratchSize < c.spEnd k))
      || (c.op.isIndexed && decide (k.scratchSize < c.list + 4 * hdDim1 h)) then some 0x02
  else if c.op == .gather
      && (secsOf c.list (4 * hdDim1 h)).any (fun x => ((c.shape k).indexOf k x).isSome) then some 0x06
  else none

/-! ### Issue (R107) -/

/-- The copy identifier of a sequencer's next word that can park (R70). -/
def copyIdOf (core : CoreId) (isS : Bool) (w : BitVec 4) (serial : W16) : W32 :=
  BitVec.ofNat 32 (core.val * 2 ^ 24 + (if isS then 3 else 1) * 2 ^ 22 + w.toNat * 2 ^ 18 + serial.toNat)

/-- An acquire atomic of S whose result block is not yet written holds back later accesses of S (12_sync R263). -/
def Core.sAcquiring (k : Core) : Bool := k.atoms.any (fun a => a.ord == .acquire || a.ord == .acqRel)

/-- The word becomes live (R107): its place in issue order, START, its claim of ring tiles, its serial; its register shows
it; it owes its pushes; for L, bindings
pinned under its footprint are invalidated (07_registers R174). A register that a kill has abandoned abandons it at once (R128); it has
claimed its tiles then, too (06_pool R144; log 45). -/
def Core.goLive (k : Core) (core : CoreId) (isS : Bool) (c : CopyWord) (w : BitVec 4) (hint : Hint) (bar : Bool)
    (acc : AccOp) (accFmt : AccFmt) (t : Token) : Core :=
  let a : Agent := if isS then .s else .l
  let q := k.ls isS
  let serial := q.serial + 1
  let dead := k.land.copies.any (fun d => d.w == w && !d.live)
  let v := c.shape k
  let v := { v with
    w := w, hint := hint, bar := bar, acc := acc, accFmt := accFmt, copyId := copyIdOf core isS w serial
    pc := q.pc, start := k.startFor w, st := if dead then .abandoned else .active }
  let pend : Pend :=
    if dead then { fin := .now, pc := q.pc, pushes := [], sem := none }
    else { fin := if isS then .performed v.id else .issued v.id, pc := q.pc, pushes := tokPushes a t none, sem := none }
  let reads := (isS || c.op.isIndexed) && !dead
  let k := k.setLs isS { q with
    serial := serial, reading := if reads then some v.id else none, pend := q.pend ++ [pend]
    popped := reads, handle := none, pc := if reads then q.pc else q.pc + 4, wait := if reads then some .other else none, stall := 0 }
  let k := { k with land := { k.land with copies := k.land.copies ++ [v], nextId := k.land.nextId + 1 } }
  let k := if isS then k else k.invalidateFoot v
  let k := if c.op == .copyO then
      let r := c.opnd.setWidth 3
      k.modRing r (fun g => g.claim (v.n / g.tsz))
    else k
  let k := if bar then k.modWm w (fun m => { m with bnd := true }) else k
  (k.refresh w).flushPend isS 64

/-- A copy-family word (R107). -/
def State.lsCopy (s : State) (op : CopyOp) (h : BitVec 6) (w : BitVec 4) (opnd aux : W64) (hint : Hint) (bar : Bool)
    (il : Nat) (acc : AccOp) (accFmt : AccFmt) (t : Token) : State :=
  let k := s.here
  if s.fq.reading.isSome then s.lsWait .other
  else
    let c : CopyWord := { op := op, h := s.fq.handle.getD (k.handle h), opnd := opnd, aux := aux, il := il }
    match (if s.fq.popped then none else c.check k) with
    | some d => s.lsTrap causeMisaligned d 0
    | none =>
      if s.fIsS && k.sAcquiring then s.lsWait .other
      else
        s.lsPops t (fun s =>
          let k := s.here
          if decide (4 ≤ (k.bound w).length) || (k.window w).isSome then
            -- the handle stays as the word read it at issue (R103)
            (s.modHere (fun k => k.setLs s.fIsS { k.ls s.fIsS with handle := some c.h })).lsWait .other
          else s.modHere (fun k => k.goLive s.focus.1 s.fIsS c w hint bar acc accFmt t))

/-- a_(n+1) of an operand register. -/
def State.lsNext (s : State) (a : BitVec 4) : W64 := s.fq.get (a + 1)

/-- L_COPY (R113). -/
def execLCopy (o : Sc) (s : State) : Out :=
  .next (s.lsCopy .copy o.h o.w (s.fq.get o.a) (s.lsNext o.a) o.hint o.bar 0 .add .f32 o.t)

/-- COPY_O (R114): the ring's number stands for the scratchpad operand; a bound word takes its barrier address as R39 has it,
from a_(n+1) with n the operand field, ring number and zero. -/
def execCopyO (h : BitVec 6) (w : BitVec 4) (r : BitVec 3) (hint : Hint) (bar : Bool) (t : Token) (s : State) : Out :=
  .next (s.lsCopy .copyO h w (r.setWidth 64) (s.lsNext (r ++ 0#1)) hint bar 0 .add .f32 t)

/-- COPY_PK (R115). -/
def execCopyPk (o : Sc) (c : BitVec 3) (s : State) : Out :=
  .next (s.lsCopy .pk o.h o.w (s.fq.get o.a) (s.lsNext o.a) o.hint o.bar c.toNat .add .f32 o.t)

/-- COPY_UK (R115). -/
def execCopyUk (o : Sc) (c : BitVec 3) (s : State) : Out :=
  .next (s.lsCopy .uk o.h o.w (s.fq.get o.a) (s.lsNext o.a) o.hint o.bar c.toNat .add .f32 o.t)

/-- GATHER (R116). -/
def execGather (o : Sc) (s : State) : Out :=
  .next (s.lsCopy .gather o.h o.w (s.fq.get o.a) (s.lsNext o.a) o.hint o.bar 0 .add .f32 o.t)

/-- WCOPY (R118). -/
def execWcopy (o : Sc) (s : State) : Out :=
  .next (s.lsCopy .wcopy o.h o.w (s.fq.get o.a) (s.lsNext o.a) o.hint o.bar 0 .add .f32 o.t)

/-- SCATTER (R118). -/
def execScatter (o : Sc) (s : State) : Out :=
  .next (s.lsCopy .scatter o.h o.w (s.fq.get o.a) (s.lsNext o.a) o.hint o.bar 0 .add .f32 o.t)

/-- PUT (R121). -/
def execPut (h : BitVec 6) (w a : BitVec 4) (hint : Hint) (t : Token) (s : State) : Out :=
  .next (s.lsCopy .put h w (s.fq.get a) 0 hint false 0 .add .f32 t)

/-- ACOPY (R118, R265). -/
def execAcopy (h : BitVec 6) (w a : BitVec 4) (hint : Hint) (op : AccOp) (fmt : AccFmt) (t : Token) (s : State) : Out :=
  .next (s.lsCopy .acopy h w (s.fq.get a) 0 hint false 0 op fmt t)

/-- PREFETCH (R117): it takes no serial and no register; its finishing point is its last request. -/
def execPrefetch (h : BitVec 6) (_a : BitVec 4) (hint : Hint) (t : Token) (s : State) : Out :=
  .next (
    let v := s.here.handle h
    if hdKind v != 0 || [hdDim0 v, hdDim1 v, hdDim2 v, hdDim3 v].contains 0 || (hdLp v != 0 && decide (hdPitch v < hdDim0 v)) then s.lsTrap causeMisaligned 0x03 0
    else s.lsPops t (fun s => s.modHere (fun k =>
      let id := k.land.nextId
      let f : Prefetch := { id := id, h := v, hint := hint, next := 0, n := copyCount .copy v 1 }
      let k := { k with land := { k.land with fetches := k.land.fetches ++ [f], nextId := id + 1 } }
      k.lsRetire s.fIsS ((k.ls s.fIsS).pc + 4) { fin := .issued id, pushes := tokPushes s.fls t none, sem := none } (fun q => q))))

/-! ### Windows (R119, R120) -/

/-- The detail that an `open` takes, if any. -/
def Core.checkOpen (k : Core) (w : BitVec 4) (off aux : W64) : Option Nat :=
  let size := fld aux 31 0
  let share := fld aux 39 32 + 1
  let lo := off.toNat
  if (k.window w).isSome
      || k.land.windows.any (fun v => decide (lo < v.off + 32 * v.n) && decide (v.off < lo + size))
      || decide (448 < share + (k.land.windows.map LWindow.share).sum) || fld aux 63 40 != 0 then some 0x05
  else if lo % 32 != 0 || size % 32 != 0 || size == 0 then some 0x01
  else if decide (k.scratchSize < lo + size) then some 0x02
  else none

/-- OPEN (R119): it waits until no live copy is bound to the register and the lagoon can grant the share; its pops come before these
waits (log 76). -/
def execLOpen (w a : BitVec 4) (hint : Hint) (t : Token) (s : State) : Out :=
  .next (
    let off := s.fq.get a
    let aux := s.lsNext a
    match (if s.fq.popped then none else s.here.checkOpen w off aux) with
    | some d => s.lsTrap causeMisaligned d 0
    | none => s.lsPops t (fun s =>
        let share := fld aux 39 32 + 1
        if !(s.here.bound w).isEmpty || !s.here.canShare share then s.lsWait .other
        else s.modHere (fun k =>
          let k := k.openWindow w off.toNat aux hint
          k.lsRetire s.fIsS ((k.ls s.fIsS).pc + 4) { fin := .now, pushes := tokPushes s.fls t none, sem := none } (fun q => q))))

/-- CLOSE (R120). -/
def execLClose (w : BitVec 4) (t : Token) (s : State) : Out :=
  .next (s.lsPops t (fun s => s.modHere (fun k =>
    (k.closeWindow w).lsRetire s.fIsS ((k.ls s.fIsS).pc + 4) { fin := .now, pushes := tokPushes s.fls t none, sem := none }
      (fun q => q))))

/-! ### Watermark words (R111) -/

/-- COUNT has reached a target: (COUNT − target) mod 2^32 is below 2^31. -/
def Wmark.reached (m : Wmark) (target : W32) : Bool := decide ((m.count - target).toNat < 2 ^ 31)

/-- WWAIT (R111): its token pops come first; then a register in STATE 3 whose target is not reached traps, and one that is not reached
waits (02_words R37, R38; log 76). -/
def execWwait (a w : BitVec 4) (t : Token) (s : State) : Out :=
  .next (s.lsPops t (fun s =>
    let m := s.here.wm w
    if m.reached ((s.fq.get a).setWidth 32) then
      s.modHere (fun k => k.lsRetire s.fIsS ((k.ls s.fIsS).pc + 4)
        { fin := .now, pushes := tokPushes s.fls t none, sem := none } (fun q => q))
    else if m.st == 3 then s.lsTrap causeAbandoned w.toNat 0
    else s.lsWait (.mark w)))

/-- WGET (R111). -/
def execWget (a w : BitVec 4) (t : Token) (s : State) : Out :=
  .next (s.lsOp t (fun q => q.set a (s.here.wmLow w)))

/-- The register forgets its copies, of which none is live; one with requests on their way stays among the orphans until its last
answer. -/
def Core.forget (k : Core) (w : BitVec 4) : Core :=
  { k with land := { k.land with
      copies := k.land.copies.filter (fun c => c.w != w)
      orphans := k.land.orphans ++ k.land.copies.filter (fun c => c.w == w && !c.out.isEmpty) } }

/-- WRESET (R111, R128): it waits until no live copy is bound, then clears the register and ends an abandonment. Its pops come
before that wait (log 76). -/
def execWreset (w : BitVec 4) (t : Token) (s : State) : Out :=
  .next (
    if !s.fq.popped && (s.here.window w).isSome then s.lsTrap causeMisaligned 0x05 0
    else s.lsPops t (fun s =>
      if !(s.here.bound w).isEmpty then s.lsWait .other
      else s.modHere (fun k =>
        let k := (k.forget w).modWm w (fun _ => Wmark.reset)
        k.lsRetire s.fIsS ((k.ls s.fIsS).pc + 4) { fin := .now, pushes := tokPushes s.fls t none, sem := none } (fun q => q))))

end Sys2Proof.Machine
end

