-- ==== Sys2Proof/Machine/LSAtom.lean ====
section
/-! DEFINITION. Atomics of S: issue, sending, the operation itself, the result block (12_sync R257 to R264). -/

namespace Sys2Proof.Machine

open Sys2Proof

/-! ### The operation (R259) -/

/-- A number of `w` bits as a signed value. -/
def toSigned (w v : Nat) : Int := if v < 2 ^ (w - 1) then v else (v : Int) - (2 ^ w : Nat)

/-- New value and CF of an atomic on `old`, of `w` bits; none for a failed `cas`, which writes nothing. -/
def AtomReq.result (r : AtomReq) (old : Nat) : Option Nat × Bool :=
  let x := r.x.toNat % 2 ^ r.w
  let y := r.y.toNat % 2 ^ r.w
  let below := if r.u then decide (old < x) else decide (toSigned r.w old < toSigned r.w x)
  match r.op with
  | .add => (some ((old + x) % 2 ^ r.w), false)
  | .min => (some (if below then old else x), false)
  | .max => (some (if below then x else old), false)
  | .and => (some (old &&& x), false)
  | .or => (some (old ||| x), false)
  | .xor => (some (old ^^^ x), false)
  | .swap => (some x, false)
  | .cas => if old == x then (some y, false) else (none, true)

/-! ### Issue (R258) -/

/-- An atomic at issue: tests of its result block before any pop, then it is under way and owes its pushes until the block
has been written. -/
def State.lsAtom (s : State) (o : Atom) (w : Nat) : State :=
  let q := s.fq
  let k := s.here
  let off := (q.get o.res).toNat
  let odd := o.op == .cas && o.v.toNat % 2 == 1
  let badU := o.u && o.op != .min && o.op != .max
  if odd || badU then s.lsTrap causeIllegal 0 0
  else if off % 16 != 0 then s.lsTrap causeMisaligned 0x01 0
  else if !k.inScratch off 16 then s.lsTrap causeMisaligned 0x02 0
  else
    match k.gate true off 16 with
    | .dead r x => s.lsTrap causeAbandoned r.toNat (windowVa (32 * x))
    | .held l => s.lsWait (.gate l false)
    | .free =>
      if k.sAcquiring then s.lsWait .other
      else
        s.lsPops o.t (fun s => s.modHere (fun k =>
          let q := k.ls true
          let serial := q.serial + 1
          let a : AtomFly :=
            { id := k.nextAtom, va := (q.get o.a).toNat, off := off, w := w
              req := { w := w, op := o.op, u := o.u, x := q.get o.v, y := q.get (o.v + 1) }
              ord := o.ord, scope := o.scope, copyId := copyIdOf s.focus.1 true 0 serial, before := k.land.nextId
              sent := false, pa := none, pm := 0, host := false, flush := 0, flushAt := none, parked := none }
          let k := { k.setLs true { q with serial := serial } with atoms := k.atoms ++ [a], nextAtom := k.nextAtom + 1 }
          k.lsRetire true (q.pc + 4) { fin := .atom a.id, pushes := tokPushes .s o.t none, sem := none } (fun q => q)))

/-- ATOM_32 (R259). -/
def execAtom32 (o : Atom) (s : State) : Out := .next (s.lsAtom o 32)

/-- ATOM_64 (R259). -/
def execAtom64 (o : Atom) (s : State) : Out := .next (s.lsAtom o 64)

/-! ### The result block (R260) -/

/-- Status word: DONE, CF, CODE. -/
def atomStatus (cf : Bool) (code : Nat) : Nat := 2 ^ 31 + bitCode cf * 2 ^ 8 + code % 256

/-- The result block is written and the atomic is finished; without an old value bytes 0 to 7 keep their contents. An acquire through
the gang window is at island scope (R262). -/
def Core.atomDone (k : Core) (a : AtomFly) (old : Option W64) (cf : Bool) (code : Nat) : Core :=
  let k := { k with atoms := k.atoms.filter (fun b => b.id != a.id) }
  let k := match old with
    | some v => k.scratchWrite a.off (leBytes 8 v.toNat)
    | none => k
  let k := k.scratchWrite (a.off + 8) (leBytes 8 (atomStatus cf code))
  if a.ord == .acquire || a.ord == .acqRel then k.l1Acquire (if inGangWindow a.va then .island else a.scope) else k

/-! ### Sending (R257, R261 to R264) -/

/-- The core with an atomic changed. -/
def Core.setAtom (k : Core) (a : AtomFly) : Core := { k with atoms := k.atoms.map (fun b => if b.id == a.id then a else b) }

/-- An atomic parks (R68, R258): its record is posted. -/
def State.parkAtom (s : State) (core : CoreId) (a : AtomFly) (f : XFault) : State :=
  let s := s.modCore core (fun k => k.setAtom { a with parked := some f, sent := false })
  match (s.core core).task with
  | some t =>
    s.postRecord t.tenant
      { miss := 1, landed := 0, va := a.va, copyId := a.copyId, atom := true, badPte := f.badPte, host := f.host, wr := true,
         seq := 3, core := core.val, tenant := t.tenant, code := f.code } (.atom core a.id)
  | none => s

/-- A release atomic waits for every earlier write, copy and atomic of S (R263): the writes that abandoned copies had sent, too. -/
def Core.atomReleased (k : Core) (a : AtomFly) : Bool :=
  !((k.land.copies ++ k.land.orphans).any (fun c => c.op.isS && decide (c.id < a.before)
      && (!c.out.isEmpty || (c.live && decide (c.done < c.n)))))
    && !(k.atoms.any (fun b => decide (b.id < a.id)))

/-- An earlier put or atomic of S through the gang window to the atomic's sector is still to be performed (R264). -/
def Core.atomBehindPort (k : Core) (a : AtomFly) : Bool :=
  let member := (a.va - 0xFFFFFC000000) / 2 ^ 21
  let off := (a.va - 0xFFFFFC000000) % 2 ^ 21
  k.putBefore a.before member off
    || k.atoms.any (fun b => decide (b.id < a.id) && inGangWindow b.va
          && (b.va - 0xFFFFFC000000) / 2 ^ 21 == member && (b.va - 0xFFFFFC000000) % 2 ^ 21 / 32 == off / 32)

/-- An earlier access of S to the atomic's sector in memory is still to be performed (R264). -/
def State.atomBehind (s : State) (core : CoreId) (t : Tenant) (a : AtomFly) (pa pm : Nat) : Bool :=
  s.earlierWrite core t ((s.core core).atoms.filter (fun b => decide (b.id < a.id) && !inGangWindow b.va)) a.before pa pm

/-- A miss of an earlier request of S waits for one of the 32 walks (03_memory R63). -/
def State.missBefore (s : State) (core : CoreId) (a : AtomFly) : Bool :=
  ((s.island (islandOf core)).walks.drop 32).any (fun w => w.reqs.any (fun r =>
    match r.who with
    | .copy c j _ _ => c == core && decide (j < a.before) && (s.core core).ofSeq true j
    | .bound c j => c == core && decide (j < a.before) && ((s.core core).copy j).any (fun d => d.op.isS)
    | .atom c j => c == core && decide (j < a.id)
    | .word _ _ => false
    | .ahead _ _ => false))

/-- The AtomicOps that PCIe has (R261). -/
def atomOnHost : AtomOp → Bool
  | .add | .swap | .cas => true
  | .min | .max | .and | .or | .xor => false

/-- Sector writes of S to the host aperture are on their way to the endpoint: not yet acknowledged. -/
def Core.hostWritesOut (k : Core) : Bool :=
  (k.land.copies ++ k.land.orphans).any (fun c => c.op.isS && c.op != .put
    && c.out.any (fun o => o.parts.any (fun p => decide (2 ^ 39 ≤ p.pa))))

/-- An atomic that has not been sent is sent when it may be, or parks. One that the host does not take at all has code 0x20 whether or not the
link is up (R261; log 100). -/
def State.pumpAtom (s : State) (core : CoreId) (id : Nat) : State :=
  let k := s.core core
  match k.atoms.find? (fun a => a.id == id), k.task with
  | some a, some t =>
    let park (s : State) (code : Nat) (bad host : Bool) : State :=
      s.parkAtom core a { va := a.va, code := code, badPte := bad, host := host }
    let release := a.ord == .release || a.ord == .acqRel
    if a.sent || a.parked.isSome || s.missBefore core a then s
    else if release && !k.atomReleased a then s
    else if a.va % (a.w / 8) != 0 then park s 0x40 false false
    else if inGangWindow a.va then
      let m := (a.va - 0xFFFFFC000000) / 2 ^ 21
      let o := (a.va - 0xFFFFFC000000) % 2 ^ 21
      match (if m < t.size then s.memberCore core m else none) with
      | none => park s 0x10 false false
      | some dst =>
        if !(s.core dst).inScratch o (a.w / 8) then park s 0x10 false false
        else if k.atomBehindPort a then s
        else
          (s.modCore core (fun k => k.setAtom { a with sent := true })).send (coreRouter core) (coreRouter dst) k.pri
            (.atomPort dst o a.req k.gangNo (.atom core id))
    else
      let r := s.xlate core .s (.atom core id) a.va true
      let s := r.1
      match r.2 with
      | .wait => s
      | .fault f => s.parkAtom core a f
      | .ok pa pm host =>
        -- the segment's check comes before the destination's answer (03_memory R67)
        if host && !s.hostGranted t.tenant pa then park s 0x12 false true
        else if host && !atomOnHost a.req.op then park s 0x20 false true
        else if s.atomBehind core t.tenant a pa pm then s
        else if release && a.scope == .system && a.flush == 1 then s
        else
          match (if release && a.scope == .system && a.flush == 0 then a.flushAt.or k.seqs.s.hostStore else none) with
          | some h =>
            -- host writes made after this read, or not yet acknowledged, go to a later release (R297)
            (s.modCore core (fun k => (k.setAtom { a with flush := 1, flushAt := some h }).setLs true
              { k.seqs.s with hostStore := if k.hostWritesOut then k.seqs.s.hostStore else none })).sendSlice
              core h (.read h 0 0 t.tenant .dflt true (.atom core id))
          | none =>
            let s := s.modCore core (fun k => (k.dropL1Sector pa pm).setAtom { a with sent := true, pa := some pa, pm := pm, host := host })
            s.sendSlice core pa (.atom pa pm t.tenant a.req (.atom core id))
  | _, _ => s

/-- Every atomic of a core that may be sent is sent. -/
def State.pumpAtoms (s : State) (core : CoreId) : State := (s.core core).atoms.foldl (fun s a => s.pumpAtom core a.id) s

end Sys2Proof.Machine
end

