-- ==== Sys2Proof/Machine/Flags.lean ====
section
/-! DEFINITION. The FP control and status register and its flags (08_numbers R193 to R195). -/

namespace Sys2Proof.Machine

open Sys2Proof

/-- Flags in the order of FCS[5:0]: NV, DZ, OF, UF, NX, NRT. -/
abbrev Flags := BitVec 6

def flagNV : Flags := 1
def flagDZ : Flags := 2
def flagOF : Flags := 4
def flagUF : Flags := 8
def flagNX : Flags := 16
def flagNRT : Flags := 32

/-- A flag when a condition holds. -/
def flagIf (b : Bool) (f : Flags) : Flags := if b then f else 0

/-- FCS.RM (R193). -/
def fcsRm (fcs : W32) : Rnd :=
  match fcs.toNat / 2 ^ 16 % 4 with
  | 0 => .rne
  | 1 => .rtz
  | 2 => .rup
  | _ => .rdn

/-- FCS.EN: the enables, flag by flag. -/
def fcsEn (fcs : W32) : Flags := (fcs >>> 8).setWidth 6

/-- FCS with flags raised. -/
def fcsRaise (fcs : W32) (f : Flags) : W32 := fcs ||| f.setWidth 32

/-- FCS as `fcs.w` stores it: reserved bits read as zero (R193). -/
def fcsWritten (v : W32) : W32 := v &&& 0x00033F3F

/-- A rounding mode with the dynamic one resolved (R184). -/
def resolveRnd (r : Rnd) (fcs : W32) : Rnd :=
  match r with
  | .dyn => fcsRm fcs
  | .rne => .rne
  | .rtz => .rtz
  | .rup => .rup
  | .rdn => .rdn
  | .rod => .rod

end Sys2Proof.Machine
end

