-- ==== Sys2Proof/Machine/Float.lean ====
section
/-! DEFINITION. Exact arithmetic and one rounding (08_numbers R179 to R192, R199, 12_sync R265). A finite value is a sign,
a magnitude m and an exponent e: (−1)^s × m × 2^e. A magnitude that is not exact carries a last bit of 1 below every bit
that a rounding can look at, so that it rounds as the exact value does. -/

namespace Sys2Proof.Machine

open Sys2Proof

/-! ### Formats (R179) -/

/-- Exponent bits, mantissa bits, bias. -/
def fpShape : Fmt → Nat × Nat × Nat
  | .f32 => (8, 23, 127)
  | .bf16 => (8, 7, 127)
  | .fp16 => (5, 10, 15)
  | .e5m2 => (5, 2, 15)
  | .e4m3 => (4, 3, 7)
  | .fp4 => (2, 1, 1)
  | .i32 | .i8 | .i4 | .n8 | .n4 | .e8m0 => (8, 23, 127)

/-- A format with infinities. -/
def fpHasInf : Fmt → Bool
  | .f32 | .bf16 | .fp16 | .e5m2 => true
  | .e4m3 | .fp4 | .i32 | .i8 | .i4 | .n8 | .n4 | .e8m0 => false

/-- An integer format (R182). -/
def isInt : Fmt → Bool
  | .i32 | .i8 | .i4 | .n8 | .n4 => true
  | .f32 | .bf16 | .fp16 | .e5m2 | .e4m3 | .fp4 | .e8m0 => false

/-- An unsigned integer format. -/
def isUnsigned : Fmt → Bool
  | .n8 | .n4 => true
  | .i32 | .i8 | .i4 | .f32 | .bf16 | .fp16 | .e5m2 | .e4m3 | .fp4 | .e8m0 => false

/-- A value: a NaN with its sign, its quiet bit and its payload below it, aligned to 22 bits (R180, R192); an infinity; or a
finite value. -/
inductive FVal where
  | nan (neg quiet : Bool) (payload : Nat)
  | inf (neg : Bool)
  | fin (neg : Bool) (m : Nat) (e : Int)
  deriving DecidableEq, Repr

/-- The value of an element (R179 to R182). -/
def unpack (f : Fmt) (v : Nat) : FVal :=
  if isInt f then
    let w := fmtBits f
    let i : Int := if isUnsigned f then (v % 2 ^ w : Nat) else toSigned w (v % 2 ^ w)
    .fin (decide (i < 0)) i.natAbs 0
  else if f == .e8m0 then
    if v % 256 == 255 then .nan false true 0 else .fin false 1 ((v % 256 : Nat) - 127)
  else
    let (eb, mb, bias) := fpShape f
    let neg := v / 2 ^ (eb + mb) % 2 == 1
    let e := v / 2 ^ mb % 2 ^ eb
    let m := v % 2 ^ mb
    if fpHasInf f && e == 2 ^ eb - 1 then
      if m == 0 then .inf neg
      else .nan neg (m / 2 ^ (mb - 1) == 1) (m % 2 ^ (mb - 1) * 2 ^ (23 - mb))
    else if f == .e4m3 && e == 15 && m == 7 then .nan neg true 0
    else if e == 0 then .fin neg m (1 - (bias : Int) - mb)
    else .fin neg (2 ^ mb + m) ((e : Int) - bias - mb)

/-- The FP32 value of a lane. -/
def val32 (v : W32) : FVal := unpack .f32 v.toNat

/-! ### Rounding (R184, R185) -/

/-- A magnitude m ÷ 2^sh rounded to an integer, and whether that is inexact. -/
def roundShift (rm : Rnd) (neg : Bool) (m sh : Nat) : Nat × Bool :=
  let q := m / 2 ^ sh
  let r := m % 2 ^ sh
  if r == 0 then (q, false)
  else
    match rm with
    | .rne => (if decide (2 ^ sh < 2 * r) || (2 * r == 2 ^ sh && q % 2 == 1) then q + 1 else q, true)
    | .rtz => (q, true)
    | .rup => (if neg then q else q + 1, true)
    | .rdn => (if neg then q + 1 else q, true)
    | .rod => (if q % 2 == 0 then q + 1 else q, true)
    | .dyn => (q, true)

/-- m × 2^e rounded to a multiple of 2^q: the multiplier, and whether that is inexact. -/
def roundTo (rm : Rnd) (neg : Bool) (m : Nat) (e q : Int) : Nat × Bool :=
  if q ≤ e then (m * 2 ^ (e - q).toNat, false) else roundShift rm neg m (q - e).toNat

/-- Bits of the largest finite magnitude of a format. -/
def maxFinite (f : Fmt) : Nat :=
  let (eb, mb, _) := fpShape f
  if fpHasInf f then (2 ^ eb - 1) * 2 ^ mb - 1 else if f == .e4m3 then 0x7E else 2 ^ (eb + mb) - 1

/-- An overflowed result (R185, R191). -/
def overflowBits (f : Fmt) (rm : Rnd) (sat neg : Bool) : Nat :=
  let (eb, mb, _) := fpShape f
  if f == .e4m3 then (if sat then 0x7E else 0x7F)
  else if !fpHasInf f || sat then maxFinite f
  else
    let away : Bool := match rm with
      | .rne => true
      | .rup => !neg
      | .rdn => neg
      | .rtz => false
      | .rod => false
      | .dyn => false
    if away then (2 ^ eb - 1) * 2 ^ mb else maxFinite f

/-- A finite magnitude rounded once to an FP format: its bits and OF, UF, NX (R184, R185, R190). -/
def packFin (f : Fmt) (rm : Rnd) (sat neg : Bool) (m : Nat) (e : Int) : Nat × Flags :=
  let (eb, mb, bias) := fpShape f
  let sign := bitCode neg * 2 ^ (eb + mb)
  if m == 0 then (sign, 0)
  else
    let top : Int := e + Nat.log2 m
    let emin : Int := 1 - (bias : Int)
    -- rounded with an unbounded exponent
    let u := roundTo rm neg m e (top - mb)
    let utop := if u.1 == 2 ^ (mb + 1) then top + 1 else top
    let tiny := decide (utop < emin)
    -- rounded with the format's own precision
    let q := max (top - mb) (emin - mb)
    let d := roundTo rm neg m e q
    -- bits as (exponent field, mantissa) run on: quantum emin − mb is field 0 or 1
    let bits := d.1 + (q - (emin - mb)).toNat * 2 ^ mb
    if maxFinite f < bits then (sign + overflowBits f rm sat neg, flagOF ||| flagNX)
    else (sign + bits, flagIf (tiny && d.2) flagUF ||| flagIf d.2 flagNX)

/-- The canonical FP32 NaN (R180). -/
def nan32 : W32 := 0x7FC00000

/-- A NaN delivered in an FP format (R192). -/
def packNan (f : Fmt) (neg : Bool) (payload : Nat) : Nat :=
  let (eb, mb, _) := fpShape f
  let sign := bitCode neg * 2 ^ (eb + mb)
  if f == .e4m3 then sign + 0x7F
  else sign + (2 ^ eb - 1) * 2 ^ mb + 2 ^ (mb - 1) + payload / 2 ^ (23 - mb)

/-- A finite magnitude to E8M0 (R191). -/
def packE8m0 (rm : Rnd) (sat : Bool) (m : Nat) (e : Int) : Nat × Flags :=
  if m == 0 then (0, flagUF ||| flagNX)
  else
    let k : Int := e + Nat.log2 m
    let exact := m == 2 ^ Nat.log2 m
    let up : Bool := match rm with
      | .rup => !exact
      | .rne => decide (3 * 2 ^ Nat.log2 m ≤ 2 * m)
      | .rtz => false
      | .rdn => false
      | .rod => false
      | .dyn => false
    let r := if up then k + 1 else k
    if 127 < r then (if sat then 0xFE else 0xFF, flagOF ||| flagNX)
    else if r < -127 then (0, flagUF ||| flagNX)
    else ((r + 127).toNat, flagIf (!exact) flagNX)

/-- Ends of an integer format (R182). -/
def intLow (f : Fmt) : Int := if isUnsigned f then 0 else -((2 : Int) ^ (fmtBits f - 1))
def intHigh (f : Fmt) : Int := if isUnsigned f then (2 : Int) ^ fmtBits f - 1 else (2 : Int) ^ (fmtBits f - 1) - 1

/-- An integer as the bits of a format. -/
def intBits (f : Fmt) (i : Int) : Nat := (i % (2 : Int) ^ fmtBits f).toNat

/-- Conversion of a value to a format (R190 to R192): bits and flags. -/
def convert (f : Fmt) (rm : Rnd) (sat : Bool) (v : FVal) : Nat × Flags :=
  if isInt f then
    match v with
    | .nan _ _ _ => (0, flagNV)
    | .inf neg => (intBits f (if neg then intLow f else intHigh f), flagNV)
    | .fin neg m e =>
      let r := roundTo rm neg m e 0
      let i : Int := if neg then -(r.1 : Int) else r.1
      if i < intLow f then (intBits f (intLow f), flagNV)
      else if intHigh f < i then (intBits f (intHigh f), flagNV)
      else (intBits f i, flagIf r.2 flagNX)
  else if f == .e8m0 then
    match v with
    | .nan _ quiet _ => (0xFF, flagIf (!quiet) flagNV)
    | .inf _ => if sat then (0xFE, flagNX) else (0xFF, flagNV)
    | .fin _ m e => packE8m0 rm sat m e
  else
    let (eb, mb, _) := fpShape f
    let sign (neg : Bool) : Nat := bitCode neg * 2 ^ (eb + mb)
    match v with
    | .nan neg quiet p =>
      if f == .fp4 then (0, flagNV) else (packNan f neg p, flagIf (!quiet) flagNV)
    | .inf neg =>
      if f == .fp4 then (sign neg + maxFinite f, flagNV)
      else if f == .e4m3 then
        if sat then (sign neg + 0x7E, flagNX) else (sign neg + 0x7F, flagNV)
      else if sat then (sign neg + maxFinite f, flagNX)
      else (sign neg + (2 ^ eb - 1) * 2 ^ mb, 0)
    | .fin neg m e => packFin f rm sat neg m e

/-- A finite value rounded to FP32. -/
def round32 (rm : Rnd) (neg : Bool) (m : Nat) (e : Int) : W32 × Flags :=
  let r := packFin .f32 rm false neg m e
  (BitVec.ofNat 32 r.1, r.2)

/-! ### Exact sums -/

/-- m × 2^e as a signed multiple of 2^q, for q not above e. -/
def signedAt (neg : Bool) (m : Nat) (e q : Int) : Int :=
  let v : Int := m * 2 ^ (e - q).toNat
  if neg then -v else v

/-- Exact sum of two finite values: sign, magnitude, exponent. An exact zero is negative when both are, and for opposite
signs when rounding downward. -/
def sumFin (rm : Rnd) (n1 : Bool) (m1 : Nat) (e1 : Int) (n2 : Bool) (m2 : Nat) (e2 : Int) : Bool × Nat × Int :=
  let q := min e1 e2
  let s := signedAt n1 m1 e1 q + signedAt n2 m2 e2 q
  if s == 0 then (if n1 == n2 then n1 else rm == .rdn, 0, q) else (decide (s < 0), s.natAbs, q)

/-! ### NaN operands (R187) -/

/-- Signalling. -/
def FVal.signalling : FVal → Bool
  | .nan _ quiet _ => !quiet
  | .inf _ => false
  | .fin _ _ _ => false

/-- A NaN. -/
def FVal.isNan : FVal → Bool
  | .nan _ _ _ => true
  | .inf _ => false
  | .fin _ _ _ => false

/-- The lane is quieted. -/
def quiet32 (v : W32) : W32 := v ||| 0x00400000

/-- The first NaN of the operands in their preference order, quieted, with invalid if any is signalling; none when no
operand is a NaN. -/
def nanOf (ops : List W32) : Option (W32 × Flags) :=
  match ops.find? (fun v => (val32 v).isNan) with
  | some v => some (quiet32 v, flagIf (ops.any (fun u => (val32 u).signalling)) flagNV)
  | none => none

/-- Infinity and zero of FP32. -/
def inf32 (neg : Bool) : W32 := if neg then 0xFF800000 else 0x7F800000
def zero32 (neg : Bool) : W32 := if neg then 0x80000000 else 0

/-! ### Arithmetic words -/

/-- Sign bit inverted. -/
def neg32 (v : W32) : W32 := v ^^^ 0x80000000

/-- Sum of two values that are no NaN. -/
def addVal (rm : Rnd) (x y : FVal) : W32 × Flags :=
  match x, y with
  | .inf n1, .inf n2 => if n1 == n2 then (inf32 n1, 0) else (nan32, flagNV)
  | .inf n1, .fin _ _ _ => (inf32 n1, 0)
  | .fin _ _ _, .inf n2 => (inf32 n2, 0)
  | .fin n1 m1 e1, .fin n2 m2 e2 =>
    let s := sumFin rm n1 m1 e1 n2 m2 e2
    round32 rm s.1 s.2.1 s.2.2
  | .nan _ _ _, .nan _ _ _ => (nan32, 0)
  | .nan _ _ _, .inf _ => (nan32, 0)
  | .nan _ _ _, .fin _ _ _ => (nan32, 0)
  | .inf _, .nan _ _ _ => (nan32, 0)
  | .fin _ _ _, .nan _ _ _ => (nan32, 0)

/-- `fadd` on one lane. -/
def fpAdd (rm : Rnd) (a b : W32) : W32 × Flags :=
  match nanOf [a, b] with
  | some r => r
  | none => addVal rm (val32 a) (val32 b)

/-- The value with its sign inverted. -/
def FVal.negate : FVal → FVal
  | .nan n q p => .nan n q p
  | .inf n => .inf (!n)
  | .fin n m e => .fin (!n) m e

/-- `fsub`. -/
def fpSub (rm : Rnd) (a b : W32) : W32 × Flags :=
  match nanOf [a, b] with
  | some r => r
  | none => addVal rm (val32 a) (val32 b).negate

/-- The exact product; none for 0 × ∞. -/
def mulVal (x y : FVal) : Option FVal :=
  match x, y with
  | .fin n1 m1 e1, .fin n2 m2 e2 => some (.fin (n1 != n2) (m1 * m2) (e1 + e2))
  | .inf n1, .inf n2 => some (.inf (n1 != n2))
  | .inf n1, .fin n2 m2 _ => if m2 == 0 then none else some (.inf (n1 != n2))
  | .fin n1 m1 _, .inf n2 => if m1 == 0 then none else some (.inf (n1 != n2))
  | .nan _ _ _, .nan _ _ _ => none
  | .nan _ _ _, .inf _ => none
  | .nan _ _ _, .fin _ _ _ => none
  | .inf _, .nan _ _ _ => none
  | .fin _ _ _, .nan _ _ _ => none

/-- A value that is no NaN rounded to FP32. -/
def deliver (rm : Rnd) : FVal → W32 × Flags
  | .fin n m e => round32 rm n m e
  | .inf n => (inf32 n, 0)
  | .nan _ _ _ => (nan32, 0)

/-- `fmul`. -/
def fpMul (rm : Rnd) (a b : W32) : W32 × Flags :=
  match nanOf [a, b] with
  | some r => r
  | none =>
    match mulVal (val32 a) (val32 b) with
    | some v => deliver rm v
    | none => (nan32, flagNV)

/-- The FMA family (R187, R209): a × b, negated when `np`, plus z, negated when `nz`. -/
def fpFma (rm : Rnd) (np nz : Bool) (a b z : W32) : W32 × Flags :=
  match nanOf [z, a, b] with
  | some r => r
  | none =>
    match mulVal (val32 a) (val32 b) with
    | some p => addVal rm (if np then p.negate else p) (if nz then (val32 z).negate else val32 z)
    | none => (nan32, flagNV)

/-- Order of values that are no NaN, −0 below +0: a is below b. -/
def belowTotal (a b : W32) : Bool :=
  let key (v : W32) : Int := if v.getLsbD 31 then -((v.toNat % 2 ^ 31 : Nat) : Int) - 1 else (v.toNat % 2 ^ 31 : Nat)
  decide (key a < key b)

/-- `fmin` and `fmax` (R188). -/
def fpMinMax (isMax : Bool) (a b : W32) : W32 × Flags :=
  let sn := flagIf ((val32 a).signalling || (val32 b).signalling) flagNV
  match (val32 a).isNan, (val32 b).isNan with
  | true, true => ((nanOf [a, b]).map Prod.fst |>.getD nan32, sn)
  | true, false => (b, sn)
  | false, true => (a, sn)
  | false, false => (if belowTotal a b == isMax then b else a, sn)

/-! ### Special functions (R189) -/

/-- Square root, rounded down, of a number below 2^(2 n). -/
def isqrt (v : Nat) : Nat → Nat → Nat
  | 0, r => r
  | n + 1, r => if (r + 2 ^ n) * (r + 2 ^ n) ≤ v then isqrt v n (r + 2 ^ n) else isqrt v n r

/-- A magnitude with its sticky bit below it. -/
def sticky (q : Nat) (exact : Bool) : Nat := 2 * q + bitCode (!exact)

/-- `fdiv`. -/
def fpDiv (rm : Rnd) (a b : W32) : W32 × Flags :=
  match nanOf [a, b] with
  | some r => r
  | none =>
    match val32 a, val32 b with
    | .inf _, .inf _ => (nan32, flagNV)
    | .inf n1, .fin n2 _ _ => (inf32 (n1 != n2), 0)
    | .fin n1 _ _, .inf n2 => (zero32 (n1 != n2), 0)
    | .fin n1 m1 e1, .fin n2 m2 e2 =>
      if m2 == 0 then (if m1 == 0 then (nan32, flagNV) else (inf32 (n1 != n2), flagDZ))
      else
        let q := m1 * 2 ^ 80 / m2
        round32 rm (n1 != n2) (sticky q (q * m2 == m1 * 2 ^ 80)) (e1 - e2 - 81)
    | .nan _ _ _, .nan _ _ _ => (nan32, 0)
    | .nan _ _ _, .inf _ => (nan32, 0)
    | .nan _ _ _, .fin _ _ _ => (nan32, 0)
    | .inf _, .nan _ _ _ => (nan32, 0)
    | .fin _ _ _, .nan _ _ _ => (nan32, 0)

/-- `frcp`. -/
def fpRcp (rm : Rnd) (a : W32) : W32 × Flags :=
  match nanOf [a] with
  | some r => r
  | none => fpDiv rm 0x3F800000 a

/-- Magnitude and exponent with an even exponent. -/
def evenExp (m : Nat) (e : Int) : Nat × Int := if e % 2 == 0 then (m, e) else (2 * m, e - 1)

/-- `fsqrt`. -/
def fpSqrt (rm : Rnd) (a : W32) : W32 × Flags :=
  match val32 a with
  | .nan _ _ _ => (nanOf [a]).getD (nan32, 0)
  | .inf neg => if neg then (nan32, flagNV ||| flagNRT) else (a, 0)
  | .fin neg m e =>
    if m == 0 then (a, flagNRT)
    else if neg then (nan32, flagNV ||| flagNRT)
    else
      let p := evenExp m e
      let v := p.1 * 2 ^ 80
      let q := isqrt v 64 0
      round32 rm false (sticky q (q * q == v)) (p.2 / 2 - 41)

/-- `frsqrt`. -/
def fpRsqrt (rm : Rnd) (a : W32) : W32 × Flags :=
  match val32 a with
  | .nan _ _ _ => (nanOf [a]).getD (nan32, 0)
  | .inf neg => if neg then (nan32, flagNV ||| flagNRT) else (0, 0)
  | .fin neg m e =>
    if m == 0 then (inf32 neg, flagDZ ||| flagNRT)
    else if neg then (nan32, flagNV ||| flagNRT)
    else
      let p := evenExp m e
      let q := isqrt (2 ^ 160 / p.1) 81 0
      round32 rm false (sticky q (q * q * p.1 == 2 ^ 160)) (-(p.2 / 2) - 81)

/-- Bits of the fixed-point numbers of the transcendental functions. -/
def fixBits : Nat := 320

/-- ln 2 in units of 2^−320. -/
def fixLn2 : Nat := 1480553391661173448385607439722553250922680800745876974795605978609098082859138712941075737848984

/-- Terms of the exponential series for t below 1, in fixed point: the sum of t^k ÷ k! from term k on, whose value is
`term`. -/
def expSeries (t : Nat) : Nat → Nat → Nat → Nat
  | 0, _, _ => 0
  | fuel + 1, k, term => term + expSeries t fuel (k + 1) (term * t / 2 ^ fixBits / (k + 1))

/-- e^t for a fixed-point t: a fixed-point mantissa in [1, 2) and the power of two with it. -/
def fixExp (t : Nat) : Nat × Nat := (expSeries (t % fixLn2) 80 0 (2 ^ fixBits), t / fixLn2)

/-- `fexp2` on a finite operand that is no zero. Beyond ±160 the result rounds as 2^±160 would. -/
def exp2Fin (rm : Rnd) (neg : Bool) (m : Nat) (e : Int) : W32 × Flags :=
  if 8 < e + Nat.log2 m then
    (if neg then round32 rm false 3 (-200) else round32 rm false 3 200)
  else
    let q := if 0 ≤ e then m * 2 ^ e.toNat * 2 ^ fixBits else m * 2 ^ fixBits / 2 ^ (-e).toNat
    let exact := decide (-320 ≤ e)
    let i := q / 2 ^ fixBits
    let f := q % 2 ^ fixBits
    if f == 0 && exact then round32 rm false 1 (if neg then -(i : Int) else i)
    else if neg then
      -- 2^−(i + f) = 2^−(i + 1) × 2^(1 − f)
      let x := expSeries ((2 ^ fixBits - f) * fixLn2 / 2 ^ fixBits) 80 0 (2 ^ fixBits)
      if decide (2 ^ (fixBits + 1) ≤ x) || f == 0 then round32 rm false (2 ^ 100 - 1) (-(i : Int) - 100)
      else round32 rm false (sticky x false) (-(i : Int) - 1 - fixBits - 1)
    else
      let x := expSeries (f * fixLn2 / 2 ^ fixBits) 80 0 (2 ^ fixBits)
      round32 rm false (sticky x false) ((i : Int) - fixBits - 1)

/-- `fexp2`. -/
def fpExp2 (rm : Rnd) (a : W32) : W32 × Flags :=
  match val32 a with
  | .nan _ _ _ => (nanOf [a]).getD (nan32, 0)
  | .inf neg => (if neg then 0 else inf32 false, 0)
  | .fin neg m e => if m == 0 then (0x3F800000, 0) else exp2Fin rm neg m e

/-- Series of the inverse hyperbolic tangent in fixed point: the sum of z^(2k+1) ÷ (2k+1) from term k on. -/
def atanhSeries (z2 : Nat) : Nat → Nat → Nat → Nat
  | 0, _, _ => 0
  | fuel + 1, k, pw => pw / (2 * k + 1) + atanhSeries z2 fuel (k + 1) (pw * z2 / 2 ^ fixBits)

/-- log2 of a fixed-point number in [1, 2). -/
def fixLog2 (y : Nat) : Nat :=
  let z := (y - 2 ^ fixBits) * 2 ^ fixBits / (y + 2 ^ fixBits)
  2 * atanhSeries (z * z / 2 ^ fixBits) 110 0 z * 2 ^ fixBits / fixLn2

/-- `flog2`. -/
def fpLog2 (rm : Rnd) (a : W32) : W32 × Flags :=
  match val32 a with
  | .nan _ _ _ => (nanOf [a]).getD (nan32, 0)
  | .inf neg => if neg then (nan32, flagNV) else (a, 0)
  | .fin neg m e =>
    if m == 0 then (inf32 true, flagDZ)
    else if neg then (nan32, flagNV)
    else
      let l := Nat.log2 m
      let k : Int := e + l
      if m == 2 ^ l then round32 rm (decide (k < 0)) k.natAbs 0
      else
        let v : Int := k * 2 ^ fixBits + fixLog2 (m * 2 ^ (fixBits - l))
        round32 rm (decide (v < 0)) (sticky v.natAbs false) (-(fixBits : Int) - 1)

/-- `ftanh` on a finite operand that is no zero: near zero it lies just below the operand's magnitude, far out just below
1. -/
def tanhFin (rm : Rnd) (neg : Bool) (m : Nat) (e : Int) : W32 × Flags :=
  let top := e + Nat.log2 m
  if top < -30 then round32 rm neg (m * 2 ^ 40 - 1) (e - 40)
  else if 5 < top then round32 rm neg (2 ^ 100 - 1) (-100)
  else
    let t := if 0 ≤ e + 1 then m * 2 ^ (e + 1).toNat * 2 ^ fixBits else m * 2 ^ fixBits / 2 ^ (-(e + 1)).toNat
    let x := fixExp t
    let big := x.1 * 2 ^ x.2
    let q := (big - 2 ^ fixBits) * 2 ^ fixBits / (big + 2 ^ fixBits)
    round32 rm neg (sticky q false) (-(fixBits : Int) - 1)

/-- `ftanh`. -/
def fpTanh (rm : Rnd) (a : W32) : W32 × Flags :=
  match val32 a with
  | .nan _ _ _ => (nanOf [a]).getD (nan32, 0)
  | .inf neg => (if neg then 0xBF800000 else 0x3F800000, 0)
  | .fin neg m e => if m == 0 then (a, 0) else tanhFin rm neg m e

/-! ### Comparison (09_vector R213) -/

/-- Equal, below, unordered for two lanes. -/
def fpOrder (a b : W32) : Bool × Bool × Bool :=
  if (val32 a).isNan || (val32 b).isNan then (false, false, true)
  else if a.toNat % 2 ^ 31 == 0 && b.toNat % 2 ^ 31 == 0 then (true, false, false)
  else (a == b, belowTotal a b, false)

end Sys2Proof.Machine
end

