-- ==== Sys2Proof/Machine/Lanes.lean ====
section
/-! DEFINITION. What vector words compute, lane by lane, from the lanes of their sources (09_vector R208 to R222,
07_registers R163, 08_numbers R199). The same functions serve a word at issue and a word of a recipe (R173). -/

namespace Sys2Proof.Machine

open Sys2Proof

/-! ### What a vector word sees -/

/-- The inputs of a vector word: the lanes of v_a, v_b and the old v_d, the active shape and element format of SHP, FCS.RM,
and the lanes that its mask select allows. -/
structure VIn where
  a : List W32
  b : List W32
  d : List W32
  rows : Nat
  cols : Nat
  fmt : Fmt
  rm : Rnd
  sel : Nat → Bool

/-- A vector word: the lanes of its destination and the flags it raises. -/
abbrev VecFn := VIn → List W32 × Flags

/-- Lane n, which is (n div 64, n mod 64), is active (R162). -/
def VIn.active (i : VIn) (n : Nat) : Bool := decide (n / 64 < i.rows) && decide (n % 64 < i.cols)

/-- Lane n is computed and written. -/
def VIn.on (i : VIn) (n : Nat) : Bool := i.active n && i.sel n

/-- Lanes from number n on: where `act` holds, the value and the flags of `f`; elsewhere the destination's lane. -/
def laneLoop (act : Nat → Bool) (f : W32 → W32 → W32 → W32 × Flags) :
    Nat → List W32 → List W32 → List W32 → List W32 × Flags
  | n, a :: as, b :: bs, d :: ds =>
    let rest := laneLoop act f (n + 1) as bs ds
    if act n then
      let v := f a b d
      (v.1 :: rest.1, v.2 ||| rest.2)
    else (d :: rest.1, rest.2)
  | _, _, _, ds => (ds, 0)

/-- A lane-wise word with flags. -/
def vecFp (f : Rnd → W32 → W32 → W32 → W32 × Flags) : VecFn := fun i => laneLoop i.on (f i.rm) 0 i.a i.b i.d

/-- A lane-wise word without flags. -/
def vecBits (f : Fmt → W32 → W32 → W32) : VecFn := fun i => laneLoop i.on (fun a b _ => (f i.fmt a b, 0)) 0 i.a i.b i.d

/-- A word that moves lanes: lane (r, c) takes the source's lane of the given number. -/
def vecMove (src : VIn → Nat → Nat → Nat) : VecFn := fun i =>
  ((List.range 1024).zipWith (fun n d => if i.on n then (i.a[src i (n / 64) (n % 64)]?).getD 0 else d) i.d, 0)

/-! ### Integer elements (R212) -/

/-- Width of the elements of SHP.FMT. -/
def elemWidth (f : Fmt) : Nat := if f == .f32 then 32 else fmtBits f

/-- The elements are signed. -/
def elemSigned (f : Fmt) : Bool := !isUnsigned f

/-- Element e of a lane (08_numbers R183). -/
def elemAt (w : Nat) (v : W32) (e : Nat) : Nat := v.toNat / 2 ^ (w * e) % 2 ^ w

/-- A lane from its elements. -/
def laneOf (w : Nat) (g : Nat → Nat) : W32 :=
  BitVec.ofNat 32 ((List.range (32 / w)).foldl (fun n e => n + g e % 2 ^ w * 2 ^ (w * e)) 0)

/-- An element as an integer. -/
def elemInt (f : Fmt) (v : Nat) : Int := if elemSigned f then toSigned (elemWidth f) v else v

/-- An integer modulo 2^w. -/
def wrapInt (w : Nat) (i : Int) : Nat := (i % (2 : Int) ^ w).toNat

/-- A word over the elements of two lanes as integers. -/
def vecInt (g : Nat → Int → Int → Int) : VecFn :=
  vecBits (fun f a b =>
    let w := elemWidth f
    laneOf w (fun e => wrapInt w (g w (elemInt f (elemAt w a e)) (elemInt f (elemAt w b e)))))

/-- A word over the elements of one lane as bits. -/
def vecElem (g : Nat → Nat → Nat) : VecFn :=
  vecBits (fun f a _ =>
    let w := elemWidth f
    laneOf w (fun e => g w (elemAt w a e)))

/-- A shift: the amount is unsigned. -/
def vecShift (g : Nat → Int → Nat → Int) : VecFn :=
  vecBits (fun f a b =>
    let w := elemWidth f
    laneOf w (fun e => wrapInt w (g w (elemInt f (elemAt w a e)) (elemAt w b e))))

/-- x × 2^y, or 0 when y is at least w. -/
def shlInt (w : Nat) (x : Int) (y : Nat) : Int := if y < w then x * 2 ^ y else 0

/-- ⌊x ÷ 2^y⌋; at w and beyond only the sign is left. -/
def shrInt (w : Nat) (x : Int) (y : Nat) : Int := if y < w then x.fdiv (2 ^ y) else if x < 0 then -1 else 0

/-- Leading zero bits of an element within w bits. -/
def clzElem (w v : Nat) : Nat := if v == 0 then w else w - 1 - Nat.log2 v

/-- One bits of an element. -/
def popElem (w v : Nat) : Nat := (List.range w).foldl (fun n i => n + v / 2 ^ i % 2) 0

/-! ### Conversions (R215, R216, R197) -/

/-- The conversion of one source lane. -/
def convLane (f : Fmt) (rm : Rnd) (sat : Bool) (v : W32) : Nat × Flags :=
  if f == .f32 then convert .f32 rm sat (unpack .i32 v.toNat) else convert f rm sat (val32 v)

/-- Column c' of row r of a packing conversion: the elements q × c' and on, within the active columns. -/
def packLane (i : VIn) (f : Fmt) (rm : Rnd) (sat : Bool) (r c : Nat) : W32 × Flags :=
  let w := fmtBits f
  let q := 32 / w
  (List.range q).foldl (fun acc e =>
    if q * c + e < i.cols then
      let v := convLane f rm sat (lane i.a r (q * c + e))
      (acc.1 ||| BitVec.ofNat 32 (v.1 % 2 ^ w * 2 ^ (w * e)), acc.2 ||| v.2)
    else acc) (0, 0)

/-- `cvt` and `cvta` (R216). -/
def vecCvt (f : Fmt) (rnd : Rnd) (sat : Bool) : VecFn := fun i =>
  let rm := if rnd == .dyn then i.rm else rnd
  if fmtBits f == 32 then
    laneLoop i.on (fun a _ _ => let v := convLane f rm sat a; (BitVec.ofNat 32 v.1, v.2)) 0 i.a i.b i.d
  else
    let vs := ((List.range 1024).zipWith (fun n d =>
      if i.active n then packLane i f rm sat (n / 64) (n % 64) else (d, 0)) i.d)
    (vs.map Prod.fst, vs.foldl (fun x v => x ||| v.2) 0)

/-- The FP32 value of a source of a conversion, as R197 takes it. -/
def amSource (f : Fmt) (v : W32) : W32 :=
  if f == .f32 then BitVec.ofNat 32 (convert .f32 .rup false (unpack .i32 v.toNat)).1 else v

/-- NS in bit 31 and MAG below it, raised by one FP32 value (R197). -/
def amStep (am v : W32) : W32 :=
  if (val32 v).isNan then am ||| 0x80000000
  else if am &&& 0x7FFFFFFF < v &&& 0x7FFFFFFF then (am &&& 0x80000000) ||| (v &&& 0x7FFFFFFF)
  else am

/-- A max-magnitude register raised by another. -/
def amJoin (am u : W32) : W32 :=
  (am ||| u) &&& 0x80000000 ||| (if am &&& 0x7FFFFFFF < u &&& 0x7FFFFFFF then u &&& 0x7FFFFFFF else am &&& 0x7FFFFFFF)

/-- What a `cvta` adds to its register: over the lanes it converts. -/
def vecAm (f : Fmt) (i : VIn) : W32 :=
  (i.a.zipIdx.filter (fun p => i.on p.2)).foldl (fun am p => amStep am (amSource f p.1)) 0

/-! ### Axis words (R217 to R219) -/

/-- Source lane of `rot` (R217): the destination n places on. -/
def rotSrc (ax : Axis) (n : Nat) (i : VIn) (r c : Nat) : Nat :=
  match ax with
  | .row => 64 * r + (c + i.cols - n % i.cols) % i.cols
  | .col => 64 * ((r + i.rows - n % i.rows) % i.rows) + c

/-- Source lane of `bcast` (R217). -/
def bcastSrc (ax : Axis) (n : Nat) (i : VIn) (r c : Nat) : Nat :=
  match ax with
  | .row => 64 * r + n % i.cols
  | .col => 64 * (n % i.rows) + c

/-- Source lane of `xpose` (R219). -/
def xposeSrc (_i : VIn) (r c : Nat) : Nat := 64 * (c % 16) + 16 * (c / 16) + r

/-- One pass of R199: element j of the second half is combined into element j of the first. -/
def redPass (f : W32 → W32 → W32 × Flags) (xs : List W32) : List W32 × Flags :=
  let h := (xs.length + 1) / 2
  let hi := xs.drop h
  let ps := (xs.take h).zipWith f hi
  (ps.map Prod.fst ++ (xs.take h).drop hi.length, ps.foldl (fun x p => x ||| p.2) 0)

/-- The reduction of a list in the order of R199; 64 elements take six passes. -/
def redTree (f : W32 → W32 → W32 × Flags) : Nat → List W32 → W32 × Flags
  | 0, xs => (xs.headD 0, 0)
  | n + 1, xs =>
    if xs.length ≤ 1 then (xs.headD 0, 0)
    else
      let p := redPass f xs
      let r := redTree f n p.1
      (r.1, p.2 ||| r.2)

/-- The step of a reduction (R218). -/
def redStep (op : RedOp) (rm : Rnd) (f : Fmt) (a b : W32) : W32 × Flags :=
  let w := elemWidth f
  let int (g : Int → Int → Int) : W32 × Flags :=
    (laneOf w (fun e => wrapInt w (g (elemInt f (elemAt w a e)) (elemInt f (elemAt w b e)))), 0)
  match op with
  | .fadd => fpAdd rm a b
  | .fmax => fpMinMax true a b
  | .fmin => fpMinMax false a b
  | .add => int (fun x y => x + y)
  | .max => int max
  | .min => int min
  | .and => (a &&& b, 0)
  | .or => (a ||| b, 0)

/-- `red` (R218). -/
def vecRed (ax : Axis) (op : RedOp) : VecFn := fun i =>
  let line (j : Nat) : List W32 :=
    match ax with
    | .row => (List.range i.cols).map (fun c => lane i.a j c)
    | .col => (List.range i.rows).map (fun r => lane i.a r j)
  let rs := (List.range (match ax with
    | .row => i.rows
    | .col => i.cols)).map (fun j => redTree (redStep op i.rm i.fmt) 6 (line j))
  let place (n : Nat) : Nat :=
    match ax with
    | .row => n / 64
    | .col => n % 64
  ((List.range 1024).zipWith (fun n d => if i.on n then ((rs[place n]?).getD (0, 0)).1 else d) i.d,
    rs.foldl (fun x p => x ||| p.2) 0)

/-! ### The bit network (R221) -/

/-- A lane through a pattern: entries 0 to 31, SRC[4:0]. -/
def laneNet (pat : List Byte) (x : W32) : W32 :=
  (pat.take 32).zipIdx.foldl (fun (y : W32) p =>
    let bit := !p.1.getLsbD 7 && (x.getLsbD (p.1.toNat % 32) != p.1.getLsbD 6)
    if bit then y ||| (1#32 <<< p.2) else y) 0

/-- `vbx`. -/
def vecBx (pat : List Byte) : VecFn := vecBits (fun _ a _ => laneNet pat a)

/-- The pattern that `vbxl` loads: byte (i mod 4) of lane (row0, i div 4). -/
def patOf (l : List W32) : List Byte :=
  (List.range 64).map (fun i => ((l[i / 4]?).getD 0 >>> (8 * (i % 4))).setWidth 8)

/-! ### Comparison (R213) -/

/-- The condition on a pair of lanes, and the flags it raises. -/
def cmpLane (cond : Cond) (f : Fmt) (x y : W32) : Bool × Flags :=
  if f == .f32 then
    let o := fpOrder x y
    let eq := o.1
    let lt := o.2.1
    let uo := o.2.2
    let sn := flagIf ((val32 x).signalling || (val32 y).signalling) flagNV
    let nv := sn ||| flagIf uo flagNV
    match cond with
    | .eq => (eq, sn)
    | .ne => (!eq, sn)
    | .lt => (lt, nv)
    | .le => (lt || eq, nv)
    | .gt => (!lt && !eq && !uo, nv)
    | .ge => (!lt && !uo, nv)
    | .uo => (uo, sn)
    | .ord => (!uo, sn)
  else
    let lt := if f == .i32 then x.slt y else x.ult y
    (match cond with
      | .eq => x == y
      | .ne => x != y
      | .lt => lt
      | .le => lt || x == y
      | .gt => !lt && x != y
      | .ge => !lt
      | .uo => false
      | .ord => true, 0)

/-- `cmp`: the new mask, as a number, and the flags. `old` is the mask before. -/
def vecCmp (cond : Cond) (i : VIn) (old : BitVec 1024) : BitVec 1024 × Flags :=
  let ps := ((i.a.zip i.b).zipIdx).map (fun p => if i.active p.2 then cmpLane cond i.fmt p.1.1 p.1.2 else (old.getLsbD p.2, 0))
  (BitVec.ofNat 1024 (natOfBits (ps.map Prod.fst)), ps.foldl (fun x p => x ||| p.2) 0)

/-- `sel`: v_a where the selector's bit is set (R214). -/
def vecSel (m : BitVec 1024) : VecFn := fun i =>
  ((List.range 1024).zipWith (fun n d => if i.active n then (if m.getLsbD n then i.a[n]?.getD 0 else i.b[n]?.getD 0) else d) i.d, 0)

/-! ### Draft trees (R222) -/

/-- Rows of the tree from node n on, given the parents from n on and the rows before. -/
def treeRows : Nat → List W32 → List Nat → List Nat
  | _, [], rows => rows
  | n, p :: ps, rows =>
    let row : Nat :=
      if p == 0xFFFFFFFF then 2 ^ n
      else
        match rows[p.toNat]? with
        | some r => if p.toNat < n && r != 0 then r ||| 2 ^ n else 0
        | none => 0
    treeRows (n + 1) ps (rows ++ [row])

/-- The four masks: row n mod 16 of mask n div 16 is node n's row. -/
def treeMasks (parents : List W32) : List (BitVec 1024) :=
  let rows := treeRows 0 (parents.take 64) []
  (List.range 4).map (fun q =>
    BitVec.ofNat 1024 (((rows.drop (16 * q)).take 16).zipIdx.foldl (fun x p => x + p.1 * 2 ^ (64 * p.2)) 0))

/-! ### The words of a recipe (R168) -/

/-- What a vector word that a recipe may hold computes. -/
def vecOf (i : Instr) : Option VecFn :=
  match i with
  | .fadd _ => some (vecFp (fun rm a b _ => fpAdd rm a b))
  | .fsub _ => some (vecFp (fun rm a b _ => fpSub rm a b))
  | .fmul _ => some (vecFp (fun rm a b _ => fpMul rm a b))
  | .fdiv _ => some (vecFp (fun rm a b _ => fpDiv rm a b))
  | .fmin _ => some (vecFp (fun _ a b _ => fpMinMax false a b))
  | .fmax _ => some (vecFp (fun _ a b _ => fpMinMax true a b))
  | .fma _ => some (vecFp (fun rm a b z => fpFma rm false false a b z))
  | .fms _ => some (vecFp (fun rm a b z => fpFma rm false true a b z))
  | .fnma _ => some (vecFp (fun rm a b z => fpFma rm true false a b z))
  | .fnms _ => some (vecFp (fun rm a b z => fpFma rm true true a b z))
  | .cAdd _ => some (vecInt (fun _ x y => x + y))
  | .cSub _ => some (vecInt (fun _ x y => x - y))
  | .cMul _ => some (vecInt (fun _ x y => x * y))
  | .cMulh _ => some (vecInt (fun w x y => (x * y).fdiv (2 ^ w)))
  | .cMin _ => some (vecInt (fun _ x y => min x y))
  | .cMax _ => some (vecInt (fun _ x y => max x y))
  | .cAnd _ => some (vecBits (fun _ a b => a &&& b))
  | .cOr _ => some (vecBits (fun _ a b => a ||| b))
  | .cXor _ => some (vecBits (fun _ a b => a ^^^ b))
  | .cShl _ => some (vecShift shlInt)
  | .cShr _ => some (vecShift shrInt)
  | .cMov _ => some (vecBits (fun _ a _ => a))
  | .fabs _ => some (vecBits (fun _ a _ => a &&& 0x7FFFFFFF))
  | .fneg _ => some (vecBits (fun _ a _ => neg32 a))
  | .fsqrt _ => some (vecFp (fun rm a _ _ => fpSqrt rm a))
  | .frcp _ => some (vecFp (fun rm a _ _ => fpRcp rm a))
  | .frsqrt _ => some (vecFp (fun rm a _ _ => fpRsqrt rm a))
  | .fexp2 _ => some (vecFp (fun rm a _ _ => fpExp2 rm a))
  | .flog2 _ => some (vecFp (fun rm a _ _ => fpLog2 rm a))
  | .ftanh _ => some (vecFp (fun rm a _ _ => fpTanh rm a))
  | .cAbs _ => some (vecInt (fun _ x _ => x.natAbs))
  | .cNeg _ => some (vecInt (fun _ x _ => -x))
  | .cNot _ => some (vecBits (fun _ a _ => ~~~a))
  | .cClz _ => some (vecElem clzElem)
  | .cPopc _ => some (vecElem popElem)
  | .cvt _ fmt rnd => some (vecCvt fmt rnd false)
  | .cvta _ fmt _ sat => some (vecCvt fmt .dyn sat)
  | .rot _ ax n => some (vecMove (rotSrc ax n.toNat))
  | .bcast _ ax n => some (vecMove (bcastSrc ax n.toNat))
  | .red _ ax op => some (vecRed ax op)
  | .xpose _ => some (vecMove xposeSrc)
  | _ => none

end Sys2Proof.Machine
end

