-- ==== Sys2Proof/Machine/COperands.lean ====
section
/-! DEFINITION. The operand forms of C and the issue of a bundle: guards, masks, shape, frames, recipe replay, what a bundle
checks, waits for, pops and writes, and retirement in program order (02_words R43, 07_registers R153 to R178, 08_numbers
R194, R195, 09_vector R203 to R207). -/

namespace Sys2Proof.Machine

open Sys2Proof

/-! ### Names, guards, masks, shape -/

/-- Physical register of a name (R155). -/
def Core.phys (k : Core) (v : BitVec 7) : Nat := physOf k.regs.rrb (nrOf k.pool.rfb) v

/-- Lanes that a read of physical register `p` returns. -/
def Core.vread (k : Core) (p : Nat) : List W32 := (k.regs.preg p).read

/-- Stage bit g of STG is clear: the word does nothing (R41). -/
def Core.guardOff (k : Core) : Guard → Bool
  | none => false
  | some g => !k.regs.stg.getLsbD g.toNat

/-- The guard of a mod field. -/
def modGuard : VMod → Guard
  | .plain => none
  | .mask _ => none
  | .guard g => some g

/-- A mask register. -/
def Core.mask (k : Core) (m : BitVec 3) : BitVec 1024 := k.regs.masks[m.toNat]'m.isLt

/-- The core with a mask register written. -/
def Core.setMask (k : Core) (m : BitVec 3) (v : BitVec 1024) : Core :=
  { k with regs := { k.regs with masks := k.regs.masks.set m.toNat v m.isLt } }

/-- Lanes that a mod field allows. -/
def Core.selOf (k : Core) (m : VMod) : Nat → Bool :=
  match m with
  | .mask i => fun n => (k.mask i).getLsbD n
  | .plain => fun _ => true
  | .guard _ => fun _ => true

/-- Active rows, columns and element format of SHP (R161). -/
def shpRows (v : W32) : Nat := v.toNat / 2 ^ 6 % 16 + 1
def shpCols (v : W32) : Nat := v.toNat % 64 + 1
def shpFmt (v : W32) : Fmt := (Fmt.ofCode (v.toNat / 2 ^ 12 % 16)).getD .f32

/-- The shape is 16 × 64. -/
def shpFull (v : W32) : Bool := shpRows v == 16 && shpCols v == 64

/-- The word writes every lane (R158): full shape and no mask select. -/
def Core.fullWrite (k : Core) (m : VMod) : Bool :=
  shpFull k.regs.shp && (match m with
    | .mask _ => false
    | .plain => true
    | .guard _ => true)

/-! ### Replay (R173) -/

/-- Pinned value of a port footprint (R169): zero outside its shape. -/
def Core.pinLanes (k : Core) (f : PortFoot) : List W32 :=
  (List.range 1024).map (fun n =>
    if n / 64 < f.r && n % 64 < f.c then
      BitVec.ofNat 32 (k.pool.scratch.readLe (f.vbase + (n / 64 * f.rowp + 4 * (n % 64) : Nat)).toNat 4)
    else 0)

/-- A source field of a recipe word: a static register, self, or the pinned value of a port. -/
def Core.recipeSrc (k : Core) (b : Binding) (self : List W32) (v : Nat) : List W32 :=
  if v < 64 then k.vread v
  else if v == 64 then self
  else
    match (b.pins[v - 65]?).join with
    | some f => k.pinLanes f
    | none => zeroLanes

/-- One word of a recipe under the recorded shape and rounding mode. -/
def Core.recipeStep (k : Core) (b : Binding) (self : List W32) (w : Nat) : List W32 :=
  match decodeCWord w with
  | .error _ => self
  | .ok i =>
    match vecOf i with
    | none => self
    | some f =>
      (f { a := k.recipeSrc b self (field w 11 7), b := k.recipeSrc b self (field w 4 7), d := self
           rows := shpRows b.shp, cols := shpCols b.shp, fmt := shpFmt b.shp
           rm := (Rnd.ofCode b.rm.toNat).getD .rne, sel := fun _ => true }).1

/-- The value that a binding gives. -/
def Core.recipeValue (k : Core) (b : Binding) : List W32 :=
  (recipeWords (k.recipe b.k)).foldl (k.recipeStep b) zeroLanes

/-- What a replay comes to: the core with the register TAGGED again, or no free frame. -/
inductive Replay where
  | ok (k : Core)
  | fault

/-- The replay of a DROPPED register, its DROPPED operands first; of any other register, nothing. Bindings make no cycle (R170), so
`fuel` above the number of registers never runs out. It takes a frame of a powered bank while there is one; whether all frames taken are
powered is asked when the bundle issues (R176, R206). -/
def Core.replay (k : Core) : Nat → Nat → Replay
  | 0, _ => .fault
  | fuel + 1, p =>
    let q := k.regs.preg p
    match q.st, q.bind with
    | .dropped, some b =>
      match (recipeStatics (k.recipe b.k)).foldl (fun r v =>
          match r with
          | Replay.ok k => k.replay fuel v
          | Replay.fault => Replay.fault) (Replay.ok k) with
      | .fault => .fault
      | .ok k =>
        match k.poweredFree.or k.freeFrames.head? with
        | none => .fault
        | some f =>
          let v : PReg := { st := .tagged, frame := some f, lanes := k.recipeValue b, bind := some b }
          .ok ({ k with regs := k.regs.setPreg p v }.note .replay 1)
    | .dropped, none => .ok k
    | .empty, _ => .ok k
    | .plain, _ => .ok k
    | .tagged, _ => .ok k
    | .lost, _ => .ok k

/-- The replays of a bundle, one after another. -/
def Core.replays (k : Core) : List Nat → Replay
  | [] => .ok k
  | p :: rest =>
    match k.replay (k.regs.pregs.length + 1) p with
    | .ok k => k.replays rest
    | .fault => .fault

/-! ### The plan of a word -/

/-- What a word does once its bundle issues: lanes written to its destination, flags, changes of recipe bindings, other
effects, and what it leaves for its retirement. -/
structure CEff where
  lanes : Option (List W32)
  flags : Flags
  early : Core → Core
  apply : Core → Core
  ret : Flags → CRetire

/-- A word of C as its bundle sees it: physical registers it reads (R158), the one that it writes now or at retirement,
registers whose state it names otherwise, traps at issue, waits at issue, token pops, a `sema`, whether it waits for every
earlier word to retire (R194), the scratchpad bytes that it writes at its issue, and its effect, computed from the registers as they stand before the bundle. -/
structure CPlan where
  reads : List Nat
  dest : Option Nat
  states : Bool
  check : Core → Option (BitVec 8 × Nat × W64)
  waits : Core → Option Wait
  pops : List QName
  sema : Option (BitVec 6 × Nat)
  drains : Bool
  stores : List Span
  run : Core → CEff

/-- A word of C by its core. -/
abbrev CWord := Core → CPlan

/-- No effect beyond flags. -/
def CEff.of (flags : Flags) (lanes : Option (List W32)) (apply : Core → Core) : CEff :=
  { lanes := lanes, flags := flags, early := fun k => k, apply := apply, ret := fun f => .vec f none [] none }

/-- A word that does nothing: `nop`, and a word whose stage bit is clear. -/
def planNothing : CPlan :=
  { reads := [], dest := none, states := false, check := fun _ => none, waits := fun _ => none, pops := [], sema := none
    drains := false, stores := [], run := fun _ => CEff.of 0 none (fun k => k) }

/-- A word under a guard. -/
def guarded (g : Guard) (p : CWord) : CWord := fun k => if k.guardOff g then planNothing else p k

/-- The inputs of a vector word. -/
def Core.vin (k : Core) (d a b : Nat) (sel : Nat → Bool) : VIn :=
  { a := k.vread a, b := k.vread b, d := k.vread d, rows := shpRows k.regs.shp, cols := shpCols k.regs.shp
    fmt := shpFmt k.regs.shp, rm := fcsRm k.regs.fcs, sel := sel }

/-- A vector word that writes v_d: `addend` says that it reads v_d as a source. -/
def planVec (f : VecFn) (d a b : BitVec 7) (useB addend : Bool) (m : VMod) : CWord := guarded (modGuard m) (fun k =>
  let pd := k.phys d
  let pa := k.phys a
  let pb := k.phys b
  { planNothing with
    reads := pa :: ((if useB then [pb] else []) ++ (if addend || !k.fullWrite m then [pd] else []))
    dest := some pd
    run := fun k =>
      let r := f (k.vin pd pa pb (k.selOf m))
      CEff.of r.2 (some r.1) (fun k => k) })

/-- A three-register vector word. -/
def planV3 (i : Instr) (o : V3) (addend : Bool) : CWord := fun k =>
  match vecOf i with
  | some f => planVec f o.d o.a o.b true addend o.m k
  | none => planNothing

/-- A two-register vector word. -/
def planV2 (i : Instr) (o : V2) : CWord := fun k =>
  match vecOf i with
  | some f => planVec f o.d o.a o.a false false o.m k
  | none => planNothing

/-! ### Frames and writes (R157, R174) -/

/-- A frame is bound to a register that has none, for a word about to write it. -/
def Core.takeFrame (k : Core) (p : Nat) : Core :=
  let q := k.regs.preg p
  if q.frame.isSome then k
  else
    match k.poweredFree with
    | some f => { k with regs := k.regs.setPreg p { q with frame := some f } }
    | none => k

/-- Physical register `p`, which has its frame, is written: its own binding ends, and those that name it. -/
def Core.writePreg (k : Core) (p : Nat) (l : List W32) : Core :=
  let q := k.regs.preg p
  let k := { k with regs := k.regs.setPreg p { st := .plain, frame := q.frame, lanes := l, bind := none } }
  k.invalidateBinds (fun b => k.bindNames b p)

/-! ### Retirement (R207) -/

/-- A matrix word by its number. -/
def Core.mword (k : Core) (id : Nat) : Option MWord := k.matrix.words.find? (fun w => w.id == id)

/-- Bare token field of a matrix word, tile words and draws (R37). -/
def mwordToken (i : Instr) : Token :=
  match i with
  | .tld _ _ _ _ t => t
  | .tst _ _ _ _ t => t
  | .tzero _ _ t => t
  | .tscale _ _ _ t => t
  | .tsave _ _ _ _ t => t
  | .tload _ _ _ _ t => t
  | .draw _ _ _ _ t => t
  | .mmaFp4 o | .mmaI4 o | .mmaN4 o | .mmaE4m3 o | .mmaE5m2 o | .mmaI8 o | .mmaN8 o | .mmaBf16 o | .mmaFp16 o => o.t
  | .mmazFp4 o | .mmazI4 o | .mmazN4 o | .mmazE4m3 o | .mmazE5m2 o | .mmazI8 o | .mmazN8 o | .mmazBf16 o | .mmazFp16 o => o.t
  | _ => 0

/-- Rings of a multiply-accumulate. -/
def mwordRings (i : Instr) : Option (BitVec 3 × BitVec 3) :=
  match i with
  | .mmaFp4 o | .mmaI4 o | .mmaN4 o | .mmaE4m3 o | .mmaE5m2 o | .mmaI8 o | .mmaN8 o | .mmaBf16 o | .mmaFp16 o =>
    some (o.ra, o.rb)
  | .mmazFp4 o | .mmazI4 o | .mmazN4 o | .mmazE4m3 o | .mmazE5m2 o | .mmazI8 o | .mmazN8 o | .mmazBf16 o | .mmazFp16 o =>
    some (o.ra, o.rb)
  | _ => none

/-- Pushes of a matrix word: the tokens of a draw carry its index (11_draw R247). -/
def MWord.pushes (w : MWord) : List (QName × Option W32) :=
  tokPushes .c (mwordToken w.word) (match w.word with
    | .draw _ _ _ _ _ => some (w.res.headD 0)
    | _ => none)

/-- A completed matrix word retires (10_matrix R228, R234, R235, 11_draw R247): its register, ring uses and counts. -/
def Core.retireMat (k : Core) (w : MWord) : Core :=
  let k := { k with matrix := { k.matrix with words := k.matrix.words.filter (fun v => v.id != w.id) } }
  let k := match w.dst with
    | none => k
    | some p =>
      match w.word with
      | .draw _ _ _ _ _ =>
        let l := k.vread p
        k.writePreg p (l.take 4 ++ w.res ++ l.drop 8)
      | _ => k.writePreg p w.vec
  match mwordRings w.word with
  | none => k
  | some (a, b) =>
    let k := (k.modRing a (fun r => r.retire w.tileA)).modRing b (fun r => r.retire w.tileB)
    let dense := (k.matrix.mxcnt.toNat % 2 ^ 32 + w.dense) % 2 ^ 32
    let skip := (k.matrix.mxcnt.toNat / 2 ^ 32 + w.skip) % 2 ^ 32
    { k with matrix := { k.matrix with mxcnt := BitVec.ofNat 64 (skip * 2 ^ 32 + dense) } }

/-- The core with the retirement list of C replaced. -/
def Core.setRet (k : Core) (l : List CRetire) : Core := k.setC { k.seqs.c with ret := l }

/-- A vector word retires: flags, max-magnitude, increment (R194, R197, R207). -/
def Core.retireVec (k : Core) (flags : Flags) (am : Option (BitVec 2 × W32)) (sem : Option (BitVec 6 × Nat)) : Core :=
  let k := if flags == 0 then k else { k with regs := { k.regs with fcs := fcsRaise k.regs.fcs flags } }
  let k := match am with
    | some (j, v) => { k with sys := { k.sys with am := k.sys.am.set j.toNat (amJoin (k.sys.am[j.toNat]'j.isLt) v) j.isLt } }
    | none => k
  match sem with
  | some (i, n) => k.semAdd i n
  | none => k

/-- Words of C retire in program order as far as each is complete; what is left of a retired word is its pushes (R207, R37). -/
def Core.retireC (k : Core) : List CRetire → Core × List CRetire
  | [] => (k, [])
  | .vec flags am pushes sem :: rest =>
    let r := (k.retireVec flags am sem).retireC rest
    (r.1, .vec 0 none pushes none :: r.2)
  | .mat id :: rest =>
    match k.mword id with
    | none => k.retireC rest
    | some w =>
      if w.stage == .done then
        let r := (k.retireMat w).retireC rest
        (r.1, .vec 0 none w.pushes none :: r.2)
      else (k, .mat id :: rest)

/-- Retired words make their pushes in program order, as far as the queues have room (R37). -/
def Core.pushRet (k : Core) : List CRetire → Core
  | [] => k.setRet []
  | .vec flags am pushes sem :: rest =>
    if k.room pushes then (k.pushAll pushes).pushRet rest else k.setRet (.vec flags am pushes sem :: rest)
  | .mat id :: rest => k.setRet (.mat id :: rest)

/-- Every word that can retire now does, and every push that has room is made. -/
def Core.settleC (k : Core) : Core :=
  let r := k.retireC k.seqs.c.ret
  r.1.pushRet r.2

/-- Queues at which C holds the pushes of a retired word (R37, R223). -/
def Core.cHolds (k : Core) : List QName :=
  match k.seqs.c.ret with
  | [] => []
  | .vec _ _ pushes _ :: _ => (pushes.map Prod.fst).filter k.queueFull
  | .mat _ :: _ => []

/-! ### The bundle -/

/-- The bundle in focus waits. -/
def State.cWait (s : State) (w : Wait) : State := s.modHere (fun k => k.setWait .c (some w))

/-- The bundle in focus traps at its first word. -/
def State.cTrap (s : State) (cause : BitVec 8) (detail : Nat) (val : W64) : State := s.raise s.focus.1 .c cause detail val

/-- A register that an issued matrix word has still to write. -/
def Core.awaited (k : Core) (p : Nat) : Bool := k.matrix.words.any (fun w => w.dst == some p)

/-- The bytes of two accesses meet and one of them writes. -/
def Span.clash (a b : Span) : Bool := (a.write || b.write) && decide (a.off < b.off + b.n) && decide (b.off < a.off + a.n)

/-- A matrix word below number `before` that has issued and not started will access bytes that clash with an access, which keeps program
order with it (06_pool R152, 10_matrix R237, 11_draw R245). -/
def Core.clashes (k : Core) (before : Nat) (l : List Span) : Bool :=
  k.matrix.words.any (fun v => v.stage == .issued && decide (v.id < before) && v.spans.any (fun a => l.any a.clash))

/-- Some issued matrix word has still to write a register, or bytes of the scratchpad. -/
def Core.awaitsAny (k : Core) : Bool :=
  k.matrix.words.any (fun w => w.dst.isSome || (w.stage == .issued && w.spans.any (fun a => a.write)))

/-- The bundle must wait for earlier words: registers they have still to write, or their retirement (R194, R206). -/
def Core.bundleHeld (k : Core) (ps : List CPlan) : Bool :=
  ps.any (fun p =>
    (p.reads ++ p.dest.toList).any k.awaited
      || ((p.states || p.reads.any (fun r => (k.regs.preg r).st == .dropped)) && k.awaitsAny)
      || (p.drains && !k.seqs.c.ret.isEmpty))

/-- Destinations that need a frame. -/
def Core.framesNeeded (k : Core) (ps : List CPlan) : List Nat :=
  (ps.filterMap CPlan.dest).filter (fun p => (k.regs.preg p).frame.isNone)

/-- Powered banks hold a free frame for each destination. -/
def Core.framesPowered (k : Core) (n : Nat) : Bool :=
  decide (n ≤ (k.freeFrames.filter (fun f => !k.pool.gated.contains (bankOf f))).length)

/-- A `sema` of the bundle that is not served now. -/
def Core.unserved (k : Core) (ps : List CPlan) : Option (BitVec 6 × Nat) :=
  (ps.filterMap CPlan.sema).find? (fun p => !k.semServed .c p.1 p.2)

/-- The pops and the served `sema` of a bundle, all at its issue (R206). -/
def Core.bundlePop (k : Core) (ps : List CPlan) : Core :=
  let k := k.popAll (ps.flatMap CPlan.pops)
  (ps.filterMap CPlan.sema).foldl (fun k p => k.semTake .c p.1 p.2) k

/-- Addresses of some spans that lie in others. -/
def spansMeet (l m : List Span) : List Nat :=
  (l.flatMap (fun a => (List.range a.n).map (fun i => a.off + i))).filter (fun x =>
    m.any (fun a => decide (a.off ≤ x) && decide (x < a.off + a.n)))

/-- A matrix word of the bundle whose place comes before that of the word that stores. -/
def storesAfter (ps : List (CPlan × CEff)) : Bool :=
  match ps.findIdx? (fun p => !p.1.stores.isEmpty), ps.findIdx? (fun p => !(p.2.ret 0).isVec) with
  | some i, some j => decide (j < i)
  | _, _ => false

/-- The matrix word that a bundle has issued, which accesses the scratchpad at its start, keeps what the bundle's own stores have changed
under it: it reads as before the bundle (R43), and a `tsave` leaves the bytes of a later word of the bundle (06_pool R152). -/
def Core.keepBytes (k old : Core) (ps : List (CPlan × CEff)) : Core :=
  let stores := ps.flatMap (fun p => p.1.stores)
  if stores.isEmpty then k
  else
    { k with matrix := { k.matrix with words := k.matrix.words.map (fun w =>
        if w.id < old.matrix.nextId then w
        else
          let reads := w.spans.filter (fun a => !a.write)
          let writes := if storesAfter ps then w.spans.filter (fun a => a.write) else []
          { w with kept := (spansMeet stores reads).map (fun x => (x, old.pool.scratch.read x))
                           ++ (spansMeet stores writes).map (fun x => (x, k.pool.scratch.read x)) }) } }

/-- The effects of a bundle: frames, then bindings tagged or dropped, then registers, then the rest; `end_` is the offset
after it (R43, R157, R178). A binding made by the bundle does not outlive the bundle's own writes to its operands. -/
def Core.bundleWrite (k : Core) (ps : List (CPlan × CEff)) (end_ : W64) : Core :=
  let k := (k.framesNeeded (ps.map Prod.fst)).foldl Core.takeFrame k
  let k := ps.foldl (fun k p => p.2.early k) k
  let k := ps.foldl (fun k p =>
    match p.1.dest, p.2.lanes with
    | some d, some l => (k.writePreg d l).note .vector 1
    | some _, none => k
    | none, _ => k) k
  let q := k.seqs.c
  let k := k.setC { q with pc := end_, popped := false, ret := q.ret ++ ps.map (fun p => p.2.ret p.2.flags)
                           fault := none, wait := none, stall := 0 }
  let k := (ps.foldl (fun k p => p.2.apply k) (k.leaveWait .c)).keepBytes k ps
  k.settleC

/-- A bundle issues (R206): it waits for what earlier words still write; a read of a LOST register and a replay without a
frame trap (R173); the traps of its words; frames (R157); its waits; pops and `sema` together; then its flags, which trap
when enabled (R195), and its effects. A bundle that waits or traps leaves its replays undone. A LOST register comes before a replay, the
words' own checks before the want of a frame, and the words see the registers as the replays leave them (log 38); C joins the waiters of
its semaphore when nothing else but the power of a bank holds the bundle (log 103). The power of the banks of its frames comes last:
a bank powers up for a bundle that is otherwise to issue (R176). -/
def State.cBundle (s : State) (ws : List CWord) : State :=
  let k := s.here
  let ps := ws.map (fun w => w k)
  let reads := ps.flatMap CPlan.reads
  let end_ := k.seqs.c.pc + BitVec.ofNat 64 (4 * ws.length)
  if !k.cHolds.isEmpty then s.cWait (.push k.cHolds)
  else if k.bundleHeld ps then s.cWait .other
  else if reads.any (fun p => (k.regs.preg p).st == .lost) then s.cTrap causeRecipeLost 0x01 0
  else
    match k.replays reads with
    | .fault => s.cTrap causeRecipeLost 0x02 0
    | .ok k1 =>
      match ps.findSome? (fun p => p.check k1) with
      | some t => s.cTrap t.1 t.2.1 t.2.2
      | none =>
        let need := k1.framesNeeded ps
        if k1.freeFrames.length < need.length then s.cTrap causeMisaligned 0x09 0
        else
          match ps.findSome? (fun p => p.waits k1) with
          | some w => s.cWait w
          | none =>
            let popped := k.seqs.c.popped
            let qs := ps.flatMap CPlan.pops
            if !popped && !k1.canPop qs then s.cWait (.pop (k1.emptyOf qs))
            else
              match (if popped then none else k1.unserved ps) with
              | some (i, n) => (s.modHere (fun k => k.joinWait .c (.sem i n))).cWait (.sema i)
              | none =>
                if !k.framesPowered (need.length + (k.freeFrames.length - k1.freeFrames.length)) then s.cWait .frame
                else
                  let es := ps.map (fun p => p.run k1)
                  let flags := es.foldl (fun f e => f ||| e.flags) 0
                  let en := fcsEn k.regs.fcs
                  if en != 0 && en &&& flags != 0 then
                    let s := s.modHere (fun k =>
                      let k := if popped then k else k.bundlePop ps
                      k.setC { k.seqs.c with popped := true })
                    s.cTrap causeFp flags.toNat 0
                  else
                    s.modHere (fun _ => (if popped then k1 else k1.bundlePop ps).bundleWrite (ps.zip es) end_)

end Sys2Proof.Machine
end

