-- ==== Sys2Proof/Machine/CArith.lean ====
section
/-! DEFINITION. The words of C's arithmetic pipe (09_vector R208 to R214): what they compute stands in Lanes.lean. -/

namespace Sys2Proof.Machine

open Sys2Proof

/-! ### Three registers -/

/-- FADD (R208). -/
def execFadd (o : V3) (s : State) : Out := .next (s.cBundle [planV3 (.fadd o) o false])

/-- FSUB (R208). -/
def execFsub (o : V3) (s : State) : Out := .next (s.cBundle [planV3 (.fsub o) o false])

/-- FMUL (R208). -/
def execFmul (o : V3) (s : State) : Out := .next (s.cBundle [planV3 (.fmul o) o false])

/-- FDIV (R208, R211). -/
def execFdiv (o : V3) (s : State) : Out := .next (s.cBundle [planV3 (.fdiv o) o false])

/-- FMIN (R188, R208). -/
def execFmin (o : V3) (s : State) : Out := .next (s.cBundle [planV3 (.fmin o) o false])

/-- FMAX (R188, R208). -/
def execFmax (o : V3) (s : State) : Out := .next (s.cBundle [planV3 (.fmax o) o false])

/-- FMA (R209). -/
def execFma (o : V3) (s : State) : Out := .next (s.cBundle [planV3 (.fma o) o true])

/-- FMS (R209). -/
def execFms (o : V3) (s : State) : Out := .next (s.cBundle [planV3 (.fms o) o true])

/-- FNMA (R209). -/
def execFnma (o : V3) (s : State) : Out := .next (s.cBundle [planV3 (.fnma o) o true])

/-- FNMS (R209). -/
def execFnms (o : V3) (s : State) : Out := .next (s.cBundle [planV3 (.fnms o) o true])

/-- C_ADD (R212). -/
def execCAdd (o : V3) (s : State) : Out := .next (s.cBundle [planV3 (.cAdd o) o false])

/-- C_SUB (R212). -/
def execCSub (o : V3) (s : State) : Out := .next (s.cBundle [planV3 (.cSub o) o false])

/-- C_MUL (R212). -/
def execCMul (o : V3) (s : State) : Out := .next (s.cBundle [planV3 (.cMul o) o false])

/-- C_MULH (R212). -/
def execCMulh (o : V3) (s : State) : Out := .next (s.cBundle [planV3 (.cMulh o) o false])

/-- C_MIN (R212). -/
def execCMin (o : V3) (s : State) : Out := .next (s.cBundle [planV3 (.cMin o) o false])

/-- C_MAX (R212). -/
def execCMax (o : V3) (s : State) : Out := .next (s.cBundle [planV3 (.cMax o) o false])

/-- C_AND (R212). -/
def execCAnd (o : V3) (s : State) : Out := .next (s.cBundle [planV3 (.cAnd o) o false])

/-- C_OR (R212). -/
def execCOr (o : V3) (s : State) : Out := .next (s.cBundle [planV3 (.cOr o) o false])

/-- C_XOR (R212). -/
def execCXor (o : V3) (s : State) : Out := .next (s.cBundle [planV3 (.cXor o) o false])

/-- C_SHL (R212). -/
def execCShl (o : V3) (s : State) : Out := .next (s.cBundle [planV3 (.cShl o) o false])

/-- C_SHR (R212). -/
def execCShr (o : V3) (s : State) : Out := .next (s.cBundle [planV3 (.cShr o) o false])

/-! ### Two registers -/

/-- FABS (R210). -/
def execFabs (o : V2) (s : State) : Out := .next (s.cBundle [planV2 (.fabs o) o])

/-- FNEG (R210). -/
def execFneg (o : V2) (s : State) : Out := .next (s.cBundle [planV2 (.fneg o) o])

/-- FSQRT (R211). -/
def execFsqrt (o : V2) (s : State) : Out := .next (s.cBundle [planV2 (.fsqrt o) o])

/-- FRCP (R211). -/
def execFrcp (o : V2) (s : State) : Out := .next (s.cBundle [planV2 (.frcp o) o])

/-- FRSQRT (R211). -/
def execFrsqrt (o : V2) (s : State) : Out := .next (s.cBundle [planV2 (.frsqrt o) o])

/-- FEXP2 (R211). -/
def execFexp2 (o : V2) (s : State) : Out := .next (s.cBundle [planV2 (.fexp2 o) o])

/-- FLOG2 (R211). -/
def execFlog2 (o : V2) (s : State) : Out := .next (s.cBundle [planV2 (.flog2 o) o])

/-- FTANH (R211). -/
def execFtanh (o : V2) (s : State) : Out := .next (s.cBundle [planV2 (.ftanh o) o])

/-- C_ABS (R212). -/
def execCAbs (o : V2) (s : State) : Out := .next (s.cBundle [planV2 (.cAbs o) o])

/-- C_NEG (R212). -/
def execCNeg (o : V2) (s : State) : Out := .next (s.cBundle [planV2 (.cNeg o) o])

/-- C_NOT (R212). -/
def execCNot (o : V2) (s : State) : Out := .next (s.cBundle [planV2 (.cNot o) o])

/-- C_CLZ (R212). -/
def execCClz (o : V2) (s : State) : Out := .next (s.cBundle [planV2 (.cClz o) o])

/-- C_POPC (R212). -/
def execCPopc (o : V2) (s : State) : Out := .next (s.cBundle [planV2 (.cPopc o) o])

/-! ### Compare and select -/

/-- `cmp` (R213). -/
def planCmp (cond : Cond) (i : BitVec 3) (a b : BitVec 7) (g : Guard) : CWord := guarded g (fun k =>
  let pa := k.phys a
  let pb := k.phys b
  { planNothing with
    reads := [pa, pb]
    run := fun k =>
      let r := vecCmp cond (k.vin pa pa pb (fun _ => true)) (k.mask i)
      CEff.of r.2 none (fun k => k.setMask i r.1) })

/-- CMP (R213). -/
def execCmp (cond : Cond) (k : BitVec 3) (a b : BitVec 7) (g : Guard) (s : State) : Out :=
  .next (s.cBundle [planCmp cond k a b g])

/-- `sel` (R214): the selector is no write mask. -/
def planSel (d a b : BitVec 7) (i : BitVec 3) : CWord := fun k =>
  planVec (vecSel (k.mask i)) d a b true false .plain k

/-- C_SEL (R214). -/
def execCSel (d a b : BitVec 7) (k : BitVec 3) (s : State) : Out := .next (s.cBundle [planSel d a b k])

end Sys2Proof.Machine
end

