-- ==== Sys2Proof/Machine/CAxis.lean ====
section
/-! DEFINITION. The words of C's axis pipe: moves, conversions, axis words, the bit network and draft trees (07_registers
R165, 09_vector R215 to R222). -/

namespace Sys2Proof.Machine

open Sys2Proof

/-- C_MOV (07_registers R165). -/
def execCMov (o : V2) (s : State) : Out := .next (s.cBundle [planV2 (.cMov o) o])

/-- CVT (R215, R216). -/
def execCvt (o : V2) (fmt : Fmt) (rnd : Rnd) (s : State) : Out := .next (s.cBundle [planV2 (.cvt o fmt rnd) o])

/-- `cvta` (R215, R216): at retirement am_j takes the magnitudes of the lanes it converts (08_numbers R197). -/
def planCvta (o : V2) (fmt : Fmt) (j : BitVec 2) (sat : Bool) : CWord := guarded (modGuard o.m) (fun k =>
  let p := planVec (vecCvt fmt .dyn sat) o.d o.a o.a false false o.m k
  let pa := k.phys o.a
  { p with run := fun k => { p.run k with
      ret := fun f => .vec f (some (j, vecAm fmt (k.vin pa pa pa (k.selOf o.m)))) [] none } })

/-- CVTA (R215, R216). -/
def execCvta (o : V2) (fmt : Fmt) (j : BitVec 2) (sat : Bool) (s : State) : Out :=
  .next (s.cBundle [planCvta o fmt j sat])

/-- ROT (R217). -/
def execRot (o : V2) (ax : Axis) (n : BitVec 6) (s : State) : Out := .next (s.cBundle [planV2 (.rot o ax n) o])

/-- BCAST (R217). -/
def execBcast (o : V2) (ax : Axis) (n : BitVec 6) (s : State) : Out := .next (s.cBundle [planV2 (.bcast o ax n) o])

/-- RED (R218). -/
def execRed (o : V2) (ax : Axis) (op : RedOp) (s : State) : Out := .next (s.cBundle [planV2 (.red o ax op) o])

/-- XPOSE (R219). -/
def execXpose (o : V2) (s : State) : Out := .next (s.cBundle [planV2 (.xpose o) o])

/-! ### The bit network -/

/-- `vbx` (R221): the pattern as it stands at issue. -/
def planVbx (o : V2) (i : BitVec 3) : CWord := fun k => planVec (vecBx (k.pat i)) o.d o.a o.a false false o.m k

/-- VBX (R221). -/
def execVbx (o : V2) (k : BitVec 3) (s : State) : Out := .next (s.cBundle [planVbx o k])

/-- `vbxl` (R221). -/
def planVbxl (a : BitVec 7) (i : BitVec 3) (g : Guard) : CWord := guarded g (fun k =>
  let pa := k.phys a
  { planNothing with
    reads := [pa]
    run := fun k =>
      let bs := patOf (k.vread pa)
      CEff.of 0 none (fun k => { k with regs := { k.regs with pats := k.regs.pats.set i.toNat bs i.isLt } }) })

/-- VBXL (R221). -/
def execVbxl (a : BitVec 7) (k : BitVec 3) (g : Guard) (s : State) : Out := .next (s.cBundle [planVbxl a k g])

/-! ### Draft trees -/

/-- `treemask` (R222): m_i to m_(i+3), whatever SHP holds. -/
def planTreemask (i : BitVec 3) (a : BitVec 7) (g : Guard) : CWord := guarded g (fun k =>
  let pa := k.phys a
  { planNothing with
    reads := [pa]
    run := fun k =>
      let ms := treeMasks (k.vread pa)
      CEff.of 0 none (fun k => ms.zipIdx.foldl (fun k p => k.setMask (i + BitVec.ofNat 3 p.2) p.1) k) })

/-- TREEMASK (R222). -/
def execTreemask (k : BitVec 3) (a : BitVec 7) (g : Guard) (s : State) : Out := .next (s.cBundle [planTreemask k a g])

end Sys2Proof.Machine
end

