-- ==== Sys2Proof/Machine/CControl.lean ====
section
/-! DEFINITION. The control words of C: stream ports (06_pool R149 to R152), shape, rotating loop, recipes and FCS (07_registers
R159 to R175), tokens and semaphores (09_vector R223, R224). -/

namespace Sys2Proof.Machine

open Sys2Proof

/-! ### Ports (06_pool R149 to R152) -/

/-- A 32-bit field of a port configuration as a signed stride. -/
def portStride (cfg : W256) (lo : Nat) : Int := toSigned 32 (fld256 cfg (lo + 31) lo)

/-- EN, DIR, WRAP, EXH. -/
def portOn (cfg : W256) : Bool := cfg.getLsbD 31
def portDir (cfg : W256) : Bool := cfg.getLsbD 30
def portWrap (cfg : W256) : Bool := cfg.getLsbD 29
def portExh (cfg : W256) : Bool := cfg.getLsbD 28

/-- Count of a level. -/
def portCount (cfg : W256) (level : Nat) : Nat := fld256 cfg (47 + 16 * level) (32 + 16 * level)

/-- A legal configuration (R149). -/
def portLegal (cfg : W256) : Bool :=
  !portOn cfg
    || ((List.range 4).all (fun l => portCount cfg l != 0) && fld256 cfg 20 0 % 4 == 0 && fld256 cfg 111 96 % 4 == 0
      && (List.range 4).all (fun l => fld256 cfg (159 + 32 * l) (128 + 32 * l) % 4 == 0)
      && fld256 cfg 127 112 == 0 && fld256 cfg 27 21 == 0)

/-- Index of a level. -/
def Port.index (p : Port) (level : Nat) : Nat := fld p.idx (16 * level + 15) (16 * level)

/-- The footprint of the port's next move under a shape (R150). -/
def Port.foot (p : Port) (rows cols : Nat) : PortFoot :=
  { vbase := (List.range 4).foldl (fun (v : Int) l => v + p.index l * portStride p.cfg (128 + 32 * l)) (fld256 p.cfg 20 0)
    rowp := fld256 p.cfg 111 96, r := rows, c := cols }

/-- The port after a completed move of a footprint (R150). -/
def Port.advance (p : Port) (f : PortFoot) : Port :=
  let i0 := p.index 0 + 1
  let c0 := i0 == portCount p.cfg 0
  let i1 := p.index 1 + (if c0 then 1 else 0)
  let c1 := i1 == portCount p.cfg 1
  let i2 := p.index 2 + (if c1 then 1 else 0)
  let c2 := i2 == portCount p.cfg 2
  let i3 := p.index 3 + (if c2 then 1 else 0)
  let c3 := i3 == portCount p.cfg 3
  let z (c : Bool) (i : Nat) : Nat := if c then 0 else i
  { cfg := if c3 && !portWrap p.cfg then p.cfg ||| 0x10000000 else p.cfg
    idx := BitVec.ofNat 64 (z c0 i0 + z c1 i1 * 2 ^ 16 + z c2 i2 * 2 ^ 32 + z c3 i3 * 2 ^ 48)
    last := some f }

/-- Some lane of the footprint lies outside the scratchpad (R152). -/
def PortFoot.outside (f : PortFoot) (size : Nat) : Bool :=
  (List.range f.r).any (fun r =>
    let a : Int := f.vbase + (r * f.rowp : Nat)
    decide (a < 0) || decide ((size : Int) < a + (4 * f.c : Nat)))

/-- The tests of R152, and the trap on an abandoned copy (R128). -/
def Core.portCheck (k : Core) (p : Port) (f : PortFoot) (write : Bool) : Option (BitVec 8 × Nat × W64) :=
  if !portOn p.cfg || portExh p.cfg || portDir p.cfg != write then some (causeMisaligned, 0x08, 0)
  else if f.outside k.scratchSize then some (causeMisaligned, 0x02, 0)
  else
    match k.gateSecs k.land.nextId write f.secs with
    | .dead w x => some (causeAbandoned, w.toNat, windowVa (32 * x))
    | .free => none
    | .held _ => none

/-- The wait of a gated access of C (R108). -/
def Core.gateWait (k : Core) (secs : List Nat) (write : Bool) : Option Wait :=
  match k.gateSecs k.land.nextId write secs with
  | .held l => some (.gate l (!write))
  | .free => none
  | .dead _ _ => none

/-- The bytes of a footprint, row by row. -/
def PortFoot.spans (f : PortFoot) (write : Bool) : List Span :=
  (List.range f.r).map (fun r => { write := write, off := (f.vbase + (r * f.rowp : Nat)).toNat, n := 4 * f.c })

/-- What a port word waits for: pending sectors (R108), and issued tile words and draws whose accesses come before its own (R152). -/
def Core.portWait (k : Core) (f : PortFoot) (write : Bool) : Option Wait :=
  match k.gateWait f.secs write with
  | some w => some w
  | none => if k.clashes k.matrix.nextId (f.spans write) then some .other else none

/-- `vld` (R151). -/
def planVld (d : BitVec 7) (n : BitVec 2) (m : VMod) : CWord := guarded (modGuard m) (fun k =>
  let pd := k.phys d
  let foot (k : Core) : PortFoot := (k.port n).foot (shpRows k.regs.shp) (shpCols k.regs.shp)
  { planNothing with
    reads := if k.fullWrite m then [] else [pd]
    dest := some pd
    check := fun k => k.portCheck (k.port n) (foot k) false
    waits := fun k => k.portWait (foot k) false
    run := fun k =>
      let f := foot k
      let i := k.vin pd pd pd (k.selOf m)
      let v := vecBits (fun _ a _ => a) { i with a := k.pinLanes f }
      CEff.of 0 (some v.1) (fun k => k.modPort n (fun p => p.advance f)) })

/-- VLD (R151). -/
def execVld (d : BitVec 7) (p : BitVec 2) (m : VMod) (s : State) : Out := .next (s.cBundle [planVld d p m])

/-- The active lanes of a register into a footprint, row by row (R151). -/
def Core.storeFoot (k : Core) (f : PortFoot) (l : List W32) : Core :=
  (List.range f.r).foldl (fun k r =>
    k.scratchWrite (f.vbase + (r * f.rowp : Nat)).toNat (((l.drop (64 * r)).take f.c).flatMap (fun v => leBytes 4 v.toNat))) k

/-- `vst` (R151). -/
def planVst (n : BitVec 2) (a : BitVec 7) (g : Guard) : CWord := guarded g (fun k =>
  let pa := k.phys a
  let foot (k : Core) : PortFoot := (k.port n).foot (shpRows k.regs.shp) (shpCols k.regs.shp)
  { planNothing with
    reads := [pa]
    check := fun k => k.portCheck (k.port n) (foot k) true
    waits := fun k => k.portWait (foot k) true
    stores := (foot k).spans true
    run := fun k =>
      let f := foot k
      let l := k.vread pa
      CEff.of 0 none (fun k => (k.storeFoot f l).modPort n (fun p => p.advance f)) })

/-- VST (R151). -/
def execVst (p : BitVec 2) (a : BitVec 7) (g : Guard) (s : State) : Out := .next (s.cBundle [planVst p a g])

/-- The configuration that `pcfg` takes from row0 of a register, with EXH zero. -/
def portCfgOf (l : List W32) : W256 :=
  BitVec.ofNat 256 ((l.take 8).zipIdx.foldl (fun x p => x + p.1.toNat * 2 ^ (32 * p.2)) 0) &&& ~~~(0x10000000#256)

/-- `pcfg` (R151): an illegal configuration traps (R152). EXH of the register is not looked at: it is set to 0. -/
def planPcfg (n : BitVec 2) (a : BitVec 7) (g : Guard) : CWord := guarded g (fun k =>
  let pa := k.phys a
  { planNothing with
    reads := [pa]
    check := fun k => if portLegal (portCfgOf (k.vread pa)) then none else some (causeMisaligned, 0x07, 0)
    run := fun k =>
      let cfg := portCfgOf (k.vread pa)
      CEff.of 0 none (fun k => k.modPort n (fun _ => { cfg := cfg, idx := 0, last := none })) })

/-- PCFG (R151). -/
def execPcfg (p : BitVec 2) (a : BitVec 7) (g : Guard) (s : State) : Out := .next (s.cBundle [planPcfg p a g])

/-! ### Shape and loop (R160, R162) -/

/-- `shape`. -/
def planShape (rows : BitVec 4) (cols : BitVec 6) (fmt : Fmt) : CWord := fun _ =>
  { planNothing with
    run := fun _ => CEff.of 0 none (fun k =>
      let v := BitVec.ofNat 32 (fmt.code * 2 ^ 12 + rows.toNat * 2 ^ 6 + cols.toNat)
      { k with regs := { k.regs with shp := v } }) }

/-- SHAPE (R162). -/
def execShape (rows : BitVec 4) (cols : BitVec 6) (fmt : Fmt) (s : State) : Out := .next (s.cBundle [planShape rows cols fmt])

/-- What `cloop` does to the loop registers, and whether it branches (R160). -/
def CRegs.cloop (r : CRegs) (nr : Nat) : CRegs × Bool :=
  let rrb := (r.rrb + nr - 1) % nr
  if r.cnt != 0 then ({ r with cnt := r.cnt - 1, stg := 2 * r.stg + 1, rrb := rrb }, true)
  else if 1 < r.epi.toNat then ({ r with epi := r.epi - 1, stg := 2 * r.stg, rrb := rrb }, true)
  else if r.epi == 1 then ({ r with epi := 0, stg := 2 * r.stg, rrb := rrb }, false)
  else (r, false)

/-- `cloop`, the last word of its bundle: the target counts from its own offset. -/
def planCloop (off : BitVec 14) : CWord := fun _ =>
  { planNothing with
    run := fun _ => CEff.of 0 none (fun k =>
      let r := k.regs.cloop (nrOf k.pool.rfb)
      let q := k.seqs.c
      ({ k with regs := r.1 }).setC { q with pc := if r.2 then q.pc - 4 + 4 * sext64 off else q.pc }) }

/-- CLOOP (R160). -/
def execCloop (off : BitVec 14) (s : State) : Out := .next (s.cBundle [planCloop off])

/-! ### Recipes (R169 to R175) -/

/-- Depth of the binding of a register as its operands stand now, 0 for none, cut off at `fuel` (R170). -/
def Core.bindDepth (k : Core) : Nat → Nat → Nat
  | 0, _ => 0
  | fuel + 1, p =>
    let q := k.regs.preg p
    match q.live, q.bind with
    | true, some b => 1 + ((recipeStatics (k.recipe b.k)).map (k.bindDepth fuel)).foldl max 0
    | true, none => 0
    | false, _ => 0

/-- Depth of the binding that a recipe would make now, 3 for any above 2 (R170). -/
def Core.recipeDepth (k : Core) (i : BitVec 5) : Nat := 1 + ((recipeStatics (k.recipe i)).map (k.bindDepth 2)).foldl max 0

/-- A sector of a port's last footprint is pending in a live L copy-family word or an open window (R169). -/
def Core.pinPending (k : Core) (f : PortFoot) : Bool :=
  f.secs.any (fun x => (k.blocks k.land.nextId false x).any (fun b => !b.dead))

/-- A port whose value a recipe may pin. -/
def Core.pinnable (k : Core) (n : Nat) : Bool :=
  let p := k.port (BitVec.ofNat 2 n)
  portOn p.cfg && (match p.last with
    | some f => !k.pinPending f
    | none => false)

/-- `rtag` refuses (R169, R170). -/
def Core.rtagBad (k : Core) (h : Nat) (i : BitVec 5) : Bool :=
  let e := k.recipe i
  let q := k.regs.preg h
  let depth := k.recipeDepth i
  !recipeOn e || q.st == .empty || q.st == .dropped || q.st == .lost
    || (recipeStatics e).any (fun p => p == h || (k.regs.preg p).st == .lost)
    || (recipePorts e).any (fun n => !k.pinnable n)
    || decide (2 < depth)
    || (depth == 2 && k.regs.pregs.any (fun p => p.bindMeets (fun b => k.bindNames b h)))

/-- The binding that `rtag` makes. -/
def Core.bindingOf (k : Core) (i : BitVec 5) : Binding :=
  let ports := recipePorts (k.recipe i)
  { k := i, pins := (List.range 4).map (fun n => if ports.contains n then (k.port (BitVec.ofNat 2 n)).last else none)
    shp := k.regs.shp, rm := BitVec.ofNat 3 (fcsRm k.regs.fcs).code }

/-- `rtag` (R169). -/
def planRtag (d : BitVec 7) (i : BitVec 5) (g : Guard) : CWord := guarded g (fun k =>
  let h := k.phys d
  { planNothing with
    states := true
    check := fun k => if k.rtagBad h i then some (causeMisaligned, 0x0A, 0) else none
    run := fun k =>
      let b := k.bindingOf i
      { CEff.of 0 none (fun k => k) with
        early := fun k => { k with regs := k.regs.setPreg h { k.regs.preg h with st := .tagged, bind := some b } } } })

/-- RTAG (R169). -/
def execRtag (d : BitVec 7) (k : BitVec 5) (g : Guard) (s : State) : Out := .next (s.cBundle [planRtag d k g])

/-- `rdrop` on a physical register (R172, R174). -/
def Core.rdrop (k : Core) (h : Nat) : Core :=
  let q := k.regs.preg h
  match q.st with
  | .tagged => { k with regs := k.regs.setPreg h { q with st := .dropped, frame := none, lanes := [] } }
  | .plain =>
    let k := { k with regs := k.regs.setPreg h { q with st := .lost, frame := none, lanes := [] } }
    k.invalidateBinds (fun b => k.bindNames b h)
  | .empty => k
  | .dropped => k
  | .lost => k

/-- `rdrop`. -/
def planRdrop (d : BitVec 7) (g : Guard) : CWord := guarded g (fun k =>
  let h := k.phys d
  { planNothing with
    states := true
    run := fun _ => { CEff.of 0 none (fun k => k) with early := fun k => k.rdrop h } })

/-- RDROP (R172). -/
def execRdrop (d : BitVec 7) (g : Guard) (s : State) : Out := .next (s.cBundle [planRdrop d g])

/-- Code of a register state (R156). -/
def PState.code : PState → Nat
  | .empty => 0
  | .plain => 1
  | .tagged => 2
  | .dropped => 3
  | .lost => 4

/-- Status word of a physical register (R175). DEPTH is 2 for every binding with a TAGGED or DROPPED operand, also one whose operand was
tagged later and carries depth 2 itself (log 79). -/
def Core.regStatus (k : Core) (p : Nat) : W32 :=
  let q := k.regs.preg p
  let b := if q.live then q.bind else none
  BitVec.ofNat 32 (k.freeFrames.length * 2 ^ 23 + p * 2 ^ 14 + k.bindDepth 2 p * 2 ^ 10
    + (b.map (fun b => b.k.toNat)).getD 0 * 2 ^ 5 + q.st.code)

/-- Lanes that hold one value at (row0, 0) and zero elsewhere. -/
def lane0 (v : W32) : List W32 := v :: List.replicate 1023 0

/-- `rstat` (R175): the state before the bundle's replays. -/
def planRstat (d a : BitVec 7) (g : Guard) : CWord := guarded g (fun k =>
  let v := k.regStatus (k.phys a)
  { planNothing with
    dest := some (k.phys d), states := true
    run := fun _ => CEff.of 0 (some (lane0 v)) (fun k => k) })

/-- RSTAT (R175). -/
def execRstat (d a : BitVec 7) (g : Guard) (s : State) : Out := .next (s.cBundle [planRstat d a g])

/-! ### FCS (R166, R194) -/

/-- `fcs.r`. -/
def planFcsR (d : BitVec 7) (g : Guard) : CWord := guarded g (fun k =>
  { planNothing with
    dest := some (k.phys d), drains := true
    run := fun k => CEff.of 0 (some (lane0 k.regs.fcs)) (fun k => k) })

/-- FCS_R (R166). -/
def execFcsR (d : BitVec 7) (g : Guard) (s : State) : Out := .next (s.cBundle [planFcsR d g])

/-- `fcs.w`: flags of other words of its bundle are ORed in as they retire. -/
def planFcsW (a : BitVec 7) (g : Guard) : CWord := guarded g (fun k =>
  let pa := k.phys a
  { planNothing with
    reads := [pa], drains := true
    run := fun k =>
      let v := fcsWritten ((k.vread pa).headD 0)
      CEff.of 0 none (fun k => { k with regs := { k.regs with fcs := v } }) })

/-- FCS_W (R166). -/
def execFcsW (a : BitVec 7) (g : Guard) (s : State) : Out := .next (s.cBundle [planFcsW a g])

/-! ### Tokens, semaphores, nop, end (R223, R224) -/

/-- `ctok`. -/
def planCtok (val : Option (BitVec 7)) (t : Token) : CWord := fun k =>
  let pa := val.map k.phys
  { planNothing with
    reads := pa.toList, pops := tokPops .c t
    run := fun k =>
      let v := pa.map (fun p => (k.vread p).headD 0)
      { CEff.of 0 none (fun k => k) with ret := fun f => .vec f none (tokPushes .c t v) none } }

/-- CTOK (R223). -/
def execCtok (val : Option (BitVec 7)) (t : Token) (s : State) : Out := .next (s.cBundle [planCtok val t])

/-- C_NOP (R224). -/
def execCNop (s : State) : Out := .next (s.cBundle [fun _ => planNothing])

/-- `end`: C issues nothing further; it counts as ended for others once its earlier words have retired. -/
def planEnd : CWord := fun _ =>
  { planNothing with run := fun _ => CEff.of 0 none (fun k => k.setC { k.seqs.c with ended := true }) }

/-- C_END (R224). -/
def execCEnd (s : State) : Out := .next (s.cBundle [planEnd])

/-- `sema`: the bundle waits at issue until served. -/
def planSema (i : BitVec 6) (n : BitVec 7) (g : Guard) : CWord :=
  guarded g (fun _ => { planNothing with sema := some (i, n.toNat) })

/-- C_SEMA (R224, 12_sync R254). -/
def execCSema (k : BitVec 6) (n : BitVec 7) (g : Guard) (s : State) : Out := .next (s.cBundle [planSema k n g])

/-- `semv`: the increment stands at retirement. -/
def planSemv (i : BitVec 6) (n : BitVec 7) (g : Guard) : CWord := guarded g (fun _ =>
  { planNothing with
    run := fun _ => { CEff.of 0 none (fun k => k) with ret := fun f => .vec f none [] (some (i, n.toNat)) } })

/-- C_SEMV (R224, 12_sync R254). -/
def execCSemv (k : BitVec 6) (n : BitVec 7) (g : Guard) (s : State) : Out := .next (s.cBundle [planSemv k n g])

end Sys2Proof.Machine
end

