-- ==== Sys2Proof/Machine/CMatrix.lean ====
section
/-! DEFINITION. The matrix words of C: issue, start and completion of multiply-accumulates and tile words (10_matrix R225 to
R239, 08_numbers R200 to R202). A word takes its whole effect on its tile and on the scratchpad at its start, in start order,
which no word can tell from an effect spread over its time (R229). -/

namespace Sys2Proof.Machine

open Sys2Proof

/-! ### What a matrix word names -/

/-- Tile. -/
def mwordTile (i : Instr) : BitVec 3 :=
  match i with
  | .tld x _ _ _ _ | .tst x _ _ _ _ => x
  | .tzero x _ _ | .tscale x _ _ _ => x
  | .tsave x _ _ _ _ | .tload x _ _ _ _ | .draw x _ _ _ _ => x
  | .mmaFp4 o | .mmaI4 o | .mmaN4 o | .mmaE4m3 o | .mmaE5m2 o | .mmaI8 o | .mmaN8 o | .mmaBf16 o | .mmaFp16 o => o.tile
  | .mmazFp4 o | .mmazI4 o | .mmazN4 o | .mmazE4m3 o | .mmazE5m2 o | .mmazI8 o | .mmazN8 o | .mmazBf16 o | .mmazFp16 o => o.tile
  | _ => 0

/-- Stream. -/
def mwordStream (i : Instr) : BitVec 2 :=
  match i with
  | .tld _ _ _ x _ | .tst _ _ _ x _ => x
  | .tzero _ x _ | .tscale _ x _ _ => x
  | .tsave _ x _ _ _ | .tload _ x _ _ _ | .draw _ x _ _ _ => x
  | .mmaFp4 o | .mmaI4 o | .mmaN4 o | .mmaE4m3 o | .mmaE5m2 o | .mmaI8 o | .mmaN8 o | .mmaBf16 o | .mmaFp16 o => o.st
  | .mmazFp4 o | .mmazI4 o | .mmazN4 o | .mmazE4m3 o | .mmazE5m2 o | .mmazI8 o | .mmazN8 o | .mmazBf16 o | .mmazFp16 o => o.st
  | _ => 0

/-- Unit (R226): 0 array, 1 tile port, 2 draw unit. -/
def mwordUnit (i : Instr) : Nat :=
  match i with
  | .draw _ _ _ _ _ => 2
  | _ => if (mwordRings i).isSome then 0 else 1

/-- Operands of a multiply-accumulate: its fields, format, and whether it zeroes its tile. -/
def mwordMma (i : Instr) : Option (Mma × Fmt × Bool) :=
  match i with
  | .mmaFp4 o => some (o, .fp4, false)
  | .mmaI4 o => some (o, .i4, false)
  | .mmaN4 o => some (o, .n4, false)
  | .mmaE4m3 o => some (o, .e4m3, false)
  | .mmaE5m2 o => some (o, .e5m2, false)
  | .mmaI8 o => some (o, .i8, false)
  | .mmaN8 o => some (o, .n8, false)
  | .mmaBf16 o => some (o, .bf16, false)
  | .mmaFp16 o => some (o, .fp16, false)
  | .mmazFp4 o => some (o, .fp4, true)
  | .mmazI4 o => some (o, .i4, true)
  | .mmazN4 o => some (o, .n4, true)
  | .mmazE4m3 o => some (o, .e4m3, true)
  | .mmazE5m2 o => some (o, .e5m2, true)
  | .mmazI8 o => some (o, .i8, true)
  | .mmazN8 o => some (o, .n8, true)
  | .mmazBf16 o => some (o, .bf16, true)
  | .mmazFp16 o => some (o, .fp16, true)
  | _ => none

/-! ### Issue (R226) -/

/-- The stream holds four words that have issued and not started. -/
def Core.streamFull (k : Core) (st : BitVec 2) : Bool :=
  decide (4 ≤ (k.matrix.words.filter (fun w => w.stage == .issued && mwordStream w.word == st)).length)

/-- A matrix word at its issue. -/
def MWord.fresh (id : Nat) (i : Instr) : MWord :=
  { id := id, word := i, stage := .issued, tileA := 0, tileB := 0, spans := [], kept := [], vec := [], dst := none, handle := 0, dense := 0, skip := 0
    sum := 0, top := 0, greedy := 0, nan := false, res := [] }

/-- A matrix word takes its place in the issue order. -/
def Core.addMword (k : Core) (w : MWord) : Core :=
  { k with matrix := { k.matrix with words := k.matrix.words ++ [w], nextId := k.matrix.nextId + 1 } }

/-- The plan shared by matrix words: `mk` captures operands from the registers before the bundle. -/
def planMat (i : Instr) (p : CPlan) (mk : Core → MWord → MWord) (also : Core → Core) : CPlan :=
  { p with
    waits := fun k => if k.streamFull (mwordStream i) then some .other else p.waits k
    pops := tokPops .c (mwordToken i)
    run := fun k =>
      let id := k.matrix.nextId
      let w := mk k (MWord.fresh id i)
      { CEff.of 0 none (fun k => also (k.addMword w)) with ret := fun _ => .mat id } }

/-- The tests of R146 and R231 fail. -/
def Core.mmaBad (k : Core) (o : Mma) (f : Fmt) : Bool :=
  let a := k.ring o.ra
  let b := k.ring o.rb
  let wide := fmtBits f == 16
  !a.on || !b.on || o.ra == o.rb || a.fmt != some f || b.fmt != some f
    || a.k != 64 * (o.kc.toNat + 1) || b.k != 64 * (o.kc.toNat + 1)
    || (!wide && (o.ns == a.sc || o.ns == b.sc))
    || o.ta != a.lay || o.tb != b.lay

/-- The tile that the next use of a ring reads (06_pool R145). -/
def Ring.nextTile (r : Ring) : Nat := r.uses / r.usesPer

/-- The bytes of the next tile of a ring. -/
def Ring.nextSpan (r : Ring) : Span := { write := false, off := r.slotOff r.nextTile, n := 32 * r.tsz }

/-- The gate of the operand fetch of a multiply-accumulate (05_copies R108). -/
def Core.fetchGate (k : Core) (o : Mma) : Gate :=
  gateOf (k.tileBlocks [o.ra, o.rb]) ([o.ra, o.rb].flatMap (fun r => secsOf (k.ring r).nextSpan.off (k.ring r).nextSpan.n))

/-- Rings of a multiply-accumulate whose next tile has not landed (06_pool R145). -/
def Core.ringsEmpty (k : Core) (o : Mma) : List (BitVec 3) :=
  [o.ra, o.rb].filter (fun r => decide ((k.ring r).tail ≤ (k.ring r).nextTile))

/-- A multiply-accumulate: its rings must have the tiles, and no other footprint may hold their sectors (R145, 05_copies R108, R128). -/
def planMma (i : Instr) (o : Mma) (f : Fmt) : CWord := fun _ =>
  planMat i
    { planNothing with
      check := fun k =>
        if k.mmaBad o f then some (causeMisaligned, 0x04, 0)
        else if !(k.ringsEmpty o).isEmpty then none
        else
          match k.fetchGate o with
          | .dead w x => some (causeAbandoned, w.toNat, windowVa (32 * x))
          | .free => none
          | .held _ => none
      waits := fun k =>
        if !(k.ringsEmpty o).isEmpty then some (.ring (k.ringsEmpty o))
        else
          match k.fetchGate o with
          | .held l => some (.tiles [o.ra, o.rb] l)
          | .free => none
          | .dead _ _ => none }
    (fun k w => { w with
      tileA := (k.ring o.ra).nextTile, tileB := (k.ring o.rb).nextTile
      spans := [(k.ring o.ra).nextSpan, (k.ring o.rb).nextSpan] })
    (fun k => (k.modRing o.ra (fun r => { r with uses := r.uses + 1 })).modRing o.rb (fun r => { r with uses := r.uses + 1 }))

/-- `tld` (R235): its frame is taken as its bundle issues. -/
def planTld (i : Instr) (d : BitVec 7) : CWord := fun k =>
  planMat i { planNothing with dest := some (k.phys d) } (fun _ w => { w with dst := some (k.phys d) }) (fun k => k)

/-- `tst` and `tscale`: the register is read with the bundle (R235, R236). -/
def planTvec (i : Instr) (a : BitVec 7) : CWord := fun k =>
  let pa := k.phys a
  planMat i { planNothing with reads := [pa] } (fun k w => { w with vec := k.vread pa }) (fun k => k)

/-- `tzero` (R236). -/
def planTzero (i : Instr) : CWord := fun _ => planMat i planNothing (fun _ w => w) (fun k => k)

/-- Bytes of an element of a saved tile. -/
def tileBytes : TileFmt → Nat
  | .f32 => 4
  | .bf16 => 2
  | .fp16 => 2

/-- `tsave` and `tload` (R237, R238): the range is tested at issue. -/
def planTmem (i : Instr) (f : TileFmt) (off : BitVec 11) (write : Bool) : CWord := fun _ =>
  let lo := off.toNat * 1024
  let n := 4096 * tileBytes f
  planMat i
    { planNothing with
      check := fun k =>
        if !k.inScratch lo n then some (causeMisaligned, 0x02, 0)
        else
          match k.gate write lo n with
          | .dead w x => some (causeAbandoned, w.toNat, windowVa (32 * x))
          | .free => none
          | .held _ => none
      waits := fun k => k.gateWait (secsOf lo n) write }
    (fun _ w => { w with spans := [{ write := write, off := lo, n := n }] }) (fun k => k)

/-! ### Elements and groups (08_numbers R200, R201) -/

/-- An operand element: an integer in units of the format's least magnitude. -/
inductive Elem where
  | nan
  | inf (neg : Bool)
  | fin (v : Int)

/-- Exponent of the least magnitude of a format. -/
def elemUnit : Fmt → Int
  | .bf16 => -133
  | .fp16 => -24
  | .e5m2 => -16
  | .e4m3 => -9
  | .fp4 => -1
  | .f32 | .i32 | .i8 | .i4 | .n8 | .n4 | .e8m0 => 0

/-- The element that bits of a format hold. -/
def elemOf (f : Fmt) (v : Nat) : Elem :=
  match unpack f v with
  | .nan _ _ _ => .nan
  | .inf n => .inf n
  | .fin n m e => .fin (signedAt n m e (elemUnit f))

/-- A group of a line: its scale byte (127 when there is none) and its elements. -/
structure Group where
  scale : Nat
  elems : List Elem

/-- The groups of a line of a tile whose bytes are the number `v` (06_pool R142). -/
def lineGroups (f : Fmt) (k : Nat) (lay sc : Bool) (v line : Nat) : List Group :=
  let w := fmtBits f
  let g := fmtGroup f
  (List.range (k / g)).map (fun i =>
    { scale :=
        if sc then v / 2 ^ (64 * k * w + 8 * (if lay then i * 64 + line else line * (k / g) + i)) % 256 else 127
      elems := (List.range g).map (fun e =>
        let kap := g * i + e
        elemOf f (v / 2 ^ ((if lay then kap * 64 + line else line * k + kap) * w) % 2 ^ w)) })

/-- The 64 lines of a tile in a ring. -/
def Core.tileLines (k : Core) (r : Ring) (f : Fmt) (n : Nat) : List (List Group) :=
  let v := leNat (k.scratchRead (r.slotOff n) (32 * r.tsz))
  (List.range 64).map (lineGroups f r.k r.lay r.sc v)

/-- What the products of a group come to: a NaN, infinities of either sign, and the exact sum of the finite ones. -/
structure GroupSum where
  nan : Bool
  pos : Bool
  neg : Bool
  sum : Int

/-- One product into the sum. -/
def GroupSum.add (s : GroupSum) (a b : Elem) : GroupSum :=
  match a, b with
  | .fin x, .fin y => { s with sum := s.sum + x * y }
  | .inf n, .inf m => if n != m then { s with neg := true } else { s with pos := true }
  | .inf n, .fin y =>
    if y == 0 then { s with nan := true } else if n != decide (y < 0) then { s with neg := true } else { s with pos := true }
  | .fin x, .inf m =>
    if x == 0 then { s with nan := true } else if m != decide (x < 0) then { s with neg := true } else { s with pos := true }
  | .nan, _ => { s with nan := true }
  | _, .nan => { s with nan := true }

/-- The products of two groups. -/
def groupSum (a b : Group) : GroupSum :=
  (a.elems.zip b.elems).foldl (fun s p => s.add p.1 p.2)
    { nan := a.scale == 255 || b.scale == 255, pos := false, neg := false, sum := 0 }

/-- A group applied to an FP32 entry (R200). -/
def groupFp (f : Fmt) (acc : W32) (a b : Group) : W32 :=
  let s := groupSum a b
  let accNan := (val32 acc).isNan
  if s.nan || (s.pos && s.neg) then nan32
  else if s.pos || s.neg then (if accNan || acc == inf32 (!s.neg) then nan32 else inf32 s.neg)
  else if s.sum == 0 then acc
  else if accNan then nan32
  else
    let e := 2 * elemUnit f + ((a.scale : Int) - 127) + ((b.scale : Int) - 127)
    (addVal .rne (val32 acc) (.fin (decide (s.sum < 0)) s.sum.natAbs e)).1

/-- A group applied to an INT32 entry (R201). -/
def groupInt (acc : W32) (a b : Group) : W32 :=
  let v := acc.toInt + (groupSum a b).sum
  BitVec.ofInt 32 (if v < -(2 ^ 31) then -(2 ^ 31) else if 2 ^ 31 - 1 < v then 2 ^ 31 - 1 else v)

/-- A group that zero-block skipping leaves out (R202, R232). -/
def skipGroup (a b : Summary) (g : Nat) : Bool :=
  a.sv && b.sv && ((a.z.getLsbD g && !b.f.getLsbD g) || (b.z.getLsbD g && !a.f.getLsbD g))

/-- Kind of a dense group by its arithmetic (R233). -/
def denseKind (f : Fmt) : Activity := if fmtBits f == 4 then .dense4 else if fmtBits f == 8 then .dense8 else .dense16

/-- A multiply-accumulate takes its effect (R232), and its groups enter the activity estimate (R233). -/
def Core.mma (k : Core) (w : MWord) (o : Mma) (f : Fmt) (zero : Bool) : Core :=
  let ra := k.ring o.ra
  let rb := k.ring o.rb
  let n := ra.k / fmtGroup f
  let sa := ra.sum (w.tileA % ra.tiles)
  let sb := rb.sum (w.tileB % rb.tiles)
  let gs := (List.range n).filter (fun g => !(o.zs && skipGroup sa sb g))
  let asInt := isInt f && o.ns
  let la := k.tileLines ra f w.tileA
  let lb := k.tileLines rb f w.tileB
  let pick (l : List Group) : List Group := gs.filterMap (fun g => l[g]?)
  let la := la.map pick
  let lb := lb.map pick
  let old := if zero then List.replicate 4096 0 else k.tile o.tile
  let new := old.zipIdx.map (fun p =>
    ((la[p.2 / 64]?.getD []).zip (lb[p.2 % 64]?.getD [])).foldl (fun acc g =>
      if asInt then groupInt acc g.1 g.2 else groupFp f acc g.1 g.2) p.1)
  let k := ((k.setTile o.tile new).note (denseKind f) gs.length).note .skipped (n - gs.length)
  { k with matrix := { k.matrix with words := k.matrix.words.map (fun v =>
      if v.id == w.id then { v with dense := gs.length, skip := n - gs.length } else v) } }

/-! ### Tile words (R235 to R237) -/

/-- An entry scaled by its row and column factors (R236). -/
def scaleEntry (e rf cf : W32) : W32 :=
  if (val32 e).isNan || (val32 rf).isNan || (val32 cf).isNan then nan32
  else
    match mulVal (val32 e) (val32 rf) with
    | none => nan32
    | some p =>
      match mulVal p (val32 cf) with
      | none => nan32
      | some q => (deliver .rne q).1

/-- The bytes of an entry in a saved tile. -/
def saveEntry (f : TileFmt) (e : W32) : List Byte :=
  match f with
  | .f32 => leBytes 4 e.toNat
  | .bf16 => leBytes 2 (convert .bf16 .rne false (val32 e)).1
  | .fp16 => leBytes 2 (convert .fp16 .rne false (val32 e)).1

/-- An element of a saved tile as FP32, exact; a NaN keeps sign, signalling state and payload (R237). -/
def loadEntry (f : TileFmt) (v : Nat) : W32 :=
  match f with
  | .f32 => BitVec.ofNat 32 v
  | .bf16 => BitVec.ofNat 32 (v * 2 ^ 16)
  | .fp16 =>
    if v / 2 ^ 10 % 32 == 31 then BitVec.ofNat 32 (v / 2 ^ 15 % 2 * 2 ^ 31 + 0x7F800000 + v % 2 ^ 10 * 2 ^ 13)
    else BitVec.ofNat 32 (convert .f32 .rne false (unpack .fp16 v)).1

/-- Rows 16q to 16q + 15 replaced. -/
def quarterPut (tile : List W32) (q : Nat) (l : List W32) : List W32 := tile.take (1024 * q) ++ l ++ tile.drop (1024 * (q + 1))

/-! ### Start (R227) -/

/-- Started and not completed. -/
def MWord.running (w : MWord) : Bool := w.stage == .started

/-- Words earlier in issue order. -/
def Core.mwordsBefore (k : Core) (id : Nat) : List MWord := k.matrix.words.filter (fun v => decide (v.id < id))

/-- The conditions of R227, and of R248 for a draw. The tile port and the draw unit run one word at a time; the array takes a
word behind another. Accesses to the scratchpad that clash keep program order over the streams (R237, 11_draw R245). -/
def Core.mayStart (k : Core) (w : MWord) : Bool :=
  let u := mwordUnit w.word
  w.stage == .issued && !k.clashes w.id w.spans
    && (k.mwordsBefore w.id).all (fun v => mwordStream v.word != mwordStream w.word || v.stage != .issued)
    && k.matrix.words.all (fun v =>
      !v.running || mwordTile v.word != mwordTile w.word || (u == 0 && mwordUnit v.word == 0))
    && (u == 0 || k.matrix.words.all (fun v => !v.running || mwordUnit v.word != u))
    && (u != 2 || (k.mwordsBefore w.id).all (fun v => mwordUnit v.word != 2 || v.stage == .done))

/-- The word that starts next on a unit: the earliest that may. -/
def Core.nextStart (k : Core) (u : Nat) : Option MWord := k.matrix.words.find? (fun w => mwordUnit w.word == u && k.mayStart w)

/-- The core with a matrix word changed. -/
def Core.modMword (k : Core) (id : Nat) (f : MWord → MWord) : Core :=
  { k with matrix := { k.matrix with words := k.matrix.words.map (fun w => if w.id == id then f w else w) } }

/-! ### Words -/

/-- MMA_FP4 (R230 to R232). -/
def execMmaFp4 (o : Mma) (s : State) : Out := .next (s.cBundle [planMma (.mmaFp4 o) o .fp4])

/-- MMA_I4 (R230 to R232). -/
def execMmaI4 (o : Mma) (s : State) : Out := .next (s.cBundle [planMma (.mmaI4 o) o .i4])

/-- MMA_N4 (R230 to R232). -/
def execMmaN4 (o : Mma) (s : State) : Out := .next (s.cBundle [planMma (.mmaN4 o) o .n4])

/-- MMA_E4M3 (R230 to R232). -/
def execMmaE4m3 (o : Mma) (s : State) : Out := .next (s.cBundle [planMma (.mmaE4m3 o) o .e4m3])

/-- MMA_E5M2 (R230 to R232). -/
def execMmaE5m2 (o : Mma) (s : State) : Out := .next (s.cBundle [planMma (.mmaE5m2 o) o .e5m2])

/-- MMA_I8 (R230 to R232). -/
def execMmaI8 (o : Mma) (s : State) : Out := .next (s.cBundle [planMma (.mmaI8 o) o .i8])

/-- MMA_N8 (R230 to R232). -/
def execMmaN8 (o : Mma) (s : State) : Out := .next (s.cBundle [planMma (.mmaN8 o) o .n8])

/-- MMA_BF16 (R230 to R232). -/
def execMmaBf16 (o : Mma) (s : State) : Out := .next (s.cBundle [planMma (.mmaBf16 o) o .bf16])

/-- MMA_FP16 (R230 to R232). -/
def execMmaFp16 (o : Mma) (s : State) : Out := .next (s.cBundle [planMma (.mmaFp16 o) o .fp16])

/-- MMAZ_FP4 (R230 to R232). -/
def execMmazFp4 (o : Mma) (s : State) : Out := .next (s.cBundle [planMma (.mmazFp4 o) o .fp4])

/-- MMAZ_I4 (R230 to R232). -/
def execMmazI4 (o : Mma) (s : State) : Out := .next (s.cBundle [planMma (.mmazI4 o) o .i4])

/-- MMAZ_N4 (R230 to R232). -/
def execMmazN4 (o : Mma) (s : State) : Out := .next (s.cBundle [planMma (.mmazN4 o) o .n4])

/-- MMAZ_E4M3 (R230 to R232). -/
def execMmazE4m3 (o : Mma) (s : State) : Out := .next (s.cBundle [planMma (.mmazE4m3 o) o .e4m3])

/-- MMAZ_E5M2 (R230 to R232). -/
def execMmazE5m2 (o : Mma) (s : State) : Out := .next (s.cBundle [planMma (.mmazE5m2 o) o .e5m2])

/-- MMAZ_I8 (R230 to R232). -/
def execMmazI8 (o : Mma) (s : State) : Out := .next (s.cBundle [planMma (.mmazI8 o) o .i8])

/-- MMAZ_N8 (R230 to R232). -/
def execMmazN8 (o : Mma) (s : State) : Out := .next (s.cBundle [planMma (.mmazN8 o) o .n8])

/-- MMAZ_BF16 (R230 to R232). -/
def execMmazBf16 (o : Mma) (s : State) : Out := .next (s.cBundle [planMma (.mmazBf16 o) o .bf16])

/-- MMAZ_FP16 (R230 to R232). -/
def execMmazFp16 (o : Mma) (s : State) : Out := .next (s.cBundle [planMma (.mmazFp16 o) o .fp16])

/-- TLD (R235). -/
def execTld (tile : BitVec 3) (d : BitVec 7) (q st : BitVec 2) (t : Token) (s : State) : Out :=
  .next (s.cBundle [planTld (.tld tile d q st t) d])

/-- TST (R235). -/
def execTst (tile : BitVec 3) (a : BitVec 7) (q st : BitVec 2) (t : Token) (s : State) : Out :=
  .next (s.cBundle [planTvec (.tst tile a q st t) a])

/-- TZERO (R236). -/
def execTzero (tile : BitVec 3) (st : BitVec 2) (t : Token) (s : State) : Out :=
  .next (s.cBundle [planTzero (.tzero tile st t)])

/-- TSCALE (R236). -/
def execTscale (tile : BitVec 3) (st : BitVec 2) (a : BitVec 7) (t : Token) (s : State) : Out :=
  .next (s.cBundle [planTvec (.tscale tile st a t) a])

/-- TSAVE (R237). -/
def execTsave (tile : BitVec 3) (st : BitVec 2) (fmt : TileFmt) (off : BitVec 11) (t : Token) (s : State) : Out :=
  .next (s.cBundle [planTmem (.tsave tile st fmt off t) fmt off true])

/-- TLOAD (R237). -/
def execTload (tile : BitVec 3) (st : BitVec 2) (fmt : TileFmt) (off : BitVec 11) (t : Token) (s : State) : Out :=
  .next (s.cBundle [planTmem (.tload tile st fmt off t) fmt off false])

end Sys2Proof.Machine
end

