-- ==== Sys2Proof/Machine/CDraw.lean ====
section
/-! DEFINITION. `draw` (11_draw R240 to R249), the start and completion of issued matrix words (10_matrix R227, R228), and
the device steps that take them. -/

namespace Sys2Proof.Machine

open Sys2Proof

/-! ### The generator (R241) -/

/-- The uniform for a key and a counter value: 24 bits. -/
def uniform (key ctr : W64) : Nat :=
  let z := key + ctr * 0x9E3779B97F4A7C15
  let z := (z ^^^ (z >>> 30)) * 0xBF58476D1CE4E5B9
  let z := (z ^^^ (z >>> 27)) * 0x94D049BB133111EB
  let z := z ^^^ (z >>> 31)
  z.toNat / 2 ^ 40

/-! ### Issue (R243 to R245, R249) -/

/-- Parameters in lanes (row0, 0) to (row0, 3) of v_d (R244). -/
def drawFirst (l : List W32) : Nat := (lane l 0 0).toNat / 2 ^ 16 % 2 ^ 12
def drawCount (l : List W32) : Nat := (lane l 0 0).toNat % 2 ^ 13
def drawBeta (l : List W32) : W32 := lane l 0 1
def drawMoff (l : List W32) : Nat := (lane l 0 2).toNat
def drawCm (l : List W32) : Bool := (lane l 0 3).getLsbD 2
def drawTma (l : List W32) : Bool := (lane l 0 3).getLsbD 1
def drawGrd (l : List W32) : Bool := (lane l 0 3).getLsbD 0

/-- The parameters are not legal. -/
def drawBad (l : List W32) : Bool :=
  let w0 := (lane l 0 0).toNat
  let beta := drawBeta l
  w0 / 2 ^ 28 != 0 || w0 / 2 ^ 13 % 8 != 0 || drawCount l == 0 || decide (4096 < drawCount l)
    || decide (4096 < drawFirst l + drawCount l) || beta.getLsbD 31 || beta == 0 || decide (0x7F800000 ≤ beta.toNat)
    || decide (8 ≤ (lane l 0 3).toNat)

/-- First byte and bytes of the bitmap that hold the candidates' bits. -/
def drawBytes (h : W256) (l : List W32) : Nat × Nat :=
  let lo := drawMoff l / 8
  (hdBase h % 2 ^ 21 + lo, (drawMoff l + drawCount l - 1) / 8 - lo + 1)

/-- The traps of R249 about a present mask: kind and base, alignment, range. -/
def Core.maskBad (k : Core) (h : W256) (l : List W32) : Option Nat :=
  let mb := hdBase h % 2 ^ 21
  if hdKind h != 0 || hdBase h / 2 ^ 21 != 0 then some 0x03
  else if mb % 32 != 0 then some 0x01
  else if decide (hdDim0 h * 256 < drawMoff l + drawCount l) || !k.inScratch mb (hdDim0 h * 32) then some 0x02
  else none

/-- The traps of a draw at issue (R249). -/
def Core.drawCheck (k : Core) (mask : Option (BitVec 6)) (p : Nat) : Option (BitVec 8 × Nat × W64) :=
  let l := k.vread p
  if drawBad l then some (causeMisaligned, 0x0B, 0)
  else
    match mask with
    | none => none
    | some m =>
      let h := k.handle m
      if hdDim0 h == 0 then (if drawTma l then some (causeMask, 0, 0) else none)
      else
        match k.maskBad h l with
        | some d => some (causeMisaligned, d, 0)
        | none =>
          let b := drawBytes h l
          match k.gate false b.1 b.2 with
          | .dead w x => some (causeAbandoned, w.toNat, windowVa (32 * x))
          | .free => none
          | .held _ => none

/-- `draw`: its parameters are read as its bundle issues, its result is a merging write at retirement. -/
def planDraw (i : Instr) (mask : Option (BitVec 6)) (d : BitVec 7) : CWord := fun k =>
  let pd := k.phys d
  planMat i
    { planNothing with
      reads := [pd], dest := some pd
      check := fun k => k.drawCheck mask pd
      waits := fun k =>
        match mask with
        | none => none
        | some m =>
          if hdDim0 (k.handle m) == 0 then none
          else
            let b := drawBytes (k.handle m) (k.vread pd)
            k.gateWait (secsOf b.1 b.2) false }
    (fun k w =>
      let h := (mask.map k.handle).getD 0
      let b := drawBytes h (k.vread pd)
      { w with
        vec := k.vread pd, dst := some pd, handle := h
        spans := if hdDim0 h == 0 then [] else [{ write := false, off := b.1, n := b.2 }] })
    (fun k => k)

/-- DRAW (R243 to R249). -/
def execDraw (tile : BitVec 3) (st : BitVec 2) (mask : Option (BitVec 6)) (d : BitVec 7) (t : Token) (s : State) : Out :=
  .next (s.cBundle [planDraw (.draw tile st mask d t) mask d])

/-! ### Weights (R246) -/

/-- The mask of a draw is absent for this position (R245). -/
def MWord.maskAbsent (w : MWord) : Bool :=
  match w.word with
  | .draw _ _ (some _) _ _ => hdDim0 w.handle == 0
  | _ => false

/-- A candidate is allowed. -/
def Core.drawAllowed (k : Core) (w : MWord) (i : Nat) : Bool :=
  match w.word with
  | .draw _ _ (some _) _ _ =>
    let b := drawMoff w.vec + i
    (k.pool.scratch.read (hdBase w.handle % 2 ^ 21 + b / 8)).getLsbD (b % 8)
  | _ => true

/-- Tile entry of a position (R244). -/
def drawEntry (cm : Bool) (p : Nat) : Nat := if cm then p % 64 * 64 + p / 64 else p

/-- a is below b as a value, neither a NaN. -/
def fpBelow (a b : W32) : Bool := (fpOrder a b).2.1

/-- Equal as values. -/
def fpEqual (a b : W32) : Bool := (fpOrder a b).1

/-- The weight of a scaled logit under the maximum m. -/
def drawWeight (m : W32) (x : W32) (ok : Bool) : W32 :=
  if !ok || x == 0xFF800000 then 0
  else if m == 0x7F800000 then (if x == 0x7F800000 then 0x3F800000 else 0)
  else (fpExp2 .rne (fpSub .rne x m).1).1

/-- Partial sums S(1) to S(NCAND). -/
def drawSums : W32 → List W32 → List W32
  | _, [] => []
  | s, p :: ps =>
    let s' := (fpAdd .rne s p).1
    s' :: drawSums s' ps

/-- A draw at its start: weights, their sum, maximum, greedy choice (R246, R248). -/
def Core.drawStart (k : Core) (w : MWord) : MWord :=
  if w.maskAbsent then w
  else
    let tile := k.tile (mwordTile w.word)
    let cands := (List.range (drawCount w.vec)).map (fun i =>
      let x := (fpMul .rne ((tile[drawEntry (drawCm w.vec) (drawFirst w.vec + i)]?).getD 0) (drawBeta w.vec)).1
      let allowed := k.drawAllowed w i
      (x, allowed && !(val32 x).isNan, allowed && (val32 x).isNan))
    let m := cands.foldl (fun m c => if c.2.1 && fpBelow m c.1 then c.1 else m) 0xFF800000
    let ps := cands.map (fun c => drawWeight m c.1 c.2.1)
    { w with
      vec := w.vec.take 4 ++ ps
      sum := (drawSums 0 ps).getLastD 0
      top := m
      greedy := (cands.findIdx? (fun c => c.2.1 && fpEqual c.1 m)).getD 0
      nan := cands.any (fun c => c.2.2) }

/-- The index that a uniform selects. -/
def drawPick (ps : List W32) (theta : W32) : Nat :=
  let ss := ps.zip (drawSums 0 ps)
  match ss.findIdx? (fun q => fpBelow 0 q.1 && fpBelow theta q.2) with
  | some i => i
  | none => ps.length - 1 - (ps.reverse.findIdx? (fun p => fpBelow 0 p)).getD 0

/-- A draw completes: its four result lanes, and whether the counter advances (R242, R246, R247). -/
def MWord.drawEnd (w : MWord) (key ctr : W64) : List W32 × Bool :=
  if w.maskAbsent then ([0xFFFFFFFF, 0, 0, 2], false)
  else
    let nan := bitCode w.nan * 8
    if w.sum == 0 then ([0xFFFFFFFF, 0, 0, BitVec.ofNat 32 (nan + 4)], false)
    else
      let ps := w.vec.drop 4
      let greedy := drawGrd w.vec
      let u := if greedy then 0 else uniform key ctr
      let theta := match val32 w.sum with
        | .fin _ m e => (round32 .rne false (u * m) (e - 24)).1
        | .inf _ => 0
        | .nan _ _ _ => 0
      let sel := if greedy then w.greedy else drawPick ps theta
      ([BitVec.ofNat 32 sel, (ps[sel]?).getD 0, w.sum,
        BitVec.ofNat 32 (u * 256 + bitCode (w.top == 0x7F800000) * 16 + nan + 1)], true)

/-! ### Start and completion -/

/-- The scratchpad as a word finds it at its start. -/
def Core.seenBy (k : Core) (w : MWord) : Core :=
  { k with pool := { k.pool with scratch := w.kept.foldl (fun m p => m.writeN p.1 [p.2]) k.pool.scratch } }

/-- A core with the scratchpad bytes of another. -/
def Core.withScratch (k old : Core) : Core := { k with pool := { k.pool with scratch := old.pool.scratch } }

/-- An issued word starts: the whole of its effect on tile and scratchpad. `tload` counts among the writes that clear SV of the slots it
meets (06_pool R148). -/
def Core.startMat (k : Core) (w : MWord) : Core :=
  let k := k.modMword w.id (fun v => { v with stage := .started })
  let tile := k.tile (mwordTile w.word)
  match w.word with
  | .tld _ _ q _ _ => k.modMword w.id (fun v => { v with vec := (tile.drop (1024 * q.toNat)).take 1024 })
  | .tst t _ q _ _ => k.setTile t (quarterPut tile q.toNat w.vec)
  | .tzero t _ _ => k.setTile t (List.replicate 4096 0)
  | .tscale t _ _ _ =>
    k.setTile t (tile.zipIdx.map (fun p => scaleEntry p.1 (lane w.vec 1 (p.2 / 64)) (lane w.vec 0 (p.2 % 64))))
  | .tsave _ _ f off _ => (k.scratchWrite (off.toNat * 1024) (tile.flatMap (saveEntry f))).seenBy w
  | .tload t _ f off _ =>
    (k.touchRings (off.toNat * 1024) (4096 * tileBytes f)).setTile t ((List.range 4096).map (fun i =>
      loadEntry f ((k.seenBy w).pool.scratch.readLe (off.toNat * 1024 + i * tileBytes f) (tileBytes f))))
  | .draw _ _ _ _ _ => (k.note .draw 1).modMword w.id (fun v => (k.seenBy w).drawStart v)
  | _ =>
    match mwordMma w.word with
    | some (o, f, zero) => ((k.seenBy w).mma w o f zero).withScratch k
    | none => k

/-- A running word by its place among those that run. When each completes is a matter of time (R228). -/
def Core.runningMat (k : Core) (n : Nat) : Option MWord := (k.matrix.words.filter MWord.running)[n]?

/-- A running word completes; a draw takes its uniform and moves the generator in the same step (R242). -/
def Core.completeMat (k : Core) (w : MWord) : Core :=
  match w.word with
  | .draw _ _ _ _ _ =>
    let r := w.drawEnd k.sys.dkey k.sys.dctr
    let k := if r.2 then { k with sys := { k.sys with dctr := k.sys.dctr + 1 } } else k
    k.modMword w.id (fun v => { v with stage := .done, res := r.1 })
  | _ => k.modMword w.id (fun v => { v with stage := .done })

end Sys2Proof.Machine
end

