-- ==== Sys2Proof/Machine/Bundle.lean ====
section
/-! DEFINITION. Bundles of C words: the plan of each word, and which bundles are legal (02_words R43, R45). -/

namespace Sys2Proof.Machine

open Sys2Proof

/-- The plan of a C word; none for any other instruction. -/
def planOf (i : Instr) : Option CWord :=
  match i with
  | .fadd o => some (planV3 (.fadd o) o false)
  | .fsub o => some (planV3 (.fsub o) o false)
  | .fmul o => some (planV3 (.fmul o) o false)
  | .fdiv o => some (planV3 (.fdiv o) o false)
  | .fmin o => some (planV3 (.fmin o) o false)
  | .fmax o => some (planV3 (.fmax o) o false)
  | .fma o => some (planV3 (.fma o) o true)
  | .fms o => some (planV3 (.fms o) o true)
  | .fnma o => some (planV3 (.fnma o) o true)
  | .fnms o => some (planV3 (.fnms o) o true)
  | .cAdd o => some (planV3 (.cAdd o) o false)
  | .cSub o => some (planV3 (.cSub o) o false)
  | .cMul o => some (planV3 (.cMul o) o false)
  | .cMulh o => some (planV3 (.cMulh o) o false)
  | .cMin o => some (planV3 (.cMin o) o false)
  | .cMax o => some (planV3 (.cMax o) o false)
  | .cAnd o => some (planV3 (.cAnd o) o false)
  | .cOr o => some (planV3 (.cOr o) o false)
  | .cXor o => some (planV3 (.cXor o) o false)
  | .cShl o => some (planV3 (.cShl o) o false)
  | .cShr o => some (planV3 (.cShr o) o false)
  | .cmp cond k a b g => some (planCmp cond k a b g)
  | .cSel d a b k => some (planSel d a b k)
  | .fabs o => some (planV2 (.fabs o) o)
  | .fneg o => some (planV2 (.fneg o) o)
  | .fsqrt o => some (planV2 (.fsqrt o) o)
  | .frcp o => some (planV2 (.frcp o) o)
  | .frsqrt o => some (planV2 (.frsqrt o) o)
  | .fexp2 o => some (planV2 (.fexp2 o) o)
  | .flog2 o => some (planV2 (.flog2 o) o)
  | .ftanh o => some (planV2 (.ftanh o) o)
  | .cAbs o => some (planV2 (.cAbs o) o)
  | .cNeg o => some (planV2 (.cNeg o) o)
  | .cNot o => some (planV2 (.cNot o) o)
  | .cClz o => some (planV2 (.cClz o) o)
  | .cPopc o => some (planV2 (.cPopc o) o)
  | .cMov o => some (planV2 (.cMov o) o)
  | .cvt o fmt rnd => some (planV2 (.cvt o fmt rnd) o)
  | .cvta o fmt j sat => some (planCvta o fmt j sat)
  | .rot o ax n => some (planV2 (.rot o ax n) o)
  | .bcast o ax n => some (planV2 (.bcast o ax n) o)
  | .red o ax op => some (planV2 (.red o ax op) o)
  | .xpose o => some (planV2 (.xpose o) o)
  | .vbx o k => some (planVbx o k)
  | .vbxl a k g => some (planVbxl a k g)
  | .treemask k a g => some (planTreemask k a g)
  | .vld d p m => some (planVld d p m)
  | .vst p a g => some (planVst p a g)
  | .pcfg p a g => some (planPcfg p a g)
  | .shape rows cols fmt => some (planShape rows cols fmt)
  | .cloop off => some (planCloop off)
  | .rtag d k g => some (planRtag d k g)
  | .rdrop d g => some (planRdrop d g)
  | .rstat d a g => some (planRstat d a g)
  | .ctok val t => some (planCtok val t)
  | .cNop => some (fun _ => planNothing)
  | .cEnd => some planEnd
  | .cSema k n g => some (planSema k n g)
  | .cSemv k n g => some (planSemv k n g)
  | .fcsR d g => some (planFcsR d g)
  | .fcsW a g => some (planFcsW a g)
  | .tld tile d q st t => some (planTld (.tld tile d q st t) d)
  | .tst tile a q st t => some (planTvec (.tst tile a q st t) a)
  | .tzero tile st t => some (planTzero (.tzero tile st t))
  | .tscale tile st a t => some (planTvec (.tscale tile st a t) a)
  | .tsave tile st fmt off t => some (planTmem (.tsave tile st fmt off t) fmt off true)
  | .tload tile st fmt off t => some (planTmem (.tload tile st fmt off t) fmt off false)
  | .draw tile st mask d t => some (planDraw (.draw tile st mask d t) mask d)
  | .mmaFp4 o => some (planMma (.mmaFp4 o) o .fp4)
  | .mmaI4 o => some (planMma (.mmaI4 o) o .i4)
  | .mmaN4 o => some (planMma (.mmaN4 o) o .n4)
  | .mmaE4m3 o => some (planMma (.mmaE4m3 o) o .e4m3)
  | .mmaE5m2 o => some (planMma (.mmaE5m2 o) o .e5m2)
  | .mmaI8 o => some (planMma (.mmaI8 o) o .i8)
  | .mmaN8 o => some (planMma (.mmaN8 o) o .n8)
  | .mmaBf16 o => some (planMma (.mmaBf16 o) o .bf16)
  | .mmaFp16 o => some (planMma (.mmaFp16 o) o .fp16)
  | .mmazFp4 o => some (planMma (.mmazFp4 o) o .fp4)
  | .mmazI4 o => some (planMma (.mmazI4 o) o .i4)
  | .mmazN4 o => some (planMma (.mmazN4 o) o .n4)
  | .mmazE4m3 o => some (planMma (.mmazE4m3 o) o .e4m3)
  | .mmazE5m2 o => some (planMma (.mmazE5m2 o) o .e5m2)
  | .mmazI8 o => some (planMma (.mmazI8 o) o .i8)
  | .mmazN8 o => some (planMma (.mmazN8 o) o .n8)
  | .mmazBf16 o => some (planMma (.mmazBf16 o) o .bf16)
  | .mmazFp16 o => some (planMma (.mmazFp16 o) o .fp16)
  | _ => none

/-- Pipes (R45); control words count as axis words. -/
inductive Pipe where
  | arith | axis | matrix
  deriving DecidableEq, Repr

/-- The pipe of a C word. -/
def pipeOf (i : Instr) : Pipe :=
  match i with
  | .fadd _ | .fsub _ | .fmul _ | .fdiv _ | .fmin _ | .fmax _ | .fma _ | .fms _ | .fnma _ | .fnms _ => .arith
  | .cAdd _ | .cSub _ | .cMul _ | .cMulh _ | .cMin _ | .cMax _ | .cAnd _ | .cOr _ | .cXor _ | .cShl _ | .cShr _ => .arith
  | .fabs _ | .fneg _ | .fsqrt _ | .frcp _ | .frsqrt _ | .fexp2 _ | .flog2 _ | .ftanh _ | .cAbs _ | .cNeg _ | .cNot _ | .cClz _ | .cPopc _ => .arith
  | .cmp _ _ _ _ _ | .cSel _ _ _ _ => .arith
  | _ => if (planOf i).isNone then .axis else
    match i with
    | .tld _ _ _ _ _ | .tst _ _ _ _ _ | .tzero _ _ _ | .tscale _ _ _ _ | .tsave _ _ _ _ _ | .tload _ _ _ _ _ => .matrix
    | .draw _ _ _ _ _ => .matrix
    | _ => if (mwordMma i).isSome then .matrix else .axis

/-- The vector register that a word writes, by its name; `rtag` and `rdrop` count as writes (07_registers R178). -/
def writesV (i : Instr) : Option (BitVec 7) :=
  match i with
  | .fadd o | .fsub o | .fmul o | .fdiv o | .fmin o | .fmax o | .fma o | .fms o | .fnma o | .fnms o => some o.d
  | .cAdd o | .cSub o | .cMul o | .cMulh o | .cMin o | .cMax o | .cAnd o | .cOr o | .cXor o | .cShl o | .cShr o => some o.d
  | .fabs o | .fneg o | .fsqrt o | .frcp o | .frsqrt o | .fexp2 o | .flog2 o | .ftanh o | .cAbs o | .cNeg o | .cNot o | .cClz o | .cPopc o => some o.d
  | .cMov o | .cvt o _ _ | .cvta o _ _ _ | .rot o _ _ | .bcast o _ _ | .red o _ _ | .xpose o | .vbx o _ => some o.d
  | .cSel d _ _ _ | .vld d _ _ | .rtag d _ _ | .rdrop d _ | .rstat d _ _ | .fcsR d _ => some d
  | .tld _ d _ _ _ | .draw _ _ _ d _ => some d
  | _ => none

/-- The mask registers that a word writes. -/
def writesM (i : Instr) : List (BitVec 3) :=
  match i with
  | .cmp _ k _ _ _ => [k]
  | .treemask k _ _ => [k, k + 1, k + 2, k + 3]
  | _ => []

/-- No element twice. -/
def allDistinct {α : Type} [DecidableEq α] : List α → Bool
  | [] => true
  | x :: xs => !xs.contains x && allDistinct xs

/-- `cloop` and `end` stand last. -/
def endsBundle (i : Instr) : Bool :=
  match i with
  | .cloop _ | .cEnd => true
  | _ => false

/-- A legal bundle (R43): at most one word of each pipe, `cloop` and `end` last, no two words writing one vector register or
one mask. Two words that write one tile would be two matrix words. -/
def bundleLegal (is : List Instr) : Bool :=
  allDistinct (is.map pipeOf) && is.dropLast.all (fun i => !endsBundle i) && allDistinct (is.filterMap writesV)
    && allDistinct (is.flatMap writesM)

/-- What the words from an offset on make: a legal bundle, or none (R43). `word` gives the word at an offset of the section;
at most `fuel` words. -/
def bundleAt (word : Nat → Option W32) : Nat → Nat → Option (List Instr)
  | 0, _ => none
  | fuel + 1, off =>
    match word off with
    | none => none
    | some w =>
      match decodeC w.toNat with
      | .error _ => none
      | .ok (false, i) => some [i]
      | .ok (true, i) => (bundleAt word fuel (off + 4)).map (fun is => i :: is)

end Sys2Proof.Machine
end

