-- ==== Sys2Proof/Machine/Settle.lean ====
section
/-! DEFINITION. What a core does of itself whenever something has changed in it: sectors commit, copies move on, atomics leave,
words past their finishing points push, words of C retire (05_copies R107, 02_words R37, 09_vector R207). -/

namespace Sys2Proof.Machine

open Sys2Proof

/-- The gang of the core's task is being terminated (17_traps R373). -/
def State.dying (s : State) (c : CoreId) : Bool :=
  match (s.core c).task with
  | none => true
  | some t =>
    match s.gang t.gang with
    | none => false
    | some g => g.st == .killing

/-- Copies may issue requests: not in a core that is being terminated, nor in one that is being saved, unless atomics of S
are still to be performed, which may wait for them (17_traps R381). -/
def State.mayPump (s : State) (c : CoreId) : Bool :=
  !s.dying c && (!(s.core c).trap.stop || !(s.core c).atoms.isEmpty)

/-- X0, L, C and S have ended. -/
def Core.allEnded (k : Core) : Bool := (k.ctx 0).run == .ended && k.seqs.l.ended && k.seqs.c.ended && k.seqs.s.ended

/-- When all four sequencers have ended every open window closes (R120). -/
def Core.closeEnded (k : Core) : Core :=
  if k.allEnded then k.land.windows.foldl (fun k v => k.closeWindow v.w) k else k

/-- One round. -/
def State.settleOnce (s : State) (c : CoreId) : State :=
  let s := s.commitAll c
  let s := (if s.dying c then s else s.askLost c).modCore c Core.trimParked
  let s := if s.mayPump c then (s.pumpAll c).pumpAtoms c else s
  s.modCore c (fun k => (((k.flushPend false 64).flushPend true 64).settleC).closeEnded)

/-- A strict mark is taken at once when X0 has ended and no other context runs (17_traps R380). -/
def State.strictNow (s : State) (c : CoreId) : State :=
  let k := s.core c
  match k.trap.strict with
  | none => s
  | some va =>
    if (k.ctx 0).run == .ended && k.seqs.x.toList.all (fun x => x.run != .runnable) && k.task.isSome && k.trap.halt.isNone
        && !k.trap.hmode && !k.trap.stop then
      (s.modCore c (fun k => { k with trap := { k.trap with strict := none } })).raise c (.x 0) causeStrict 0x30
        (BitVec.ofNat 64 va)
    else s

/-- A core settles: what one round makes possible the next ones do. -/
def State.settle (s : State) (c : CoreId) : State := (((s.settleOnce c).settleOnce c).settleOnce c).strictNow c

end Sys2Proof.Machine
end

