-- ==== Sys2Proof/Machine/Waits.lean ====
section
/-! DEFINITION. Waits that last too long, and the device steps that end them or enter a handler: the stall limit, queue
deadlock, trap entry, the start of an arrival context (17_traps R371, R377, R379, 12_sync R255, R276). -/

namespace Sys2Proof.Machine

open Sys2Proof

/-! ### Stalls on parked copies (R377) -/

/-- The footprints in which sectors that an agent's access waits for are pending. -/
def Core.holders (k : Core) (secs : List Nat) (load : Bool) : List Block :=
  secs.flatMap (fun x => (k.blocks k.land.nextId (!load) x).filter (fun b => !b.dead))

/-- The footprints that hold an access of a waiting agent at sector x. -/
def Core.holdersAt (k : Core) (w : Wait) (x : Nat) : List Block :=
  match w with
  | .gate _ load => k.holders [x] load
  | .tiles rs _ => k.tileBlocks rs x
  | .pop _ => []
  | .push _ => []
  | .sema _ => []
  | .ring _ => []
  | .mark _ => []
  | .frame => []
  | .other => []

/-- The pending sectors that a wait names. -/
def Wait.secs : Wait → List Nat
  | .gate l _ => l
  | .tiles _ l => l
  | .pop _ => []
  | .push _ => []
  | .sema _ => []
  | .ring _ => []
  | .mark _ => []
  | .frame => []
  | .other => []

/-- The footprints that hold a waiting access. -/
def Core.heldBy (k : Core) (w : Wait) : List Block := w.secs.flatMap (k.holdersAt w)

/-- The agent waits for the reads of a live copy-family word, which are timed with the copy. -/
def Core.isReading (k : Core) (a : Agent) : Bool :=
  match a with
  | .l => k.seqs.l.reading.isSome
  | .s => k.seqs.s.reading.isSome
  | .x _ => false
  | .c => false

/-- An agent's access is held by parked copies alone, or its `wwait` waits on a parked register. -/
def Core.stalledOnParked (k : Core) (a : Agent) : Bool :=
  match k.waitOf a with
  | some (.mark w) => (k.wm w).st == 2
  | some w => !k.isReading a && !(k.heldBy w).isEmpty && (k.heldBy w).all (fun b => b.parked)
  | none => false

/-- A read of a copy-family word that is held is held by parked copies alone: its sector, the first one held, the footprints. -/
def onParked (h : Option (Nat × Nat × List Block)) : Option (Nat × Nat × List Block) :=
  h.filter (fun h => !h.2.2.isEmpty && h.2.2.all (fun b => b.parked))

/-- Stall time of an agent in fabric cycles. -/
def Core.stallOf (k : Core) (a : Agent) : Nat :=
  match a with
  | .x i => (k.ctx i).stall
  | .l => k.seqs.l.stall
  | .c => k.seqs.c.stall
  | .s => k.seqs.s.stall

/-- The core with an agent's stall time set. -/
def Core.setStall (k : Core) (a : Agent) (n : Nat) : Core :=
  match a with
  | .x i => k.setCtx i { k.ctx i with stall := n }
  | .l => { k with seqs := { k.seqs with l := { k.seqs.l with stall := n } } }
  | .c => { k with seqs := { k.seqs with c := { k.seqs.c with stall := n } } }
  | .s => { k with seqs := { k.seqs with s := { k.seqs.s with stall := n } } }

/-- One fabric cycle of stall time of a read that is held so; another read counts afresh. -/
def tickStalled (t : Option Stalled) (h : Option (Nat × Nat × List Block)) : Option Stalled :=
  match onParked h, t with
  | some (x, _, _), some v => if v.sec == x then some { v with cycles := v.cycles + 1 } else some { sec := x, cycles := 1 }
  | some (x, _, _), none => some { sec := x, cycles := 1 }
  | none, t => t

/-- One fabric cycle of stall time of a word's reads: its next index group and its next source sector are each timed. -/
def Core.tickRead (k : Core) (c : Copy) : Copy :=
  { c with idxStall := tickStalled c.idxStall (k.idxHolders c), srcStall := tickStalled c.srcStall (k.srcHolders c) }

/-- One fabric cycle of stall time for every agent, and every read of a copy-family word, that is held so. Nothing is counted while
the task is being saved (R377). -/
def Core.tickStalls (k : Core) : Core :=
  if k.trap.stop then k
  else
    let k := agents.foldl (fun k a => if k.stalledOnParked a then k.setStall a (k.stallOf a + 1) else k) k
    k.mapCopies k.tickRead

/-- WSL of a tenant in fabric cycles: units of 10 µs; none means no limit (R376). -/
def TenantSt.stallLimit (t : TenantSt) : Option Nat :=
  let n := fld t.ttrap 15 0
  if n == 0 then none else some (n * 16000)

/-- The trap that an agent's stalled access takes. -/
def Core.stallTrap (k : Core) (a : Agent) : Nat × W64 :=
  match k.waitOf a with
  | some (.mark w) => (w.toNat, 0)
  | some w =>
    let first := w.secs.find? (fun x => !(k.holdersAt w x).isEmpty)
    ((lowestW ((k.heldBy w).map Block.w)).toNat, windowVa (32 * (first.getD 0)))
  | none => (0, 0)

/-- A read that is held so, when its stall time exceeds a limit: the first sector held, and the footprints. -/
def overdue (t : Option Stalled) (h : Option (Nat × Nat × List Block)) (limit : Nat) : Option (Nat × List Block) :=
  if t.any (fun v => decide (limit < v.cycles)) then (onParked h).map (fun h => h.2) else none

/-- The oldest word of L or S whose own read, of an index group or of a source sector, has stalled beyond a limit. -/
def Core.overdueRead (k : Core) (a : Agent) (limit : Nat) : Option (Copy × Nat × List Block) :=
  (k.land.copies.filter (fun c => c.agent == a)).findSome? (fun c =>
    ((overdue c.idxStall (k.idxHolders c) limit).or (overdue c.srcStall (k.srcHolders c) limit)).map (fun h => (c, h)))

/-- WATERMARK_STALL_LIMIT (R377): an access whose stall on parked copies exceeds WSL × 10 µs traps; a copy-family word whose own read it
is reads on after `tret` (R38). -/
def execWatermarkStallLimit (c : CoreId) (a : Agent) (s : State) : Out :=
  .next (
    let k := s.core c
    match k.task.bind (fun t => (s.tenant t.tenant).stallLimit) with
    | some limit =>
      if k.mayIssue a && k.stalledOnParked a && decide (limit < k.stallOf a) then
        s.raise c a causeStall (k.stallTrap a).1 (k.stallTrap a).2
      else
        match k.overdueRead a limit with
        | none => s
        | some (v, x, hs) => s.trapRead c v.id causeStall (lowestW (hs.map Block.w)) x
    | none => s)

/-! ### Queue deadlock (R379) -/

/-- The agent has ended or is dormant. -/
def Core.resting (k : Core) (a : Agent) : Bool :=
  match a with
  | .x i => (k.ctx i).run != .runnable
  | .l => k.seqs.l.ended
  | .c => k.seqs.c.ended
  | .s => k.seqs.s.ended

/-- The agent waits at issue on a pop, a full queue, a semaphore or an empty ring. -/
def Core.isWaiter (k : Core) (a : Agent) : Bool :=
  !k.resting a && (match k.waitOf a with
    | some (.pop _) => true
    | some (.push _) => true
    | some (.sema _) => true
    | some (.ring _) => true
    | _ => false)

/-- The blocked set. -/
def Core.waiters (k : Core) : List Agent := agents.filter k.isWaiter

/-- An arrival may start a dormant context: the gang has more than one member, or an enabled ingress stream targets the
core. -/
def State.arrivals (s : State) (c : CoreId) : Bool :=
  decide (1 < ((s.core c).task.map Task.size).getD 1)
    || s.host.streams.toList.any (fun v => v.cfg.getLsbD 63 && fld v.cfg 55 48 == c.val)

/-- A context of X has not ended and is not a waiter. -/
def Core.xRuns (k : Core) : Bool :=
  ([0, 1, 2, 3] : List CtxId).any (fun x => (k.ctx x).run == .runnable && !k.isWaiter (.x x))

/-- A dormant context may start (R379, row of pops). -/
def State.mayWake (s : State) (c : CoreId) : Bool :=
  ([0, 1, 2, 3] : List CtxId).any (fun x => ((s.core c).ctx x).run == .dormant) && s.arrivals c

/-- L, C or S may still run outside the waiters. -/
def Core.produces (k : Core) (a : Agent) : Bool := !k.resting a && !k.isWaiter a

/-- The sequencers that push to and pop from a queue, X by its first context (R17). -/
def QName.ends : QName → Agent × Agent
  | .xl => (.x 0, .l)
  | .xc => (.x 0, .c)
  | .xs => (.x 0, .s)
  | .lx => (.l, .x 0)
  | .lc => (.l, .c)
  | .ls => (.l, .s)
  | .cx => (.c, .x 0)
  | .cl => (.c, .l)
  | .cs => (.c, .s)
  | .sx => (.s, .x 0)
  | .sl => (.s, .l)
  | .sc => (.s, .c)

/-- A sequencer, X by its runnable contexts, has not ended and is not a waiter. -/
def Core.acts (k : Core) (a : Agent) : Bool :=
  match a with
  | .x _ => k.xRuns
  | .l => k.produces .l
  | .c => k.produces .c
  | .s => k.produces .s

/-- A sequencer may still act outside the waiters, X also through a dormant context (R379, row of pops; R255). -/
def State.mayAct (s : State) (c : CoreId) (a : Agent) : Bool :=
  (s.core c).acts a || (match a with
    | .x _ => s.mayWake c
    | .l => false
    | .c => false
    | .s => false)

/-- Words of L or S that have issued and whose pushes are still to come of themselves: from the first one on that has not reached its
finishing point, since pushes are made in program order. A word that has reached it and holds its pushes is none of them (R37). -/
def Core.unfinished (k : Core) (isS : Bool) : List Pend := (k.ls isS).pend.dropWhile (fun p => k.finished p.fin)

/-- Pushes to a queue that issued words still owe. -/
def Core.owesPush (k : Core) (q : QName) : Bool :=
  (k.unfinished false ++ k.unfinished true).any (fun p => p.pushes.any (fun r => r.1 == q))
    || k.seqs.c.ret.any (fun r =>
      match r with
      | .vec _ _ pushes _ => pushes.any (fun p => p.1 == q)
      | .mat id =>
        match k.mword id with
        | some w => w.pushes.any (fun p => p.1 == q)
        | none => false)

/-- Increments of a semaphore that issued words still owe. -/
def Core.owesSem (k : Core) (i : BitVec 6) : Bool :=
  (k.unfinished false ++ k.unfinished true).any (fun p => (p.sem.map Prod.fst) == some i)
    || k.seqs.c.ret.any (fun r =>
      match r with
      | .vec _ _ _ sem => (sem.map Prod.fst) == some i
      | .mat _ => false)

/-- A live `copy.o` on a ring. -/
def Core.feedsRing (k : Core) (r : BitVec 3) : Bool :=
  k.land.copies.any (fun c => c.live && c.op == .copyO && c.opnd.setWidth 3 == r)

/-- A wait has a producer outside the waiters (R379, R255, R146). -/
def State.hasProducer (s : State) (c : CoreId) (w : Wait) : Bool :=
  let k := s.core c
  match w with
  | .pop qs => qs.any (fun q => s.mayAct c q.ends.1 || k.owesPush q)
  | .push qs => qs.any (fun q => k.acts q.ends.2 || k.owesPush q)
  | .sema i =>
    ([.x 0, .l, .c, .s] : List Agent).any (fun a => s.mayAct c a)
      || k.land.copies.any (fun v => v.live && hdSemen v.h && hdSem v.h == i)
      || k.sync.entries.any (fun e => e.sem == i) || k.owesSem i
  | .ring rs => rs.any k.feedsRing || k.produces .l
  | .gate _ _ => true
  | .tiles _ _ => true
  | .mark _ => true
  | .frame => true
  | .other => true

/-- Every sequencer and context that runs waits, and no such wait has a producer. -/
def State.deadlocked (s : State) (c : CoreId) : Bool :=
  let k := s.core c
  k.task.isSome && k.trap.halt.isNone && !k.trap.stop && !k.waiters.isEmpty
    && agents.all (fun a => k.resting a || k.isWaiter a)
    && k.waiters.all (fun a =>
      match k.waitOf a with
      | some w => !s.hasProducer c w
      | none => false)

/-- Bit of an agent in the blocked set. -/
def agentBit : Agent → Nat
  | .x i => 2 ^ i.val
  | .l => 16
  | .c => 32
  | .s => 64

/-- QUEUE_DEADLOCK (R379): after 4,096 core cycles the first of the blocked waiters traps; a word that holds its pushes is the
trapping word (R38). -/
def execQueueDeadlock (c : CoreId) (s : State) : Out :=
  .next (
    let k := s.core c
    match k.waiters with
    | [] => s
    | a :: _ =>
      if decide (4096 ≤ k.trap.idle) && s.deadlocked c then
        (s.modCore c (fun k => { k with trap := { k.trap with idle := 0 } })).takeTrap c
          { trapAt k a causeDeadlock ((k.waiters.map agentBit).sum) 0 with epc := (k.heldPc a).setWidth 32 }
      else s)

/-! ### Trap entry and arrival contexts -/

/-- TRAP_ENTRY (R371): once the drain is complete the handler is entered. -/
def execTrapEntry (c : CoreId) (s : State) : Out :=
  .next (match (s.core c).trap.halt with
    | some t => if (s.core c).drained && !(s.core c).trap.stop then s.modCore c (fun k => k.enterHandler t) else s
    | none => s)

/-- The lowest dormant context among X1 to X3. -/
def Core.dormantCtx (k : Core) : Option CtxId := ([1, 2, 3] : List CtxId).find? (fun x => (k.ctx x).run == .dormant)

/-- Registers of an arrival context: s1 to s8 the message, s9 the source word (R276). -/
def arrivalRegs (m : Mail) : Vector W64 32 :=
  let r := (Vector.replicate 32 (0 : W64)).set 9 m.src
  (List.finRange 8).foldl (fun r i => r.set (i.val + 1) ((m.dw[i.val]?).getD 0) (by omega)) r

/-- HANDLER_START (R276): the oldest message starts the lowest dormant context; its start is an acquire at island scope. Stores of the
context that are still in flight stay the context's (13_ordering R284). -/
def execHandlerStart (c : CoreId) (s : State) : Out :=
  .next (
    let k := s.core c
    match k.sync.mail, k.dormantCtx with
    | m :: rest, some x =>
      if k.task.isSome && !k.trap.stop then
        let k := { k with sync := { k.sync with mail := rest } }
        let u := k.ctx x
        let v := { XCtx.reset with run := .runnable, pc := m.hnd, regs := arrivalRegs m, nextId := u.nextId, stores := u.stores, hostStore := u.hostStore }
        s.setCore c ((k.setCtx x v).l1Acquire .island)
      else s
    | _, _ => s)

end Sys2Proof.Machine
end

