-- ==== Sys2Proof/Machine/Energy.lean ====
section
/-! DEFINITION. Accounts and charges (16_energy R345 to R348), and the energy of a task (R362). 1 BU is 1,000 nJ. -/

namespace Sys2Proof.Machine

open Sys2Proof

/-- A debit in picojoules: the account falls by whole BU and keeps the residue (R345). -/
def Island.debit (i : Island) (pj : Nat) : Island :=
  let r := i.residue + pj
  { i with bal := i.bal - ((r / 1000000 : Nat) : Int), residue := r % 1000000 }

/-- Picojoules charged for a sector (R348). -/
def Gov.pjs (g : Gov) : Nat := fld g.mrate 15 0

/-- Picojoules of memory charges of a core: its island's account and memory charge, and its task (R345 to R347). -/
def State.chargePj (s : State) (c : CoreId) (pj : Nat) : State :=
  let s := s.modIsland (islandOf c) (fun v => { v.debit pj with mc := v.mc + pj })
  s.modCore c (fun k => if k.task.isSome then { k with sys := { k.sys with memPj := k.sys.memPj + pj } } else k)

/-- `n` sectors are charged for a requester: a core's, or to no island (R347). -/
def State.charge (s : State) (w : Who) (n : Nat) : State :=
  match w.core with
  | some c => s.chargePj c (n * s.gov.pjs)
  | none => s

/-- `k` sectors read from the channel for several requesters (R347): the charge of each sector is divided equally, its remainder to the
first. -/
def State.chargeShared (s : State) (ws : List CoreId) (k : Nat) : State :=
  match ws with
  | [] => s
  | w :: rest =>
    let n := rest.length + 1
    let pj := s.gov.pjs
    rest.foldl (fun s c => s.chargePj c (k * (pj / n))) (s.chargePj w (k * (pj / n + pj % n)))

/-- The energy of a task with the charges of the open tick. -/
def Core.taskPj (k : Core) : Nat := k.sys.jtaskPj + k.sys.memPj

/-- What a task's `jtask` gained since its start or last restore goes to TENE of its tenant, and the measure starts again
(R362). -/
def State.bookEnergy (s : State) (c : CoreId) : State :=
  let k := s.core c
  match k.task with
  | none => s
  | some t =>
    let nj := k.taskPj / 1000
    let s := s.modTenant t.tenant (fun v => { v with tenePj := v.tenePj + (nj - k.sys.jtaskBase) * 1000 })
    s.setCore c { k with sys := { k.sys with jtaskPj := k.taskPj, memPj := 0, jtaskBase := nj } }

end Sys2Proof.Machine
end

