-- ==== Sys2Proof/Machine/FabricCycle.lean ====
section
/-! DEFINITION. One fabric cycle of every router, chain and sound: ranking, ejection, deflection, discards, and injection
with its credits (04_fabric R78 to R96). -/

namespace Sys2Proof.Machine

open Sys2Proof

/-! ### Places -/

/-- Strip and column of a router. -/
def stripOf (r : RouterId) : Nat := r.val / 16
def columnOf (r : RouterId) : Nat := r.val % 16

/-- The router of a strip and column given as numbers. -/
def routerNo (strip col : Nat) : RouterId := finOf 240 (strip % 15 * 16 + col % 16)

/-- The island of a core router. -/
def islandAt (r : RouterId) : Option IslandId :=
  if stripOf r % 3 == 2 then none else some (finOf 10 (2 * (stripOf r / 3) + stripOf r % 3))

/-- The core of an island at a column. -/
def coreOf (i : IslandId) (col : Nat) : CoreId := finOf 160 (16 * i.val + col % 16)

/-- Cores of an island, lowest column first. -/
def islandCores (i : IslandId) : List CoreId := (List.range 16).map (fun c => coreOf i c)

/-- The four network outputs (R78). -/
inductive Dir where
  | east | west | down | up
  deriving DecidableEq, Repr

/-- The link that a flit enters when it leaves a router by an output; the chains turn at strips 14 and 0 (R78, R79). -/
def leave (r : RouterId) (d : Dir) (f : Flit) : OnLink :=
  let i := stripOf r
  let c := columnOf r
  match d with
  | .east => { at_ := routerNo i (c + 1), lane := .east, flit := f }
  | .west => { at_ := routerNo i (c + 15), lane := .west, flit := f }
  | .down => if i == 14 then { at_ := r, lane := .up, flit := f } else { at_ := routerNo (i + 1) c, lane := .down, flit := f }
  | .up => if i == 0 then { at_ := r, lane := .down, flit := f } else { at_ := routerNo (i - 1) c, lane := .up, flit := f }

/-- A flit's preferred way on (R83). -/
inductive Pref where
  | eject
  | sound
  | out (d : Dir)
  deriving DecidableEq, Repr

/-- A multicast: a read reply, or a wake-up (R83, 12_sync R272). -/
def Flit.isMulti (f : Flit) : Bool :=
  match f.body with
  | .multiReply _ _ _ => true
  | .wake _ _ _ => true
  | _ => false

/-- The preferred output (R83). -/
def Flit.preferred (f : Flit) (r : RouterId) : Pref :=
  if f.dst == r then (if f.isMulti then .sound else .eject)
  else if columnOf f.dst != columnOf r then
    (if (columnOf f.dst + 16 - columnOf r) % 16 ≤ 8 then .out .east else .out .west)
  else if stripOf r < stripOf f.dst then .out .down
  else .out .up

/-! ### Rank (R84, R85) -/

/-- Saturated. -/
def Flit.saturated (f : Flit) : Bool := decide (255 ≤ f.age)

/-- The golden column at a fabric cycle. -/
def goldenColumn (t : Nat) : Nat := t / 512 % 16

/-- Golden. -/
def Flit.golden (f : Flit) (t : Nat) : Bool := f.saturated && f.src.val % 16 == goldenColumn t

/-- A flit that enters a router in a cycle, with its place in the input order: down, up, east, west, injection. -/
structure Enter where
  order : Nat
  flit : Flit
  deriving DecidableEq, Repr

/-- Place of a lane in the input order. -/
def laneOrder : Lane → Nat
  | .down => 0
  | .up => 1
  | .east => 2
  | .west => 3

/-- The first of two entering flits outranks the second. -/
def Enter.outranks (a b : Enter) (t : Nat) : Bool :=
  let f := a.flit
  let g := b.flit
  if f.golden t != g.golden t then f.golden t
  else if f.saturated != g.saturated then f.saturated
  else if f.saturated then
    if f.src != g.src then decide (f.src.val < g.src.val)
    else if f.stag != g.stag then decide (f.stag < g.stag)
    else if f.soff != g.soff then decide (f.soff < g.soff)
    else decide (a.order < b.order)
  else
    if f.pri != g.pri then decide (g.pri < f.pri)
    else if f.age != g.age then decide (g.age < f.age)
    else decide (a.order < b.order)

/-- An entering flit put into a list in descending rank. -/
def rankInsert (t : Nat) (a : Enter) : List Enter → List Enter
  | [] => [a]
  | b :: rest => if a.outranks b t then a :: b :: rest else b :: rankInsert t a rest

/-- Entering flits in descending rank. -/
def rankAll (t : Nat) (es : List Enter) : List Enter := es.foldr (rankInsert t) []

/-! ### Acceptance (R89, R90) -/

/-- Sectors of a landing window that some puts bring and that are not in it yet. -/
def putsFor (k : Core) (v : LWindow) (fs : List Flit) : List Nat :=
  (fs.filterMap (fun f =>
    match f.body with
    | .put _ off _ gang _ =>
      let i := (off - v.off) / 32
      if k.inGang gang && decide (v.off ≤ off) && decide (off + 32 ≤ v.off + 32 * v.n) && decide ((k.wm v.w).count.toNat ≤ i)
        && (v.held.lookup i).isNone then some i else none
    | _ => none)).eraseDups

/-- The lagoon share of the window that covers a put is full, counting the puts of `on` that wait at the core, and the sector is neither
one that commits at once nor a repetition (R89, 05_copies R109). -/
def Core.shareFull (k : Core) (off : Nat) (on : List Flit) : Bool :=
  match k.land.windows.find? (fun v => decide (v.off ≤ off) && decide (off + 32 ≤ v.off + 32 * v.n)) with
  | none => false
  | some v =>
    let i := (off - v.off) / 32
    let count := (k.wm v.w).count.toNat
    let coming := putsFor k v on
    (decide (count < i) || (i == count && k.commitBlocked v.id (off / 32))) && (v.held.lookup i).isNone && !coming.contains i
      && decide (v.share ≤ v.held.length + coming.length)

/-- The agent at a router accepts a flit, `taken` having been ejected to it in this cycle: only an unsaturated put to a full share is
refused. -/
def State.accepts (s : State) (f : Flit) (taken : List Flit) : Bool :=
  match f.body with
  | .put dst off _ _ _ => f.saturated || !(s.core dst).shareFull off ((s.router (coreRouter dst)).inbox ++ taken)
  | _ => true

/-- The stop of a sound takes a flit in: the passing slot is empty, and with claims set this column's is the lowest. -/
def soundFree (sounds : List OnSound) (claims : List (IslandId × Nat × Flit)) (i : IslandId) (col : Nat) : Bool :=
  let mine := claims.filter (fun c => c.1 == i)
  !(sounds.any (fun o => o.island == i && o.col == col))
    && mine.all (fun c => decide (col ≤ c.2.1)) && (mine.isEmpty || mine.any (fun c => c.2.1 == col))

/-! ### One router (R86) -/

/-- What a router has given out so far in a cycle. -/
structure Given where
  free : List Dir
  outs : List OnLink
  ejected : List Flit
  inserted : Option Flit
  defl : Nat
  /-- saturated multicast flits that the stop has refused, at AGE 0 (R90) -/
  refused : List Flit
  deriving DecidableEq, Repr

/-- Fallback outputs in their order. -/
def allDirs : List Dir := [.east, .west, .down, .up]

/-- A flit one cycle older. -/
def Flit.older (f : Flit) : Flit := { f with age := min 255 (f.age + 1) }

/-- The flit leaves by an output. -/
def Given.send (g : Given) (r : RouterId) (d : Dir) (f : Flit) (deflected : Bool) : Given :=
  { g with
    free := g.free.filter (fun e => e != d)
    outs := g.outs ++ [leave r d f.older]
    defl := if deflected then g.defl + 1 else g.defl }

/-- The flit is deflected to the first free output. -/
def Given.deflect (g : Given) (r : RouterId) (f : Flit) : Given :=
  match g.free with
  | d :: _ => g.send r d f true
  | [] => g

/-- One flit gets its output. -/
def State.assign (s : State) (r : RouterId) (g : Given) (f : Flit) : Given :=
  match f.preferred r with
  | .eject =>
    if decide (g.ejected.length < 2) && s.accepts f g.ejected then { g with ejected := g.ejected ++ [f] } else g.deflect r f
  | .sound =>
    match islandAt r with
    | none => g.deflect r f
    | some i =>
      if g.inserted.isNone && soundFree s.fabric.sounds s.fabric.claims i (columnOf r) then { g with inserted := some f }
      else { g.deflect r f with refused := if f.saturated then g.refused ++ [{ f with age := 0 }] else g.refused }
  | .out d => if g.free.contains d then g.send r d f false else g.deflect r f

/-- The flits entering a router, the discarded ones left out. -/
def State.entering (s : State) (r : RouterId) (drops : List (RouterId × Lane)) : List Enter :=
  ((s.fabric.links.filter (fun l => l.at_ == r && !drops.contains (r, l.lane))).map
      (fun l => { order := laneOrder l.lane, flit := l.flit }))
    ++ (match (s.router r).inject with
      | some f => [{ order := 4, flit := f }]
      | none => [])

/-- A router's cycle: what it gives out, and the number of flits that crossed it. -/
def State.routerCycle (s : State) (r : RouterId) (drops : List (RouterId × Lane)) : Given × Nat :=
  let es := s.entering r drops
  ((rankAll s.time es).foldl (fun g e => s.assign r g e.flit)
    { free := allDirs, outs := [], ejected := [], inserted := none, defl := 0, refused := [] }, es.length)

/-! ### Credits (R88) -/

/-- The credit of a delivered flit is marked: it is on its way back. -/
def State.creditDelivered (s : State) (f : Flit) : State :=
  s.modRouter f.src (fun q =>
    match q.credits.findIdx? (fun c => c.delivered.isNone && c.flit == { f with age := 0 }) with
    | some n => { q with credits := q.credits.modify n (fun c => { c with delivered := some s.time }) }
    | none => q)

/-- The source learns that its reply is lost, and sends a loss notice (R95). -/
def State.creditNoted (s : State) (f : Flit) : State :=
  s.modRouter f.src (fun q =>
    match q.credits.findIdx? (fun c => c.delivered.isNone && !c.noted && c.flit == { f with age := 0 }) with
    | some n => { q with credits := q.credits.modify n (fun c => { c with noted := true }) }
    | none => q)

/-- Loss notices for a read reply: to its core, or for a multicast to every core of the strip (R95). -/
def State.lossNotice (s : State) (f : Flit) : State :=
  match f.body with
  | .readReply pa _ _ who =>
    match who.core with
    | some c => s.send f.src (coreRouter c) f.pri (.loss pa (some who))
    | none => s
  | .multiReply pa _ _ =>
    match islandAt f.dst with
    | some i => (List.range 16).foldl (fun s c => s.send f.src (coreRouter (coreOf i c)) f.pri (.loss pa none)) s
    | none => s
  | _ => s

/-- The flit is a read reply. -/
def Flit.isReply (f : Flit) : Bool := f.cls == .readReply || f.cls == .multiReply

/-- The claim of a flit clears: it is inserted into the sound, or lost (R90, log 87). -/
def State.clearClaim (s : State) (f : Flit) : State :=
  { s with fabric := { s.fabric with claims := s.fabric.claims.filter (fun c => c.2.2 != { f with age := 0 }) } }

/-- A check code discards a flit: DROPS of its column counts it, its claim clears, and the loss of a reply is told (R95, R96). -/
def State.discard (s : State) (l : OnLink) : State :=
  let c : Fin 16 := finOf 16 (columnOf l.at_)
  let v := s.fabric.drops[c.val]
  let v' : W32 := if v == 0xFFFFFFFF then v else v + 1
  let s := { s with fabric := { s.fabric with drops := s.fabric.drops.set c.val v' } }.clearClaim l.flit
  if l.flit.isReply then (s.creditNoted l.flit).lossNotice l.flit else s

/-! ### Sounds (R80) -/

/-- Sounds after one hop: flits that every core has seen have left. -/
def stepSounds (l : List OnSound) : List OnSound :=
  (l.filter (fun o => decide (0 < o.left))).map (fun o => { o with col := (o.col + 1) % 16, left := o.left - 1 })

/-- A flit goes to the agent at a router. -/
def State.toInbox (s : State) (r : RouterId) (f : Flit) : State := s.modRouter r (fun q => { q with inbox := q.inbox ++ [f] })

/-- Every sound moves one stop, and the cores at the stops see their flits. -/
def State.moveSounds (s : State) : State :=
  let l := stepSounds s.fabric.sounds
  l.foldl (fun s o => s.toInbox (coreRouter (coreOf o.island o.col)) o.flit) { s with fabric := { s.fabric with sounds := l } }

/-- A flit enters a sound: the core at the stop sees it at once, its credit goes back, its claim clears. -/
def State.enterSound (s : State) (r : RouterId) (f : Flit) : State :=
  match islandAt r with
  | none => s
  | some i =>
    let col := columnOf r
    let o : OnSound := { island := i, col := col, left := 15, flit := f }
    let s := { s with fabric := { s.fabric with sounds := s.fabric.sounds ++ [o] } }.clearClaim f
    (s.toInbox (coreRouter (coreOf i col)) f).creditDelivered f

/-- What a router has given out takes effect. -/
def State.applyGiven (s : State) (r : RouterId) (g : Given) (crossed : Nat) : State :=
  let s := { s with fabric := { s.fabric with links := s.fabric.links ++ g.outs } }
  let s := g.ejected.foldl (fun s f => (s.toInbox r f).creditDelivered f) s
  let s := match g.inserted with
    | some f => s.enterSound r f
    | none => s
  match islandAt r with
  | none => s
  | some i =>
    let s := s.modIsland i (fun v => { v with defl := v.defl + g.defl, cross := v.cross + crossed })
    g.refused.foldl (fun s f =>
      if s.fabric.claims.contains (i, columnOf r, f) then s
      else { s with fabric := { s.fabric with claims := s.fabric.claims ++ [(i, columnOf r, f)] } }) s

/-- The routers that flits enter in this cycle. -/
def State.busyRouters (s : State) : List RouterId :=
  (List.finRange 240).filter (fun r => (s.router r).inject.isSome || s.fabric.links.any (fun l => l.at_ == r))

/-- A router without its candidate. -/
def Router.clearInject (q : Router) : Router := { q with inject := none }

/-- One cycle of the whole fabric; `drops` names the inputs whose flits fail their check (R86, R95). -/
def State.fabricCycle (s : State) (drops : List (RouterId × Lane)) : State :=
  let s := s.moveSounds
  let given := s.busyRouters.map (fun r => (r, s.routerCycle r drops))
  let lost := s.fabric.links.filter (fun l => drops.contains (l.at_, l.lane))
  let s := { s with fabric := { s.fabric with
    links := [], routers := s.fabric.routers.map Router.clearInject } }
  let s := given.foldl (fun s g => s.applyGiven g.1 g.2.1 g.2.2) s
  lost.foldl State.discard s

/-! ### Injection (R87, R93) -/

/-- The cycle lies outside the quiet window of a column. -/
def unquiet (t col : Nat) : Bool :=
  let phase := (t + 8192 - 512 * col) % 8192
  decide (256 ≤ phase) && decide (phase < 7936)

/-- DUTY and THRESH of an island (R94). -/
def Island.duty (i : Island) : Nat := fld i.fthr 15 13
def Island.thresh (i : Island) : Nat := fld i.fthr 10 0

/-- The throttle of a core router's island admits the cycle. -/
def State.throttleAdmits (s : State) (r : RouterId) : Bool :=
  match islandAt r with
  | none => true
  | some i => !(s.island i).tact || decide (s.time % 8 < (s.island i).duty)

/-- R87 admits a candidate at a router. -/
def State.mayInject (s : State) (r : RouterId) : Bool :=
  (s.router r).inject.isNone && decide ((s.fabric.links.filter (fun l => l.at_ == r)).length ≤ 3)
    && decide ((s.router r).credits.length < 16) && unquiet s.time (columnOf r) && s.throttleAdmits r

/-- A flit that answers a request. -/
def Flit.isAnswer (f : Flit) : Bool :=
  match f.cls with
  | .readReply | .multiReply | .writeAck | .putAnswer | .atomReply | .accept => true
  | .readReq | .write | .put | .accumulate | .atomReq | .message | .barrier | .translation | .management => false

/-- Place of the flit that a router would inject: its oldest, in order (the spec names no order among an agent's waiting flits, log 88); while the guard stops new requests, a core's oldest answer
(16_energy R357). -/
def State.nextOut (s : State) (r : RouterId) : Option Nat :=
  if s.gov.guard == 3 && (islandAt r).isSome then (s.router r).outbox.findIdx? Flit.isAnswer
  else if (s.router r).outbox.isEmpty then none else some 0

/-- FLIT_INJECTION (R87): the oldest waiting flit of a router becomes its candidate of this cycle and takes a credit. -/
def execFlitInjection (r : RouterId) (s : State) : Out :=
  .next (match s.nextOut r with
    | none => s
    | some n =>
      match (s.router r).outbox[n]? with
      | none => s
      | some f =>
        if s.mayInject r then
          let f := { f with age := 0, src := r }
          s.modRouter r (fun q => { q with
            outbox := q.outbox.eraseIdx n, inject := some f
            credits := q.credits ++ [{ flit := f, cycle := s.time, delivered := none, noted := false }] })
        else s)

/-- CREDIT_RETURN (R88): a delivered flit's credit is back at its router. -/
def execCreditReturn (r : RouterId) (n : Nat) (s : State) : Out :=
  .next (s.modRouter r (fun q =>
    match q.credits[n]? with
    | some c => if c.delivered.isSome then { q with credits := q.credits.eraseIdx n } else q
    | none => q))

/-- CREDIT_EXPIRY (R88, R95): 8,224 cycles after its injection the flit of a credit that has not returned is lost; a reply's
loss is told unless it has been, any other flit is sent again. -/
def execCreditExpiry (r : RouterId) (n : Nat) (s : State) : Out :=
  .next (match (s.router r).credits[n]? with
    | none => s
    | some c =>
      if c.delivered.isSome || decide (s.time < c.cycle + 8224) then s
      else
        let s := (s.modRouter r (fun q => { q with credits := q.credits.eraseIdx n })).clearClaim c.flit
        if c.flit.isReply then (if c.noted then s else s.lossNotice c.flit)
        else s.modRouter r (fun q => { q with outbox := q.outbox ++ [c.flit] }))

/-- No credit is overdue: a delivered flit's has come back within 32 cycles, and one of 8,224 cycles has been found lost (R88, R91). -/
def State.creditsOnTime (s : State) : Bool :=
  s.fabric.routers.toList.all (fun q => q.credits.all (fun c =>
    match c.delivered with
    | some t => decide (s.time < t + 32)
    | none => decide (s.time < c.cycle + 8224)))

/-- DRATIO of a window: deflections times 1,024 over the flits that crossed (R93). -/
def windowRatio (defl cross : Nat) : Nat := if cross == 0 then 0 else defl * 1024 / cross

/-- THROTTLE_WINDOW_CLOSE (R93, R94): at every multiple of 1,024 fabric cycles every island closes its window. -/
def execThrottleWindowClose (s : State) : Out :=
  .next (if s.time % 1024 == 0 && decide (s.gov.windows < s.time / 1024) then
      { s with
        gov := { s.gov with windows := s.time / 1024 }
        islands := s.islands.map (fun (v : Island) =>
          let d := windowRatio v.defl v.cross
          { v with dratio := d, wseq := v.wseq + 1, tact := decide (v.thresh < d) && decide (v.thresh < 1024)
                   defl := 0, cross := 0 }) }
    else s)

end Sys2Proof.Machine
end

