-- ==== Sys2Proof/Machine/Clocks.lean ====
section
/-! DEFINITION. Clocks: what one fabric cycle is in core cycles, ratio requests and ramps, the stretcher, and the fabric
cycle as a device step (16_energy R353 to R356, R363 to R365, 04_fabric R84, R93, 14_scalar R316). -/

namespace Sys2Proof.Machine

open Sys2Proof

/-! ### Ticks of the fabric clock -/

/-- Every device step bound to the fabric clock has been taken up to the present cycle: ramp ticks of 100 ns, energy ticks
of 1 µs, throttle windows, interval boundaries with their lowerings, credits and slices (R93,
R346, R349, R354, 04_fabric R88, 15_dispatch R338). -/
def State.onTime (s : State) : Bool :=
  s.gov.ramps == s.time / 160 && s.gov.ticks == s.time / 1600 && s.gov.windows == s.time / 1024
    && s.gov.boundaries == s.time / 160000 + 1 && s.gov.lowering.isEmpty && s.creditsOnTime
    && s.disp.gangs.all (fun v => !s.sliceOver v)

/-- The island's clock is stretched for droop or current, at an open depth (R356). -/
def Clock.stretching (c : Clock) : Bool := c.droop || c.overCur

/-- Units of 1/3200 core cycle that pass in a fabric cycle: twice the frequency in MHz; half of that when halved; between
half and 1/1.125 of it, at a free depth, when stretched (R356, R357). -/
def Clock.rate (c : Clock) (half : Bool) (free : Nat) : Nat :=
  if c.hot || half then c.f
  else if c.stretching then c.f + free % (16 * c.f / 9 - c.f + 1)
  else 2 * c.f

/-- The guard halves the clock of an island (R357). -/
def State.guardHalves (s : State) (i : IslandId) : Bool :=
  decide (2 ≤ s.gov.guard) || (s.gov.guard == 1 && decide ((s.island i).bal < 0))

/-- An island's clock counts a fabric cycle. -/
def Clock.tick (c : Clock) (half : Bool) (free : Nat) : Clock :=
  let r := c.rate half free
  { c with
    cycles := c.cycles + r
    stretched := if c.stretching || c.hot then c.stretched + r else c.stretched
    current := if c.overCur then c.current + r else c.current }

/-- A core with a task counts a fabric cycle of `u` units: `cyc`, stall times, and the cycles of a deadlock. -/
def Core.tick (k : Core) (u : Nat) (dead : Bool) : Core :=
  if k.task.isNone then k
  else
    let p := k.sys.cycPart + u
    let n := p / 3200
    let k := { k with
      sys := { k.sys with cycPart := p % 3200, cyc := k.sys.cyc + BitVec.ofNat 64 n }
      trap := { k.trap with idle := if dead then k.trap.idle + n else 0 } }
    k.tickStalls

/-- C waits on a ring, a port or a watermark (R350). -/
def Core.cStalled (k : Core) : Bool :=
  match k.seqs.c.wait with
  | some (.ring _) => true
  | some (.gate _ _) => true
  | some (.tiles _ _) => true
  | _ => false

/-- Units in which the C of resident tasks stood still, and all of them. -/
def State.stallSample (s : State) (rates : List Nat) : Nat × Nat :=
  (List.finRange 160).foldl (fun r c =>
    let k := s.core c
    if k.task.isNone then r
    else
      let u := (rates[c.val / 16]?).getD 0
      (if k.cStalled then r.1 + u else r.1, r.2 + u)) (0, 0)

/-- Time passes by one fabric cycle: clocks, cores, throttle counts (R84, R93, R94). -/
def State.tickTime (s : State) : State :=
  let free (i : IslandId) : Nat := Config.freeNat (s.draws + i.val)
  let rates := (List.finRange 10).map (fun i => (s.island i).clock.rate (s.guardHalves i) (free i))
  let sample := s.stallSample rates
  let cores := (List.finRange 160).foldl (fun cs c =>
    cs.set c.val ((s.core c).tick ((rates[c.val / 16]?).getD 0) (s.deadlocked c)) c.isLt) s.cores
  let islands := (List.finRange 10).foldl (fun is i =>
    let v := s.island i
    is.set i.val { v with clock := v.clock.tick (s.guardHalves i) (free i), tcyc := if v.tact then v.tcyc + 1 else v.tcyc } i.isLt) s.islands
  { s with
    time := s.time + 1, draws := s.draws + 10, cores := cores, islands := islands
    gov := { s.gov with
      cwait := s.gov.cwait + sample.1
      call := s.gov.call + sample.2
      halved := s.gov.halved || (List.finRange 10).any s.guardHalves } }

/-- FLIT_ROUTING (R86): one fabric cycle of the module. `drops` names the router inputs whose flits fail their check code.
It waits for the steps that are due at the present cycle. -/
def execFlitRouting (drops : List (RouterId × Lane)) (s : State) : Out :=
  .next (if s.onTime then (s.fabricCycle drops).tickTime else s)

/-! ### Requests (R354, R355) -/

/-- The ramp toward the target has finished. -/
def Clock.rampDone (c : Clock) : Bool := c.v == ratioV c.trat && c.f == ratioF c.trat c.tstep

/-- A request becomes the target; the one that it overtakes is counted. -/
def Clock.setTarget (c : Clock) (r step : Nat) : Clock :=
  { c with trat := r, tstep := step, supr := if c.rampDone then c.supr else c.supr + 1 }

/-- Other islands at, or ramping to, the high ratio. -/
def State.othersHigh (s : State) (i : IslandId) : Nat :=
  ((List.finRange 10).filter (fun j => j != i && (s.island j).clock.trat == 2)).length

/-- A request at or above the present ratio becomes the target at once; a lower one is held for the next boundary (R354,
R360). -/
def State.request (s : State) (i : IslandId) (r step : Nat) : State :=
  let q := if r == 2 && decide (3 ≤ s.othersHigh i) then (1, 7) else (r, step)
  s.modIsland i (fun v =>
    if v.clock.trat ≤ q.1 then { v with clock := v.clock.setTarget q.1 q.2 }
    else { v with clock := { v.clock with held := some q } })

/-- IFREQ (R355): a write of IFREQ_i with GO makes its request; RATIO 3 is ignored. -/
def execIfreq (i : IslandId) (v : W64) (s : State) : Out :=
  .next (if v.getLsbD 63 && fld v 9 8 != 3 then s.request i (fld v 9 8) (fld v 2 0) else s)

/-! ### Ramps (R354) and filler (R363 to R365) -/

/-- One 100 ns tick of an island's ramp; voltages are in 0.1 mV. -/
def Clock.ramp (c : Clock) : Clock :=
  let ft := ratioF c.trat c.tstep
  let vt := ratioV c.trat
  let f := if ft < c.f then ft else c.f
  let v := if c.v < vt then min vt (c.v + 35) else if vt < c.v then max vt (c.v - 35) else c.v
  { c with v := v, f := if f < ft && vt ≤ v then ft else f }

/-- A reason of R364 for which a core's load may cease: its task has left it, its gang is being stopped, an agent of it is held, or the
guard has stopped issue. -/
def Core.ceased (k : Core) (stopped : Bool) : Bool :=
  k.fill.gone.isSome || stopped
    || (k.task.isSome && (k.trap.stop || k.trap.halt.isSome || agents.any (fun a => (k.waitOf a).isSome)))

/-- The counted activity of a core fell below that of the tick before (R363). -/
def Core.fell (k : Core) : Bool := decide (k.fill.work < k.fill.level)

/-- The cores of an island that issue filler in a tick: those whose activity fell for a reason of R364; where no count shows one, those
whose activity fell, then those with a reason, and at last all, for a fall is held in any case (log 8). -/
def State.fillers (s : State) (i : IslandId) : List CoreId :=
  let stopped := s.gov.guard == 3
  let cs := islandCores i
  (([cs.filter (fun c => (s.core c).fell && (s.core c).ceased stopped), cs.filter (fun c => (s.core c).fell),
    cs.filter (fun c => (s.core c).ceased stopped)] : List (List CoreId)).find? (fun l => !l.isEmpty)).getD cs

/-- A core issues filler operations; they belong to the resident task whose work ceased, or to the tenant of the task that has left
(R365). -/
def Core.issueFiller (k : Core) (n : Nat) : Core :=
  match k.fill.gone with
  | some t => { k with fill := { k.fill with work := 0, ops := k.fill.ops ++ [(t, n)] } }
  | none =>
    let k := k.note .filler n
    { k with fill := { k.fill with work := 0 } }

/-- A 100 ns tick of a core's share in the slope: `n` filler operations where it is to issue some, else its present work is what its
current comes from. The work of a task that has left is forgotten once that of a later task supplies as much. -/
def Core.tickFill (k : Core) (n : Option Nat) : Core :=
  match n with
  | some n => k.issueFiller n
  | none => { k with fill := { k.fill with work := 0, level := k.fill.work, gone := if k.task.isSome && !k.fell then none else k.fill.gone } }

/-- The slope of an island's current over a 100 ns tick (R363): `load` is what its cores draw without filler, in mA, `filler` how
many operations a core issues, one at least. A fall of more than 100 mA is held to 100 mA. -/
def State.slope (s : State) (load : Nat) (filler : List (CoreId × Nat)) (i : IslandId) : State :=
  let cur := (s.island i).clock.cur
  let falls := decide (load + 100 < cur)
  let held := if falls then s.fillers i else []
  let ops (c : CoreId) : Option Nat :=
    if held.contains c then some (max 1 (((filler.find? (fun f => f.1 == c)).map (fun f => f.2)).getD 1)) else none
  let s := (islandCores i).foldl (fun s c => s.modCore c (fun k => k.tickFill (ops c))) s
  s.modIsland i (fun v => { v with clock := { v.clock with cur := if falls then cur - 100 else load } })

/-- RAMP_TICK (R354, R363): every 100 ns, 160 fabric cycles, each island moves toward its target, and the slope of its current is
held. An island whose current is not told keeps it. -/
def execRampTick (slope : Slope) (s : State) : Out :=
  .next (if s.time % 160 == 0 && decide (s.gov.ramps < s.time / 160) then
      let s := { s with
        gov := { s.gov with ramps := s.time / 160 }
        islands := s.islands.map (fun (v : Island) => { v with clock := v.clock.ramp }) }
      (List.finRange 10).foldl (fun s i => s.slope ((slope.load[i.val]?).getD (s.island i).clock.cur) slope.filler i) s
    else s)

/-! ### The stretcher (R356) -/

/-- TCRIT and TWARN. -/
def Gov.tcrit (g : Gov) : Nat := fld g.therm 15 8
def Gov.twarn (g : Gov) : Nat := fld g.therm 7 0

/-- ILIM of an island in mA (R352). -/
def Island.ilim (i : Island) : Nat := fld i.ipol 63 48

/-- DROOP_TRIP (R356). -/
def execDroopTrip (i : IslandId) (s : State) : Out :=
  .next (s.modIsland i (fun v => { v with clock := { v.clock with droop := true } }))

/-- DROOP_CLEAR (R356). -/
def execDroopClear (i : IslandId) (s : State) : Out :=
  .next (s.modIsland i (fun v => { v with clock := { v.clock with droop := false } }))

/-- OVERCURRENT (R356): the sensed current `ma` exceeds ILIM. -/
def execOvercurrent (i : IslandId) (ma : Nat) (s : State) : Out :=
  .next (s.modIsland i (fun v => if v.ilim < ma then { v with clock := { v.clock with overCur := true } } else v))

/-- CURRENT_LIMIT_CLEAR (R356): the sensed current is ILIM or below. -/
def execCurrentLimitClear (i : IslandId) (ma : Nat) (s : State) : Out :=
  .next (s.modIsland i (fun v => if ma ≤ v.ilim then { v with clock := { v.clock with overCur := false } } else v))

/-- THERMAL_CRITICAL (R356): the hottest sensor reads TCRIT or more. -/
def execThermalCritical (i : IslandId) (temp : Nat) (s : State) : Out :=
  .next (if s.gov.tcrit ≤ temp then
      s.modIsland i (fun v => { v with clock := { v.clock with hot := true, temp := temp } })
    else s)

/-- THERMAL_RECOVERY (R356): the hottest sensor reads less than TWARN. -/
def execThermalRecovery (i : IslandId) (temp : Nat) (s : State) : Out :=
  .next (if temp < s.gov.twarn then
      s.modIsland i (fun v => { v with clock := { v.clock with hot := false, temp := temp } })
    else s)

end Sys2Proof.Machine
end

