-- ==== Sys2Proof/Machine/HostLink.lean ====
section
/-! DEFINITION. Requests of the device to the host (18_host R387, R388): each waits for its completion or its time-out. -/

namespace Sys2Proof.Machine

open Sys2Proof

/-- RLX and NSNP of a segment register (R389). -/
def segRlx (seg : W64) : Bool := seg.getLsbD 14
def segNsnp (seg : W64) : Bool := seg.getLsbD 13

/-- A tag is free: a request may be sent. -/
def State.hostRoom (s : State) : Bool := decide (s.host.reqs.length < 1024)

/-- The tag of the next request: the lowest 10-bit tag that no request has (R387). -/
def State.nextTag (s : State) : Nat := ((List.range 1024).find? (fun t => s.host.reqs.all (fun r => r.tag != t))).getD 0

/-- A non-posted request to the host at a device physical address under a segment's values; `n` is 0 for a flushing read (R297). -/
def State.hostAsk (s : State) (pa : Nat) (seg : W64) (n : Nat) (atom : Option AtomReq) (flush : Bool) (pri : Nat) (who : Who) : State :=
  let r : HostReq :=
    { tag := s.nextTag, bus := busAt seg pa, pa := pa, size := n, atom := atom, flush := flush, who := who, pri := pri
      rlx := segRlx seg, nsnp := segNsnp seg, sent := s.time }
  { s with host := { s.host with reqs := s.host.reqs ++ [r] } }

/-- A posted write handed to the endpoint: it is performed (R388). -/
def State.hostPost (s : State) (pa : Nat) (seg : W64) (data : List Byte) : State :=
  let w : HostWrite := { bus := busAt seg pa, data := data, rlx := segRlx seg, nsnp := segNsnp seg }
  { s with host := { s.host with posted := s.host.posted ++ [w] } }

/-- A request by its tag. -/
def State.hostReq (s : State) (tag : Nat) : Option HostReq := s.host.reqs.find? (fun r => r.tag == tag)

/-- The list of requests without one. -/
def State.hostDone (s : State) (tag : Nat) : State :=
  { s with host := { s.host with reqs := s.host.reqs.filter (fun r => r.tag != tag) } }

/-- Bytes of a module's local LPDDR6 or of a peer's memory, as they stand. -/
def State.readMem (s : State) (pa pm n : Nat) : List Byte :=
  if pm == 0 then s.mem.readN pa n
  else
    match s.peer (s.peerIndex pm) with
    | some p => p.mem.readN pa n
    | none => zeros n

/-- Bytes written into local LPDDR6 or into a peer's memory. -/
def State.writeMem (s : State) (pa pm : Nat) (data : List Byte) : State :=
  if pm == 0 then { s with mem := s.mem.writeN pa data }
  else
    { s with host := { s.host with peers := s.host.peers.map (fun p =>
        if p.index == s.peerIndex pm then { p with mem := p.mem.writeN pa data } else p) } }

end Sys2Proof.Machine
end

