-- ==== Sys2Proof/Machine/Slices.lean ====
section
/-! DEFINITION. The lines of a slice, the channel behind it with its line check code, and an access to a line (04_fabric R74 to R77,
03_memory R73, 16_energy R347). -/

namespace Sys2Proof.Machine

open Sys2Proof

/-! ### Lines (R74 to R76) -/

/-- Set of a line: (pa[38:11] div 5) mod 128. -/
def sliceSet (line : Nat) : Nat := line / 16 % 2 ^ 28 / 5 % 128

/-- A line of a slice. -/
def Slice.find (q : Slice) (line : Nat) : Option Line := q.lines.find? (fun l => l.line == line)

/-- Lines of the set of a line, the least recently used first. -/
def Slice.inSet (q : Slice) (line : Nat) : List Line := q.lines.filter (fun l => sliceSet l.line == sliceSet line)

/-- Valid sectors of a line. -/
def Slice.validOf (q : Slice) (line : Nat) : BitVec 4 :=
  match q.find line with
  | some l => l.valid
  | none => 0

/-- A line put in its place for a hint (R75). -/
def putLine (ls : List Line) (l : Line) (h : Hint) : List Line :=
  match h with
  | .stream => l :: ls.filter (fun m => m.line != l.line)
  | .bypass => if ls.any (fun m => m.line == l.line) then ls.map (fun m => if m.line == l.line then l else m) else ls ++ [l]
  | .dflt => ls.filter (fun m => m.line != l.line) ++ [l]
  | .sticky => ls.filter (fun m => m.line != l.line) ++ [l]

/-- The hint recorded after an access (R75). -/
def keepHint (old h : Hint) : Hint := if h == .bypass then old else h

/-- At most eight sticky lines in a set: beyond that the least recently used one takes the default hint (R76). -/
def Slice.limit (q : Slice) (line : Nat) : Slice :=
  let sticky := (q.inSet line).filter (fun l => l.hint == .sticky)
  if 8 < sticky.length then
    match sticky.head? with
    | some v => { q with lines := q.lines.map (fun l => if l.line == v.line then { l with hint := .dflt } else l) }
    | none => q
  else q

/-- An access to a present line changes its hint and recency. -/
def Slice.touch (q : Slice) (line : Nat) (h : Hint) : Slice :=
  match q.find line with
  | some l => ({ q with lines := putLine q.lines { l with hint := keepHint l.hint h } h }).limit line
  | none => q

/-- The line that leaves when a new one comes: none while the set has a free way. -/
def Slice.victim (q : Slice) (line : Nat) : Option Line :=
  if (q.inSet line).length < 16 then none else (q.inSet line).find? (fun l => l.hint != .sticky)

/-- Sectors of a present line become valid, and dirty. -/
def Slice.mark (q : Slice) (line : Nat) (valid dirty : BitVec 4) : Slice :=
  { q with lines := q.lines.map (fun l =>
      if l.line == line then { l with valid := l.valid ||| valid ||| dirty, dirty := l.dirty ||| dirty } else l) }

/-- Number of sectors in a set of sectors. -/
def countSecs (m : BitVec 4) : Nat := ((List.range 4).filter (fun i => m.getLsbD i)).length

/-! ### Requesters (03_memory R69, R73) -/

/-- SEQ, VA, copy identifier, whether atomic, and who holds the record, of a requester. -/
def State.whoInfo (s : State) (w : Who) : Nat × Nat × W32 × Bool × Holder :=
  match w with
  | .load c x id =>
    let v := (s.core c).ctx x
    let va := match v.op with
      | some (.block va n _ _) => if n == id then va else 0
      | _ => ((v.loads.find? (fun l => l.id == id)).map XLoad.va).getD 0
    (0, va, 0, false, .ctx c x)
  | .store c x id =>
    (0, ((((s.core c).ctx x).stores.find? (fun l => l.id == id)).map XStore.va).getD 0, 0, false, .ctx c x)
  | .copy c id idx part =>
    match (s.core c).anyCopy id with
    | some v =>
      let va := ((v.out.find? (fun o => o.idx == idx)).bind (fun o => (o.parts[part]?).map Part.va)).getD 0
      (if v.op.isS then 3 else 1, va, v.copyId, false, .copy c id)
    | none => (1, 0, 0, false, .copy c id)
  | .atom c id =>
    match (s.core c).atoms.find? (fun a => a.id == id) with
    | some a => (3, a.va, a.copyId, true, .atom c id)
    | none => (3, 0, 0, true, .atom c id)
  | .fill c _ va seq => (seq, va, 0, false, .unit c)
  | .report c id va seq cid => (seq, va, cid, false, .copy c id)
  | .barrier c x =>
    let va := match ((s.core c).ctx x).op with
      | some (.barrier va _) => va
      | _ => 0
    (0, va, 0, false, .ctx c x)
  | .entry c _ => (0, 0, 0, false, .unit c)
  | .msg c x => (0, 0, 0, false, .ctx c x)
  | .fetch c a off =>
    let i := (agentSect a).1
    let va := match (s.core c).task with
      | some t => t.image + ((t.sects[i]?).getD (0, 0)).1 + off
      | none => 0
    (i, va, 0, false, .seq c a)
  | .peer _ _ => (0, 0, 0, false, .dispatcher)
  | .nobody => (0, 0, 0, false, .dispatcher)

/-- VA of the faulting sector in the line of an access at a VA: the access's own where that sector is its own (03_memory R69). -/
def faultVa (va : Nat) (bad : BitVec 4) : Nat :=
  if bad.getLsbD (va % 128 / 32) then va
  else va / 128 * 128 + 32 * (((List.range 4).find? (fun k => bad.getLsbD k)).getD 0)

/-- An access of a requester has met an uncorrectable error: one record (R73), of a `prefetch` too (log 102). It has the VA of the access of
X or of the atomic, and of a copy-family word that of the faulting sector, one of `bad` in its line (R69). -/
def State.errorFor (s : State) (i : SliceId) (pa : Nat) (w : Who) (bad : BitVec 4) (wr : Bool) : State :=
  match w.core with
  | none => s.memoryErrorOther pa i wr
  | some c =>
    match (s.core c).task with
    | none => s.memoryErrorOther pa i wr
    | some t =>
      let n := s.whoInfo w
      s.memoryError c t.tenant n.1 (if n.1 == 0 || n.2.2.2.1 then n.2.1 else faultVa n.2.1 bad) n.2.2.1 n.2.2.2.1 wr n.2.2.2.2

/-! ### The channel -/

/-- Correctable errors of a channel are counted. -/
def State.countCorrected (s : State) (i : SliceId) (n : Nat) : State :=
  let c : Fin 16 := finOf 16 i.val
  let v := (s.mgmt.mce[c.val]).toNat + n
  { s with mgmt := { s.mgmt with mce := s.mgmt.mce.set c.val (BitVec.ofNat 32 (min v 0xFFFFFFFF)) c.isLt } }

/-- A whole line reads as zeros. -/
def State.zeroLine (s : State) (line : Nat) : State := { s with mem := s.mem.clear (128 * line) (128 * line + 128) }

/-- Sectors of a line are read from the channel for a requester. -/
def State.readChannel (s : State) (i : SliceId) (line : Nat) (want : BitVec 4) (e : Ecc) (w : Who) (wr : Bool) : State :=
  let s := (s.channel (countSecs want)).countCorrected i e.corrected
  if e.bad &&& want != 0 then (s.zeroLine line).errorFor i (128 * line) w (e.bad &&& want) wr else s

/-- A slice has not yet made its line access, or its atomic operation, of the present fabric cycle (R77). -/
def State.lineFree (s : State) (i : SliceId) : Bool := (s.slice i).lineAt != some s.time
def State.atomFree (s : State) (i : SliceId) : Bool := s.lineFree i && (s.slice i).atomAt != some s.time

/-- A slice makes its line access, or its atomic operation, of the present cycle. -/
def State.useLine (s : State) (i : SliceId) : State := s.modSlice i (fun q => { q with lineAt := some s.time })
def State.useAtom (s : State) (i : SliceId) : State := s.modSlice i (fun q => { q with atomAt := some s.time })

/-- The dirty sectors of a line that leaves are written to the channel, errors of the transfer being corrected. -/
def State.writeBack (s : State) (i : SliceId) (v : Line) (e : Ecc) : State :=
  if v.dirty == 0 then s
  else
    let s := (s.channel (countSecs v.dirty)).countCorrected i e.back
    if e.evicted then (s.zeroLine v.line).memoryErrorOther (128 * v.line) i true else s

/-- A line has a place in the slice, the victim written back. -/
def State.allocate (s : State) (i : SliceId) (line : Nat) (h : Hint) (e : Ecc) : State :=
  if ((s.slice i).find line).isSome then s
  else
    let s := match (s.slice i).victim line with
      | some v => (s.writeBack i v e).modSlice i (fun q => { q with lines := q.lines.filter (fun l => l.line != v.line) })
      | none => s
    let l : Line := { line := line, valid := 0, dirty := 0, hint := if h == .bypass then .dflt else h }
    s.modSlice i (fun q => ({ q with lines := putLine q.lines l h }).limit line)

/-- A write-back that a new line would need is held: a record of this slice for the owner of the victim still waits (R71). -/
def State.sliceStuck (s : State) (i : SliceId) (line : Nat) : Bool :=
  ((s.slice i).find line).isNone && (match (s.slice i).victim line with
    | some v =>
      v.dirty != 0 && (let tag := s.ownerTag (granOf (128 * v.line))
        if h : tag < 12 then (s.tenant ⟨tag, h⟩).holds (.slice i) else false)
    | none => false)

/-! ### Reads that a step makes at once: code words, page-table entries, the dispatcher's -/

/-- `n` bytes within a line are read through its slice: the whole line comes from the channel when one of their sectors is missing (03_memory
R55, log 84), and is allocated unless the hint is bypass. Whether an uncorrectable error was met, for which the line is zero now; its
record is the caller's. It is the slice's line access of the cycle (R77). -/
def State.readLine (s : State) (pa n : Nat) (h : Hint) (w : Who) (paid : Bool) : State × Bool :=
  let i := sliceFor pa
  let line := lineOf pa
  let s := s.useLine i
  let valid := (s.slice i).validOf line
  if secMask pa n &&& ~~~valid == 0 then (s.modSlice i (fun q => q.touch line h), false)
  else
    let want := ~~~valid
    let e := s.upset
    let s := { s with upset := Ecc.clean }
    let s := if paid then s.charge w (countSecs want) else s
    let s := (s.channel (countSecs want)).countCorrected i e.corrected
    let bad := e.bad &&& want != 0
    let s := if bad then s.zeroLine line else s
    if h == .bypass then (s, bad) else ((s.allocate i line h e).modSlice i (fun q => (q.mark line want 0).touch line h), bad)

/-- Lines that `n` bytes from an address touch, as address and length. -/
def linePieces (pa n : Nat) : List (Nat × Nat) :=
  if n == 0 then []
  else (List.range ((pa + n - 1) / 128 - pa / 128 + 1)).map (fun j =>
    let a := max pa (128 * (pa / 128 + j))
    (a, min (pa + n) (128 * (pa / 128 + j) + 128) - a))

/-- Bytes of this module's memory are read with no line allocated, for no task (R73). -/
def State.readPast (s : State) (pa n : Nat) : State :=
  (linePieces pa n).foldl (fun s p =>
    let r := s.readLine p.1 p.2 .bypass .nobody false
    if r.2 then r.1.memoryErrorOther p.1 (sliceFor p.1) false else r.1) s

/-! ### An access that changes a line -/

/-- Which sectors an access that changes a line reads first: none, its own sectors where they are written in part (R74), or the whole
line as a read miss does (03_memory R55). -/
inductive Reads where
  | none
  | sectors
  | line
  deriving DecidableEq, Repr

/-- What an access to `n` bytes of a line found: the state, the bytes as they stood, and whether they come from an uncorrectable
error. -/
structure Updated where
  s : State
  old : List Byte
  bad : Bool

/-- `n` bytes within a line are changed by `f`, which answers none when it writes nothing. A bypass write of an absent sector goes to
the channel (R74, R75); a sector dirtied from clean is charged, and so is every sector read or written at the channel, when `paid`
(R347). It is the slice's line access of the cycle (R77). -/
def State.update (s : State) (i : SliceId) (pa n : Nat) (h : Hint) (w : Who) (paid : Bool) (reads : Reads) (e : Ecc)
    (f : List Byte → Option (List Byte)) : Updated :=
  let line := lineOf pa
  let mask := secMask pa n
  let s := s.useLine i
  let valid := (s.slice i).validOf line
  let missing := match reads with
    | .none => 0
    | .sectors => mask &&& ~~~valid
    | .line => if mask &&& ~~~valid == 0 then 0 else ~~~valid
  let inPlace := ((s.slice i).find line).isSome && missing == 0
  let direct := h == .bypass && !inPlace
  let pay (s : State) (k : Nat) : State := if paid then s.charge w k else s
  let s := if direct then s else s.allocate i line h e
  let s := if missing == 0 then s else pay (s.readChannel i line missing e w true) (countSecs missing)
  let old := s.mem.readN pa n
  let bad := e.bad &&& missing != 0
  let s := if direct then s else s.modSlice i (fun q => (q.mark line missing 0).touch line h)
  match f old with
  | none => { s := s, old := old, bad := bad }
  | some new_ =>
    let s := { s with mem := s.mem.writeN pa new_ }
    if direct then { s := pay (s.channel (countSecs mask)) (countSecs mask), old := old, bad := bad }
    else
      let dirty := match (s.slice i).find line with
        | some l => l.dirty
        | none => 0
      let fresh := mask &&& ~~~dirty
      { s := pay (s.modSlice i (fun q => q.mark line 0 mask)) (countSecs fresh), old := old, bad := bad }

/-- Bytes written for no task, with no line allocated: STATUS, DONE and the A and D bits of an entry (R60, R75). -/
def State.writePast (s : State) (pa : Nat) (data : List Byte) : State :=
  (linePieces pa data.length).foldl (fun s p =>
    let e := s.upset
    let whole := p.1 % 32 == 0 && p.2 % 32 == 0
    let bytes := (data.drop (p.1 - pa)).take p.2
    (({ s with upset := Ecc.clean }).update (sliceFor p.1) p.1 p.2 .bypass .nobody false (if whole then .none else .sectors) e
      (fun _ => some bytes)).s) s

/-- The state after the walker has set A, and D for a write, in the leaf entry (03_memory R60). -/
def State.setAccessed (s : State) (pte : Nat) (write : Bool) : State :=
  let e := s.mem.readLe pte 8
  s.writePast pte (leBytes 8 (BitVec.ofNat 64 e ||| (if write then 0x30 else 0x10)).toNat)

end Sys2Proof.Machine
end

