-- ==== Sys2Proof/Machine/SliceEvents.lean ====
section
/-! DEFINITION. What a slice does with a message that has reached it: reads and multicast windows, line fills, writes, accumulate
writes, atomics, barrier operations (04_fabric R74, R92, 12_sync R259 to R274, 13_ordering R282). -/

namespace Sys2Proof.Machine

open Sys2Proof

/-! ### Messages in a slice -/

/-- Message `n` of a slice. -/
def State.sliceMsg (s : State) (i : SliceId) (n : Nat) : Option Flit := s.inboxAt (sliceRouter i) n

/-- The state without message `n` of a slice. -/
def State.sliceTake (s : State) (i : SliceId) (n : Nat) : State := s.takeInbox (sliceRouter i) n

/-- The address lies in the host aperture (03_memory R54). -/
def isHostPa (pa : Nat) : Bool := decide (2 ^ 39 ≤ pa)

/-- Sectors in `n` bytes, for a charge (R347). -/
def sectorsIn (n : Nat) : Nat := (n + 31) / 32

/-! ### Reads (R74, R92) -/

/-- Sectors whose data a slice can give out to a read with a hint: valid ones, and to a bypass read those that a fill without
allocation has brought; any other read that misses allocates (R75). -/
def Slice.atHand (q : Slice) (line : Nat) (h : Hint) : BitVec 4 :=
  (q.fills.filter (fun f => h == .bypass && f.line == line && f.arrived)).foldl (fun m f => m ||| f.want) (q.validOf line)

/-- Sectors of a line on their way. -/
def Slice.onWay (q : Slice) (line : Nat) : BitVec 4 :=
  (q.fills.filter (fun f => f.line == line && !f.arrived)).foldl (fun m f => m ||| f.want) 0

/-- A read that meets a fill on its way leaves its hint, and the place of the line, to it; unless its hint is bypass the line is to be
allocated (R75). -/
def Fill.meet (f : Fill) (line : Nat) (h : Hint) : Fill :=
  if f.line == line && !f.arrived && h != .bypass then { f with alloc := true, hint := h } else f

/-- A read that misses asks the channel for the whole line, but for the sectors that are at hand or on their way (03_memory R55, log
84); `window` is the opening cycle of its multicast window, if it has one. -/
def State.startChannel (s : State) (i : SliceId) (line : Nat) (need : BitVec 4) (h : Hint) (w : Who) (window : Option Nat) : State :=
  let q := s.slice i
  let have_ := q.atHand line h ||| q.onWay line
  let s := s.modSlice i (fun q => { q with fills := q.fills.map (fun f => f.meet line h) })
  if need &&& ~~~have_ == 0 then s
  else
    let f : Fill := { line := line, want := ~~~have_, alloc := h != .bypass, hint := h, who := w, window := window, payers := [], arrived := false }
    s.modSlice i (fun q => { q with fills := q.fills ++ [f] })

/-- Data of a line that was brought without allocation has been given out. -/
def Slice.useUp (q : Slice) (line : Nat) : Slice := { q with fills := q.fills.filter (fun f => f.line != line || !f.arrived) }

/-- A unicast read of a local line is answered when its sectors are at hand; else they are asked for, and it waits. -/
def State.readUnicast (s : State) (i : SliceId) (n : Nat) (f : Flit) (pa size : Nat) (h : Hint) (w : Who) : State :=
  let line := lineOf pa
  let need := secMask pa size
  if need &&& ~~~((s.slice i).atHand line h) == 0 then
    let s := ((s.sliceTake i n).useLine i).modSlice i (fun q => if h == .bypass then (q.touch line h).useUp line else q.touch line h)
    s.answer i f.pri w (.readReply pa (s.mem.readN pa size) 0 w)
  else s.startChannel i line need h w none

/-- A read of a local line joins the open window of its line, or opens one (R92). One that comes 32 cycles after the first, or later,
opens another window (log 89). -/
def State.readWindow (s : State) (i : SliceId) (n : Nat) (f : Flit) (pa size : Nat) (h : Hint) (w : Who) : State :=
  let line := lineOf pa
  let s := (s.sliceTake i n).useLine i
  let joins (v : Window92) : Bool := v.line == line && decide (s.time < v.opened + 32)
  let opened := (((s.slice i).windows.find? joins).map Window92.opened).getD s.time
  let s :=
    if (s.slice i).windows.any joins then
      s.modSlice i (fun q => { q with windows := q.windows.map (fun v => if joins v then { v with reqs := v.reqs ++ [f] } else v) })
    else
      let v : Window92 := { line := line, opened := s.time, reqs := [f], read := 0 }
      s.modSlice i (fun q => { q with windows := q.windows ++ [v] })
  (s.startChannel i line (secMask pa size) h w (some opened)).modSlice i (fun q => q.touch line h)

/-- The code that a read or a write takes at its slice: the target's checks, but for a load or store of X only the link of a host access,
since the others were made at its word (18_host R388, log 14). -/
def State.arrivalCode (s : State) (seg : W64) (t : Tenant) (pa pm : Nat) (w : Who) : Option Nat :=
  if w.isX then (if isHostPa pa && !s.host.link then some 0x21 else none) else s.targetCodeAt seg t pa pm (isHostPa pa)

/-- READ_REQUEST (R92): a read has reached its slice. A failing check is answered with its code (03_memory R65, R67); the host is
asked over the endpoint, a peer over its port. -/
def execReadRequest (i : SliceId) (n : Nat) (s : State) : Out :=
  .next (match s.sliceMsg i n with
    | none => s
    | some f =>
      match f.body with
      | .read pa size pm t h uni w =>
        let host := isHostPa pa
        match s.arrivalCode f.seg t pa pm w with
        | some code => (s.sliceTake i n).answer i f.pri w (.readReply pa [] code w)
        | none =>
          if host then
            if s.hostRoom then ((s.sliceTake i n).charge w (sectorsIn size)).hostAsk pa f.seg size none (size == 0) f.pri w else s
          else if pm != 0 then
            ((s.sliceTake i n).charge w (sectorsIn size)).answer i f.pri w (.readReply pa (s.readMem pa pm size) 0 w)
          else if !s.lineFree i then s
          else if uni || h == .bypass then s.readUnicast i n f pa size h w
          else s.readWindow i n f pa size h w
      | _ => s)

/-- Sectors asked for in a window, and its cores, the opener first. -/
def Window92.sectors (v : Window92) : BitVec 4 :=
  v.reqs.foldl (fun m f =>
    match f.body with
    | .read pa size _ _ _ _ _ => m ||| secMask pa size
    | _ => m) 0
def Window92.cores (v : Window92) : List CoreId :=
  (v.reqs.filterMap (fun f =>
    match f.body with
    | .read _ _ _ _ _ _ w => w.core
    | _ => none)).eraseDups

/-- Multicast replies of a sector of a window, one to each strip that holds a requester, under the priority of the window's first
request (R81, log 90). -/
def State.multicast (s : State) (i : SliceId) (v : Window92) (sec : Nat) : State :=
  let pa := 128 * v.line + 32 * sec
  let strips := (v.cores.map (fun c => islandStrip (islandOf c))).eraseDups
  let pri := (v.reqs.map Flit.pri).headD 0
  strips.foldl (fun s t => s.send (sliceRouter i) (routerAt t (finOf 16 i.val)) pri (.multiReply pa (s.mem.readN pa 32) 0)) s

/-- Requests of a window to a granule that is no longer their tenant's (03_memory R65, R66), and the others. -/
def State.barred (s : State) (f : Flit) : Option Nat :=
  match f.body with
  | .read pa _ pm t _ _ _ => s.targetCodeAt f.seg t pa pm false
  | _ => none

/-- A request of a window is answered with its code. -/
def State.refuseRead (s : State) (i : SliceId) (f : Flit) (code : Nat) : State :=
  match f.body with
  | .read pa _ _ _ _ _ w => s.answer i f.pri w (.readReply pa [] code w)
  | _ => s

/-- The hint that the requests of a window leave to its line: that of the latest (R75). -/
def Window92.hint (v : Window92) : Hint :=
  v.reqs.foldl (fun h f =>
    match f.body with
    | .read _ _ _ _ g _ _ => g
    | _ => h) .dflt

/-- The requester that opened a window. -/
def Window92.asker (v : Window92) : Who := ((v.reqs.head?).bind (fun f => f.body.who)).getD .nobody

/-- MULTICAST_WINDOW_CLOSE (R92): a window that has been open for 32 cycles and whose data is there is answered; its channel reads
are charged to its cores, one that is still on its way when it comes (R347). Requests whose granule has changed its owner since take their code. -/
def execMulticastWindowClose (i : SliceId) (n : Nat) (s : State) : Out :=
  .next (match (s.slice i).windows[n]? with
    | none => s
    | some v =>
      if decide (s.time < v.opened + 32) || !s.lineFree i then s
      else
        let ok : Window92 := { v with reqs := v.reqs.filter (fun f => (s.barred f).isNone) }
        if ok.sectors &&& ~~~((s.slice i).atHand v.line .dflt) != 0 then
          -- data that was evicted before the answer is asked for again
          s.startChannel i v.line ok.sectors ok.hint ok.asker (some v.opened)
        else
          let s := v.reqs.foldl (fun s f =>
            match s.barred f with
            | some code => s.refuseRead i f code
            | none => s) (s.useLine i)
          let s := ((List.range 4).filter (fun k => ok.sectors.getLsbD k)).foldl (fun s k => s.multicast i ok k) s
          let s := s.chargeShared v.cores v.read
          s.modSlice i (fun q => { q with
            windows := q.windows.eraseIdx n
            fills := q.fills.map (fun f => if f.line == v.line && f.window == some v.opened then { f with payers := v.cores } else f) }))

/-- Who asked first for a sector of a line: the requester of a unicast fill, or of the line's windows, and for a sector that none of them
names the one whose request asked for the channel read; the record of an uncorrectable error goes to it (03_memory R69, R73). -/
def State.askedFirst (s : State) (i : SliceId) (f : Fill) (bad : BitVec 4) : Who :=
  match f.window with
  | none => f.who
  | some _ =>
    let asks (q : Flit) : Option Who := match q.body with
      | .read pa size _ _ _ _ w => if secMask pa size &&& bad != 0 then some w else none
      | _ => none
    let reqs := ((s.slice i).windows.filter (fun v => v.line == f.line)).flatMap Window92.reqs
    (reqs.findSome? asks).getD f.who

/-- `k` sectors have come from the channel for a fill (16_energy R347): its requester is charged; or they are charged with its multicast
window, when that closes, and to the cores that had joined it when it has closed. -/
def State.chargeFill (s : State) (i : SliceId) (f : Fill) (k : Nat) : State :=
  match f.window with
  | none => s.charge f.who k
  | some o =>
    let mine (v : Window92) : Bool := v.line == f.line && v.opened == o
    if (s.slice i).windows.any mine then
      s.modSlice i (fun q => { q with windows := q.windows.map (fun v => if mine v then { v with read := v.read + k } else v) })
    else s.chargeShared f.payers k

/-- LINE_FILL (R74): the sectors of a fill arrive from the channel, with what the line check code says of them. -/
def execLineFill (i : SliceId) (n : Nat) (e : Ecc) (s : State) : Out :=
  .next (match (s.slice i).fills[n]? with
    | none => s
    | some f =>
      if f.arrived || (f.alloc && s.sliceStuck i f.line) || !s.lineFree i then s
      else
        let k := countSecs f.want
        let s := (s.useLine i).readChannel i f.line f.want e (s.askedFirst i f (e.bad &&& f.want)) false
        let s := s.chargeFill i f k
        let s := s.modSlice i (fun q => { q with fills := q.fills.eraseIdx n })
        if f.alloc then (s.allocate i f.line f.hint e).modSlice i (fun q => q.mark f.line f.want 0)
        else s.modSlice i (fun q => { q with fills := q.fills ++ [{ f with arrived := true }] }))

/-! ### Writes (R74, R118) -/

/-- SECTOR_WRITE (R74, R118): a write has reached its slice and is performed, or refused with a code. -/
def execSectorWrite (i : SliceId) (n : Nat) (e : Ecc) (s : State) : Out :=
  .next (match s.sliceMsg i n with
    | none => s
    | some f =>
      match f.body with
      | .write pa data pm t h w =>
        let host := isHostPa pa
        match s.arrivalCode f.seg t pa pm w with
        | some code => (s.sliceTake i n).answer i f.pri w (.writeAck code w)
        | none =>
          if host then (((s.sliceTake i n).charge w 1).hostPost pa f.seg data).answer i f.pri w (.writeAck 0 w)
          else if pm != 0 then (((s.sliceTake i n).charge w 1).writeMem pa pm data).answer i f.pri w (.writeAck 0 w)
          else if s.sliceStuck i (lineOf pa) || !s.lineFree i then s
          else
            let reads := if data.length == 32 then Reads.none else Reads.sectors
            let r := (s.sliceTake i n).update i pa data.length h w true reads e (fun _ => some data)
            r.s.answer i f.pri w (.writeAck 0 w)
      | _ => s)

/-! ### Accumulate writes (R265) -/

/-- A BF16 element as FP32, exact, and back. -/
def bfUp (v : Nat) : W32 := BitVec.ofNat 32 (v % 65536 * 65536)
def bfDown (v : W32) : Nat := v.toNat / 65536

/-- Sum of two elements of an FP format, rounded once to it, nearest even (R265). -/
def accAddFp (f : Fmt) (a b : Nat) : Nat :=
  let quiet (v : Nat) : Nat := if f == .bf16 then (BitVec.ofNat 16 v ||| 0x0040).toNat else (quiet32 (BitVec.ofNat 32 v)).toNat
  let inf (neg : Bool) : Nat := if f == .bf16 then (if neg then 0xFF80 else 0x7F80) else (inf32 neg).toNat
  match unpack f a, unpack f b with
  | .nan _ _ _, _ => quiet a
  | .inf _, .nan _ _ _ => quiet b
  | .fin _ _ _, .nan _ _ _ => quiet b
  | .inf n, .inf m => if n == m then inf n else if f == .bf16 then 0x7FC0 else 0x7FC00000
  | .inf n, .fin _ _ _ => inf n
  | .fin _ _ _, .inf n => inf n
  | .fin n1 m1 e1, .fin n2 m2 e2 =>
    let r := sumFin .rne n1 m1 e1 n2 m2 e2
    (packFin f .rne false r.1 r.2.1 r.2.2).1

/-- One element combined: the memory element first (R265). -/
def accElem (op : AccOp) (f : AccFmt) (a b : Nat) : Nat :=
  match f, op with
  | .f32, .add => accAddFp .f32 a b
  | .f32, .min => (fpMinMax false (BitVec.ofNat 32 a) (BitVec.ofNat 32 b)).1.toNat
  | .f32, .max => (fpMinMax true (BitVec.ofNat 32 a) (BitVec.ofNat 32 b)).1.toNat
  | .bf16, .add => accAddFp .bf16 a b
  | .bf16, .min => bfDown (fpMinMax false (bfUp a) (bfUp b)).1
  | .bf16, .max => bfDown (fpMinMax true (bfUp a) (bfUp b)).1
  | .i32, .add => (a + b) % 2 ^ 32
  | .i32, .min => if toSigned 32 a < toSigned 32 b then a else b
  | .i32, .max => if toSigned 32 a < toSigned 32 b then b else a

/-- Bytes of an element. -/
def accWidth : AccFmt → Nat
  | .f32 => 4
  | .bf16 => 2
  | .i32 => 4

/-- A sector combined into a sector. -/
def accSector (op : AccOp) (f : AccFmt) (old src : List Byte) : List Byte :=
  let w := accWidth f
  (List.range (32 / w)).flatMap (fun j =>
    leBytes w (accElem op f (leNat ((old.drop (w * j)).take w)) (leNat ((src.drop (w * j)).take w))))

/-- ACCUMULATE_WRITE (R265): an `acopy` sector is combined into memory at its slice, or at its peer. -/
def execAccumulateWrite (i : SliceId) (n : Nat) (e : Ecc) (s : State) : Out :=
  .next (match s.sliceMsg i n with
    | none => s
    | some f =>
      match f.body with
      | .acc pa data pm t h op fmt w =>
        match s.targetCode t pa pm false with
        | some code => (s.sliceTake i n).answer i f.pri w (.writeAck code w)
        | none =>
          if pm != 0 then
            (((s.sliceTake i n).charge w 1).writeMem pa pm (accSector op fmt (s.readMem pa pm 32) data)).answer i f.pri w
              (.writeAck 0 w)
          else if s.sliceStuck i (lineOf pa) || !s.lineFree i then s
          else
            let r := (s.sliceTake i n).update i pa 32 h w true .line e (fun old => some (accSector op fmt old data))
            r.s.answer i f.pri w (.writeAck 0 w)
      | _ => s)

/-! ### Atomics (R259, R261, R262) -/

/-- An atomic on bytes: what it writes, if anything. -/
def AtomReq.bytes (r : AtomReq) (old : List Byte) : Option (List Byte) := (r.result (leNat old)).1.map (fun v => leBytes (r.w / 8) v)

/-- The answer of a performed atomic. -/
def AtomReq.reply (r : AtomReq) (old : List Byte) (code : Nat) (w : Who) : Body :=
  .atomReply (BitVec.ofNat 64 (leNat old)) (r.result (leNat old)).2 code w

/-- An atomic at its slice: local, at a peer, or sent on to the host (R259, R261). It has no hint of its own and leaves its line the
default one (R75; log 101). -/
def State.atomAtSlice (s : State) (i : SliceId) (n : Nat) (e : Ecc) (f : Flit) (pa pm : Nat) (t : Tenant) (r : AtomReq) (w : Who) :
    State :=
  let host := isHostPa pa
  let len := r.w / 8
  match s.targetCodeAt f.seg t pa pm host with
  | some code => (s.sliceTake i n).answer i f.pri w (.atomReply 0 false code w)
  | none =>
    if host then (if s.hostRoom then ((s.sliceTake i n).charge w 1).hostAsk pa f.seg len (some r) false f.pri w else s)
    else if pm != 0 then
      let old := s.readMem pa pm len
      let s := (s.sliceTake i n).charge w 1
      let s := match r.bytes old with
        | some new_ => s.writeMem pa pm new_
        | none => s
      s.answer i f.pri w (r.reply old 0 w)
    else if s.sliceStuck i (lineOf pa) || !s.atomFree i then s
    else
      let u := ((s.sliceTake i n).useAtom i).update i pa len .dflt w true .line e r.bytes
      u.s.answer i f.pri w (r.reply u.old (if u.bad then 0x30 else 0) w)

/-- An atomic at a scratchpad port, in one pool access, gated as an access of the member itself (R262). A member that has completed has
no scratchpad: code 0x10, as beyond its size (log 74). -/
def State.atomAtPort (s : State) (c : CoreId) (n : Nat) (f : Flit) (off : Nat) (r : AtomReq) (gang : Nat) (w : Who) : State :=
  let k := s.core c
  let len := r.w / 8
  let back (s : State) (b : Body) : State := s.send (coreRouter c) f.src f.pri b
  if !k.inGang gang || !k.inScratch off len then back (s.takeInbox (coreRouter c) n) (.atomReply 0 false 0x10 w)
  else
    match k.gate true off len with
    | .free =>
      let old := k.scratchRead off len
      let s := s.takeInbox (coreRouter c) n
      let s := match r.bytes old with
        | some new_ => s.modCore c (fun k => k.scratchWrite off new_)
        | none => s
      back s (r.reply old 0 w)
    | .held _ => s
    | .dead _ _ => s

/-- ATOMIC_REQUEST (R259): an atomic has reached the router of its slice, or of the core whose scratchpad port performs it. -/
def execAtomicRequest (r : RouterId) (n : Nat) (e : Ecc) (s : State) : Out :=
  .next (match s.inboxAt r n with
    | none => s
    | some f =>
      match f.body, sliceOf r with
      | .atom pa pm t q w, some i => s.atomAtSlice i n e f pa pm t q w
      | .atomPort _ off q gang w, _ =>
        match coreAt r with
        | some c => s.atomAtPort c n f off q gang w
        | none => s
      | _, _ => s)

/-! ### Barrier objects (R267 to R273) -/

/-- A barrier object (R267). -/
structure BarObj where
  wait : Nat
  ovr : Bool
  sem : Nat
  bytes : W32
  arrived : Nat
  expect : Nat
  phase : BitVec 31
  deriving DecidableEq, Repr

/-- The object in 64 bytes. -/
def BarObj.ofBytes (bs : List Byte) : BarObj :=
  let v := leNat bs
  { wait := v / 2 ^ 128 % 2 ^ 160, ovr := v / 2 ^ 102 % 2 == 1, sem := v / 2 ^ 96 % 64, bytes := BitVec.ofNat 32 (v / 2 ^ 64)
    arrived := v / 2 ^ 48 % 2 ^ 16, expect := v / 2 ^ 32 % 2 ^ 16, phase := BitVec.ofNat 31 v }

/-- The bytes of an object; reserved fields are zero. -/
def BarObj.toBytes (o : BarObj) : List Byte :=
  leBytes 64 (o.wait * 2 ^ 128 + bitCode o.ovr * 2 ^ 102 + o.sem * 2 ^ 96 + o.bytes.toNat * 2 ^ 64 + o.arrived * 2 ^ 48
    + o.expect * 2 ^ 32 + o.phase.toNat)

/-- The operation itself, without the completion rule. -/
def BarObj.apply (o : BarObj) (op : BarOp) : BarObj :=
  match op with
  | .arrive => { o with arrived := min 65535 (o.arrived + 1) }
  | .declare b => { o with bytes := o.bytes + b }
  | .report b => { o with bytes := o.bytes - b }
  | .register _ _ => o

/-- Phases that the completion rule completes (R268). -/
def BarObj.phases (o : BarObj) : Nat := if o.bytes != 0 then 0 else if o.expect == 0 then 1 else o.arrived / o.expect

/-- The object after the completion rule. -/
def BarObj.complete (o : BarObj) : BarObj :=
  let n := o.phases
  if n == 0 then o
  else
    { o with
      phase := o.phase + BitVec.ofNat 31 n
      arrived := o.arrived - n * o.expect
      ovr := o.ovr || decide (o.expect < o.arrived)
      wait := 0 }

/-- Wake-ups for the waiters of an object, one to each strip that holds one, with its cores whose WAIT bits were set (R268, R272,
R274). -/
def State.wakeAll (s : State) (i : SliceId) (pri pa : Nat) (wait : Nat) (phase : BitVec 31) : State :=
  let set (v : IslandId) : BitVec 16 := BitVec.ofNat 16 (wait / 2 ^ (16 * v.val))
  ((List.finRange 10).filter (fun v => set v != 0)).foldl
    (fun s v => s.send (sliceRouter i) (routerAt (islandStrip v) (finOf 16 i.val)) pri (.wake pa phase (set v))) s

/-- A registration asks for a phase that is complete (R271). -/
def phasePast (phase p : BitVec 31) : Bool :=
  decide (1 ≤ (phase - p).toNat) && decide ((phase - p).toNat < 2 ^ 30)

/-- A barrier message of one kind at its slice: the owner is checked, the operation and the completion rule are performed in one
step, and the requester is answered (R268 to R271). -/
def State.barrierAt (s : State) (i : SliceId) (n : Nat) (e : Ecc) (ok : BarOp → Bool) : State :=
  match s.sliceMsg i n with
  | none => s
  | some f =>
    match f.body with
    | .barrier pa t op w =>
      if !ok op || s.sliceStuck i (lineOf pa) || !s.lineFree i then s
      else
        let reg := match op with
          | .register _ _ => true
          | _ => false
        match s.targetCode t pa 0 false with
        | some code => (s.sliceTake i n).answer i f.pri w (.barrierAck pa 0 reg false code w)
        | none =>
          let core := (w.core.map Fin.val).getD 0
          let change (o : BarObj) : BarObj := match op with
            | .register p k =>
              if phasePast o.phase p then o
              else { o with wait := Nat.lor o.wait (2 ^ core), sem := k.toNat }
            | _ => (o.apply op).complete
          let u := (s.sliceTake i n).update i pa 64 .dflt w false .line e (fun bs => some (change (BarObj.ofBytes bs)).toBytes)
          let o := BarObj.ofBytes u.old
          match op with
          | .register p _ => u.s.answer i f.pri w (.barrierAck pa o.phase true (phasePast o.phase p) 0 w)
          | _ =>
            let s := if (o.apply op).phases != 0 then u.s.wakeAll i f.pri pa o.wait (o.phase + 1) else u.s
            match w with
            | .barrier _ _ => s.answer i f.pri w (.barrierAck pa o.phase false false 0 w)
            | _ => s
    | _ => s

/-- BARRIER_ARRIVAL (R268, R269). -/
def execBarrierArrival (i : SliceId) (n : Nat) (e : Ecc) (s : State) : Out :=
  .next (s.barrierAt i n e (fun op =>
    match op with
    | .arrive => true
    | _ => false))

/-- BYTE_DECLARATION (R268, R270). -/
def execByteDeclaration (i : SliceId) (n : Nat) (e : Ecc) (s : State) : Out :=
  .next (s.barrierAt i n e (fun op =>
    match op with
    | .declare _ => true
    | _ => false))

/-- BYTE_REPORT (R268, 05_copies R130). -/
def execByteReport (i : SliceId) (n : Nat) (e : Ecc) (s : State) : Out :=
  .next (s.barrierAt i n e (fun op =>
    match op with
    | .report _ => true
    | _ => false))

/-- REGISTRATION (R271). -/
def execRegistration (i : SliceId) (n : Nat) (e : Ecc) (s : State) : Out :=
  .next (s.barrierAt i n e (fun op =>
    match op with
    | .register _ _ => true
    | _ => false))

end Sys2Proof.Machine
end

