-- ==== Sys2Proof/Machine/CoreEvents.lean ====
section
/-! DEFINITION. What a core does with a message that has reached it, and the other steps of its landing unit and mailboxes: read
replies, acknowledgements, atomics' results, puts, losses, parking, barrier answers, messages (04_fabric R89, R95, 05_copies R107,
R118 to R126, 12_sync R260, R269 to R276, 14_scalar R302). -/

namespace Sys2Proof.Machine

open Sys2Proof

/-- Message `n` of a core. -/
def State.coreMsg (s : State) (c : CoreId) (n : Nat) : Option Flit := s.inboxAt (coreRouter c) n

/-- The state without message `n` of a core. -/
def State.coreTake (s : State) (c : CoreId) (n : Nat) : State := s.takeInbox (coreRouter c) n

/-- A record that does not park still waits with one of the core's agents (03_memory R71). -/
def State.recordWaits (s : State) (c : CoreId) (h : Holder) : Bool :=
  match (s.core c).task with
  | some t => (s.tenant t.tenant).holds h
  | none => false

/-- A code with which an access is done: none, or an uncorrectable error. -/
def doneCode (code : Nat) : Bool := code == 0 || code == 0x30

/-! ### Landing (R107, R92) -/

/-- A multicast sector reaches every outstanding read of its address in this module's memory (R92): of copies, be they abandoned and
forgotten by their register, and of the line fills of a `prefetch`. -/
def Core.landMulti (k : Core) (pa : Nat) (data : List Byte) : Core :=
  let k := (k.l1fills.filter (fun f => f.multi && f.line == lineOf pa)).foldl (fun k f => k.l1Fill f.id ((k.tenant).getD 0) pa data) k
  (k.land.copies ++ k.land.orphans).foldl (fun k c =>
    c.out.foldl (fun k o =>
      o.parts.zipIdx.foldl (fun k p => if p.1.pa == pa && p.1.pm == 0 && p.1.data.isNone && !p.1.failed && !c.op.isS then k.landPart c.id o.idx p.2 data else k) k)
      k) k

/-- The answer to a copy's flushing read has come. -/
def Core.copyFlushed (k : Core) (id : Nat) : Core :=
  match k.copy id with
  | some c => k.setCopy { c with flush := 2 }
  | none => k

/-- SECTOR_LANDING (R107): a read reply reaches the landing unit: of a copy, of a line fill of the L1, or a multicast. -/
def execSectorLanding (c : CoreId) (n : Nat) (s : State) : Out :=
  .next (match s.coreMsg c n with
    | none => s
    | some f =>
      match f.body with
      | .multiReply pa data _ => ((s.coreTake c n).modCore c (fun k => k.landMulti pa data)).settle c
      | .readReply _ data code (.copy _ id idx part) =>
        let s := s.coreTake c n
        let flushes (m : Nat) : Bool := match (s.core c).copy id with
          | some v => idx == v.n + m
          | none => false
        if flushes 0 then (s.modCore c (fun k => k.copyFlushed id)).settle c
        else if flushes 1 then (s.reportFlushed c id).settle c
        else if doneCode code then (s.modCore c (fun k => k.landPart id idx part data)).settle c
        else (s.modCore c (fun k => k.failPart id idx part code)).settle c
      | .readReply pa data code (.fill _ id _ _) =>
        if s.recordWaits c (.unit c) then s else
        let s := s.coreTake c n
        s.modCore c (fun k => if doneCode code then k.l1Fill id ((k.tenant).getD 0) pa data else k.l1Unwant id pa)
      | _ => s)

/-- WRITE_ACKNOWLEDGEMENT (R118, R282): a write of X or of S is performed, or met a code. -/
def execWriteAcknowledgement (c : CoreId) (n : Nat) (s : State) : Out :=
  .next (match s.coreMsg c n with
    | none => s
    | some f =>
      match f.body with
      | .writeAck _ (.store _ x id) =>
        if s.recordWaits c (.ctx c x) then s
        else
          ((s.coreTake c n).modCore c (fun k =>
            k.setCtx x { k.ctx x with stores := (k.ctx x).stores.filter (fun t => t.id != id) })).settle c
      | .writeAck code (.copy _ id idx part) =>
        let s := s.coreTake c n
        (s.modCore c (fun k =>
          if doneCode code then k.performed id idx else k.failPart id idx part code)).settle c
      | _ => s)

/-! ### Loads of X (14_scalar R302) -/

/-- The read of a load asks for its whole sector, of this module's memory, for the L1 (R139). -/
def XLoad.whole (l : XLoad) : Bool := l.fill.isSome

/-- The bytes of a load have come: its register is written; its sector goes into the L1 if the load belongs to a line fill; the value of
an acquire invalidates, and refreshes its line unless a write or an acquire of the core has met the sector since it was asked for (R139 to
R141, 13_ordering R283, R290, R291). -/
def Core.loadReturns (k : Core) (x : CtxId) (l : XLoad) (pa : Nat) (data : List Byte) : Core :=
  let t := (k.tenant).getD 0
  let k := match l.acq, l.fill with
    | some sc, some id =>
      if k.l1Wants id pa then ((k.l1Unwant id pa).l1Acquire sc).l1Refresh t pa data l.hint else k.l1Acquire sc
    | some sc, none => k.l1Acquire sc
    | none, some id => k.l1Fill id t pa data
    | none, none => k
  let v := k.ctx x
  k.setCtx x ({ v with loads := v.loads.filter (fun m => m.id != l.id) }.set l.d
    (loadValue (data.drop (l.pa - pa)) l.size l.signed))

/-- LOAD_VALUE_RETURN (R302): an answer to X: a load's value, the bytes of a 64-byte read or of a host load, a flushing read. -/
def execLoadValueReturn (c : CoreId) (n : Nat) (s : State) : Out :=
  .next (match s.coreMsg c n with
    | none => s
    | some f =>
      match f.body with
      | .readReply pa data code (.load _ x id) =>
        if s.recordWaits c (.ctx c x) then s
        else
          let s := s.coreTake c n
          let v := (s.core c).ctx x
          match v.loads.find? (fun l => l.id == id) with
          | some l =>
            (s.modCore c (fun k => k.loadReturns x l pa data)).settle c
          | none =>
            let s := s.modCore c (fun k =>
              match v.op with
              | some (.block _ m (some fill) none) =>
                if m == id && doneCode code then
                  let both := k.l1Wants fill pa && k.l1Wants fill (pa + 32)
                  let k := (k.l1Fill fill ((k.tenant).getD 0) pa (data.take 32)).l1Fill fill ((k.tenant).getD 0) (pa + 32) (data.drop 32)
                  if both then k.l1Pair pa else k
                else k
              | _ => k)
            let op : Option XOp := match v.op with
              | some (.block va m fill none) => if m == id then some (.block va m fill (some (data, code))) else v.op
              | some (.host m none) => if m == id then some (.host m (some (data, code))) else v.op
              | some (.flush m false) => if m == id then some (.flush m true) else v.op
              | o => o
            s.modCore c (fun k => k.setCtx x { k.ctx x with op := op })
      | _ => s)

/-! ### Losses (R95) -/

/-- Copies whose sectors at an address are still to come ask for them again. -/
def Core.redoAt (k : Core) (pa : Nat) : Core :=
  (k.land.copies ++ k.land.orphans).foldl (fun k c =>
    c.out.foldl (fun k o =>
      o.parts.zipIdx.foldl (fun k p => if p.1.pa == pa && p.1.pm == 0 && !c.op.isS then k.losePart c.id o.idx p.2 else k) k) k) k

/-- The line fills of a `prefetch` that wait for a multicast of the sector at an address ask for it again (R92, R95). -/
def State.refillAt (s : State) (c : CoreId) (pa : Nat) : State :=
  match (s.core c).task with
  | none => s
  | some t =>
    ((s.core c).l1fills.filter (fun f => f.multi && f.line == lineOf pa && f.want.getLsbD (sectorIn pa))).foldl (fun s f =>
      s.sendSlice c pa (.read (sectorOf pa * 32) 32 0 t.tenant f.hint true (.fill c f.id f.va 1))) s

/-- LOSS_NOTICE (R95): what a lost reply was to bring is asked for again. -/
def execLossNotice (c : CoreId) (n : Nat) (s : State) : Out :=
  .next (match s.coreMsg c n with
    | none => s
    | some f =>
      match f.body with
      | .loss pa none => (((s.coreTake c n).modCore c (fun k => k.redoAt pa)).refillAt c pa).settle c
      | .loss pa (some w) =>
        let s := s.coreTake c n
        let k := s.core c
        match w with
        | .copy _ id idx part =>
          match k.copy id with
          | some v =>
            if idx == v.n then (s.modCore c (fun k => k.setCopy { v with flush := 0 })).settle c
            else if idx == v.n + 1 then
              let r := s.reportNow c { v with repDue := none }
              (r.1.modCore c (fun k => k.setCopy r.2)).settle c
            else (s.modCore c (fun k => k.losePart id idx part)).settle c
          | none => (s.modCore c (fun k => k.losePart id idx part)).settle c
        | .load _ x id =>
          match (k.ctx x).loads.find? (fun l => l.id == id), k.task with
          | some l, some t =>
            if l.whole then s.sendSlice c l.pa (.read (sectorOf l.pa * 32) 32 l.pm t.tenant l.hint true w)
            else s.sendSlice c l.pa (.read l.pa l.size l.pm t.tenant l.hint true w)
          | _, _ =>
            s.modCore c (fun k =>
              let v := k.ctx x
              let v := match v.op with
                | some (.block _ m _ none) => if m == id then { v with op := none } else v
                | some (.host m none) => if m == id then { v with op := none } else v
                | some (.flush m false) => if m == id then { v with op := none } else v
                | _ => v
              k.setCtx x v)
        | .atom _ id =>
          (s.modCore c (fun k =>
            match k.atoms.find? (fun a => a.id == id) with
            | some a => k.setAtom { a with flush := 0 }
            | none => k)).settle c
        | .fill _ id _ _ =>
          match k.l1fills.find? (fun g => g.id == id), k.task with
          | some g, some t =>
            if g.want.getLsbD (sectorIn pa) then s.sendSlice c pa (.read (sectorOf pa * 32) 32 0 t.tenant g.hint true w) else s
          | _, _ => s
        | .store _ _ _ => s
        | .barrier _ _ => s
        | .report _ _ _ _ _ => s
        | .entry _ _ => s
        | .msg _ _ => s
        | .fetch _ _ _ => s
        | .peer _ _ => s
        | .nobody => s
      | _ => s)

/-! ### Atomics (12_sync R260) -/

/-- ATOMIC_REPLY (R260): the result block is written, or the atomic parks; the answer to its flushing read. -/
def execAtomicReply (c : CoreId) (n : Nat) (s : State) : Out :=
  .next (match s.coreMsg c n with
    | none => s
    | some f =>
      match f.body with
      | .atomReply old cf code (.atom _ id) =>
        if s.recordWaits c (.atom c id) then s
        else
          let s := s.coreTake c n
          match (s.core c).atoms.find? (fun a => a.id == id) with
          | none => s
          | some a =>
            if doneCode code then (s.modCore c (fun k => k.atomDone a (some old) cf code)).settle c
            else if code == 0x22 then (s.modCore c (fun k => k.atomDone a none cf code)).settle c
            else (s.parkAtom c a { va := a.va, code := code, badPte := false, host := a.host }).settle c
      | .readReply _ _ _ (.atom _ id) =>
        ((s.coreTake c n).modCore c (fun k =>
          match k.atoms.find? (fun a => a.id == id) with
          | some a => k.setAtom { a with flush := 2 }
          | none => k)).settle c
      | _ => s)

/-! ### Puts (05_copies R121, R122, 04_fabric R89) -/

/-- PUT_SECTOR_ARRIVAL (R122): a put sector is committed, held, discarded as a repetition, or refused; a core whose task is not of
the put's gang has no window for it. -/
def execPutSectorArrival (c : CoreId) (n : Nat) (s : State) : Out :=
  .next (match s.coreMsg c n with
    | none => s
    | some f =>
      match f.body with
      | .put _ off data gang w =>
        let s := s.coreTake c n
        match (if (s.core c).inGang gang then (s.core c).putSector off data else .refused false) with
        | .taken k => ((s.setCore c k).send (coreRouter c) f.src f.pri (.putAck w)).settle c
        | .refused covered => s.send (coreRouter c) f.src f.pri (.putRefuse covered w)
      | _ => s)

/-- PUT_ACKNOWLEDGEMENT (R121). -/
def execPutAcknowledgement (c : CoreId) (n : Nat) (s : State) : Out :=
  .next (match s.coreMsg c n with
    | none => s
    | some f =>
      match f.body with
      | .putAck (.copy _ id idx _) => ((s.coreTake c n).modCore c (fun k => k.performed id idx)).settle c
      | _ => s)

/-- A refused sector of a put: of a full share it is sent again at once; of no covering window 256 cycles later, and the refusals in
a row are counted (R89, R122). -/
def Copy.refuse (c : Copy) (idx : Nat) (covered : Bool) (now : Nat) : Copy :=
  if !(c.out.any (fun o => o.idx == idx)) then c
  else
    let c' := { c with out := c.out.filter (fun o => o.idx != idx) }
    let others := c.refused.filter (fun r => r.idx != idx)
    if !c.live then c'
    else if covered then { c' with redo := c.redo ++ [idx], refused := others }
    else
      let count := ((c.refused.find? (fun r => r.idx == idx)).map Refused.count).getD 0
      { c' with refused := { idx := idx, again := now + 256, count := count + 1 } :: others }

/-- PUT_REFUSAL (R89, R122). -/
def execPutRefusal (c : CoreId) (n : Nat) (s : State) : Out :=
  .next (match s.coreMsg c n with
    | none => s
    | some f =>
      match f.body with
      | .putRefuse covered (.copy _ id idx _) =>
        let s := s.coreTake c n
        (s.modCore c (fun k =>
          match k.anyCopy id with
          | some v => k.setCopy (v.refuse idx covered s.time)
          | none => k)).settle c
      | _ => s)

/-- A refused sector that is neither out nor to be sent. -/
def Copy.waitsRefused (c : Copy) (idx : Nat) : Option Refused :=
  if c.st != .active || c.out.any (fun o => o.idx == idx) || c.redo.contains idx then none
  else c.refused.find? (fun r => r.idx == idx)

/-- PUT_RESEND_DELAY (R122): 256 cycles after a refusal as not covered the producer sends the sector again. -/
def execPutResendDelay (c : CoreId) (id idx : Nat) (s : State) : Out :=
  .next (match (s.core c).copy id with
    | none => s
    | some v =>
      match v.waitsRefused idx with
      | none => s
      | some r =>
        if decide (r.again ≤ s.time) && decide (r.count < 4096) then
          (s.modCore c (fun k => k.setCopy { v with redo := v.redo ++ [idx] })).settle c
        else s)

/-- PUT_REFUSAL_LIMIT (R122): after 4,096 such refusals in a row the put meets code 0x10 at member × 2^24 + offset. -/
def execPutRefusalLimit (c : CoreId) (id idx : Nat) (s : State) : Out :=
  .next (match (s.core c).copy id with
    | none => s
    | some v =>
      match v.waitsRefused idx with
      | none => s
      | some r =>
        if 4096 ≤ r.count then
          let va := hdBase v.h / 2 ^ 24 % 16 * 2 ^ 24 + (hdBase v.h % 2 ^ 21 + 32 * idx)
          let s := s.modCore c (fun k => (k.setCopy { v with refused := v.refused.filter (fun q => q.idx != idx) }).sectorFault id
            { idx := idx, va := va, code := 0x10, badPte := false, host := false, wr := true })
          s.settle c
        else s)

/-- COPY_PARK (R126): a copy that has met a fault parks once everything that it asked for is answered. -/
def execCopyPark (c : CoreId) (id : Nat) (s : State) : Out :=
  .next (match (s.core c).copy id with
    | some v => if (s.core c).canPark v then (s.parkCopy c id).settle c else s
    | none => s)

/-! ### Barriers at a core (12_sync R269 to R272) -/

/-- A wake-up at a core (R272). -/
def State.wakeEntries (s : State) (c : CoreId) (pa : Nat) (phase : BitVec 31) : State :=
  match (s.core c).task with
  | none => s
  | some t =>
    ((s.core c).sync.entries.filter (fun e => e.pa == pa)).foldl (fun s e =>
      if phasePast phase e.phase then
        s.modCore c (fun k =>
          let k := (k.l1Acquire .device).semAdd e.sem 1
          { k with sync := { k.sync with entries := k.sync.entries.filter (fun d => d.id != e.id) } })
      else s.sendSlice c pa (.barrier pa t.tenant (.register e.phase e.sem) (.entry c e.id))) s

/-- WAKE_UP (R272, R274): a wake-up, for a core whose WAIT bit was set, or the answer to an entry that was sent again. -/
def execWakeUp (c : CoreId) (n : Nat) (s : State) : Out :=
  .next (match s.coreMsg c n with
    | none => s
    | some f =>
      match f.body with
      | .wake pa phase set =>
        let s := s.coreTake c n
        if set.getLsbD (colOf c).val then (s.wakeEntries c pa phase).settle c else s
      | .barrierAck pa phase _ woken _ (.entry _ _) =>
        let s := s.coreTake c n
        if woken then (s.wakeEntries c pa phase).settle c else s
      | _ => s)

/-- The registration of a word that was refused with a code keeps no entry. -/
def Core.dropEntry (k : Core) (entry : Option Nat) : Core :=
  match entry with
  | some e => { k with sync := { k.sync with entries := k.sync.entries.filter (fun d => d.id != e) } }
  | none => k

/-- BARRIER_ACKNOWLEDGEMENT (R269 to R271): the word retires; an immediate wake-up is handled first; a code is the word's fault. -/
def execBarrierAcknowledgement (c : CoreId) (n : Nat) (s : State) : Out :=
  .next (match s.coreMsg c n with
    | none => s
    | some f =>
      match f.body with
      | .barrierAck pa phase reg woken code (.barrier _ x) =>
        if s.recordWaits c (.ctx c x) then s
        else
          let s := s.coreTake c n
          if !((s.core c).ctx x).inBarrier then s
          else if code != 0 then
            s.modCore c (fun k =>
              let word := match (k.ctx x).op with
                | some (.barrier va e) => (va, e)
                | _ => (0, none)
              let k := k.dropEntry word.2
              k.setCtx x { k.ctx x with
                op := none, fault := some { va := word.1, code := code, badPte := false, host := false }, wait := none })
          else
            let s := if reg && woken then s.wakeEntries c pa phase else s
            (s.modCore c (fun k => k.xRetire x (fun v => v))).settle c
      | _ => s)

/-! ### Messages (12_sync R275) -/

/-- The core with a message in its mailbox. -/
def Core.addMail (k : Core) (m : Mail) : Core := { k with sync := { k.sync with mail := k.sync.mail ++ [m] } }

/-- A message of an event ingress stream at its core (R278): its records are dropped and counted where no task of the tenant runs; a
refused one is sent again 256 cycles later. The stream learns of it at once (log 91). -/
def State.streamArrival (s : State) (c : CoreId) (m : Mail) (j : Fin 4) (ten : Nat) : State :=
  let k := s.core c
  if (k.tenant).all (fun t => t.val != ten) then s.modStream j (fun v => { v with out := none }.lose ((m.dw.headD 0).toNat % 256))
  else if k.sync.mail.length < 4 then (s.setCore c (k.addMail m)).modStream j (fun v => { v with out := none, sent := v.sent + 1 })
  else s.modStream j (fun v => { v with out := v.out.map (fun o => (o.1, o.2.1, o.2.2.1, some (s.time + 256))) })

/-- MESSAGE_ARRIVAL (R275): accepted while one of the four slots is free; a core whose task has completed, or is of another gang,
accepts and discards. -/
def execMessageArrival (c : CoreId) (n : Nat) (s : State) : Out :=
  .next (match s.coreMsg c n with
    | none => s
    | some f =>
      match f.body with
      | .mail _ m (.gang g) w =>
        let s := s.coreTake c n
        let k := s.core c
        if !k.inGang g then s.send (coreRouter c) f.src f.pri (.mailAnswer true w)
        else if k.sync.mail.length < 4 then (s.setCore c (k.addMail m)).send (coreRouter c) f.src f.pri (.mailAnswer true w)
        else s.send (coreRouter c) f.src f.pri (.mailAnswer false w)
      | .mail _ m (.stream j ten) _ => (s.coreTake c n).streamArrival c m j ten
      | _ => s)

/-- MESSAGE_ACCEPTANCE (R275): `msend` retires, or its message is to be sent again 256 cycles later. -/
def execMessageAcceptance (c : CoreId) (n : Nat) (s : State) : Out :=
  .next (match s.coreMsg c n with
    | none => s
    | some f =>
      match f.body with
      | .mailAnswer taken (.msg _ x) =>
        let s := s.coreTake c n
        match ((s.core c).ctx x).op with
        | some (.mail dst m none) =>
          if taken then (s.modCore c (fun k => k.xRetire x (fun v => v))).settle c
          else
            let s := s.modCore c (fun k => k.setCtx x { k.ctx x with op := some (.mail dst m (some (s.time + 256))) })
            if (s.core c).trap.halt.isSome || (s.core c).trap.stop then s.modCore c (fun k => k.setCtx x (k.ctx x).abandonOp) else s
        | _ => s
      | _ => s)

/-- MESSAGE_RESEND (R275). -/
def execMessageResend (c : CoreId) (x : CtxId) (s : State) : Out :=
  .next (match ((s.core c).ctx x).op with
    | some (.mail dst m (some t)) =>
      if t ≤ s.time then
        (s.modCore c (fun k => k.setCtx x { k.ctx x with op := some (.mail dst m none) })).sendMail c x dst m
      else s
    | _ => s)

end Sys2Proof.Machine
end

