-- ==== Sys2Proof/Machine/Engine.lean ====
section
/-! DEFINITION. The matrix engine and the draw unit as device steps, and the power-up of a register bank (10_matrix R226 to R228,
11_draw R248, 07_registers R176). -/

namespace Sys2Proof.Machine

open Sys2Proof

/-- MATRIX_WORD_START (R227): on a unit, 0 array, 1 tile port, 2 draw unit, the earliest word that may start starts. -/
def execMatrixWordStart (c : CoreId) (u : Nat) (s : State) : Out :=
  .next (match (s.core c).nextStart u with
    | some w => (s.modCore c (fun k => k.startMat w)).settle c
    | none => s)

/-- The `n`-th running word of a core completes, if `p` holds of it. -/
def State.finishMat (s : State) (c : CoreId) (n : Nat) (p : MWord → Bool) : State :=
  match (s.core c).runningMat n with
  | some w => if p w then (s.modCore c (fun k => k.completeMat w)).settle c else s
  | none => s

/-- MATRIX_WORD_COMPLETION (R228): a running word other than a draw completes; it retires in program order. -/
def execMatrixWordCompletion (c : CoreId) (n : Nat) (s : State) : Out :=
  .next (s.finishMat c n (fun w => mwordUnit w.word != 2))

/-- DRAW_COMPLETION (R242, R248): the draw that runs takes its uniform, moves the generator and completes. -/
def execDrawCompletion (c : CoreId) (n : Nat) (s : State) : Out :=
  .next (s.finishMat c n (fun w => mwordUnit w.word == 2))

/-- BANK_POWER_UP (R176): a gated bank of the register region powers up, zeroed, for a word of C that waits for a frame. -/
def execBankPowerUp (c : CoreId) (bank : Nat) (s : State) : Out :=
  .next (
    let k := s.core c
    if k.seqs.c.wait == some .frame && k.pool.gated.contains bank && decide (64 * bank < k.pool.rfb) then
      s.setCore c ({ k with pool := { k.pool with gated := k.pool.gated.filter (fun b => b != bank) } }.note .power 1)
    else s)

end Sys2Proof.Machine
end

