-- ==== Sys2Proof/Machine/Fetch.lean ====
section
/-! DEFINITION. Fetch of code words, by a sequencer at its pc and ahead of it (02_words R32). -/

namespace Sys2Proof.Machine

open Sys2Proof

/-! ### Fetch (R32) -/

/-- A word, or why there is none yet, or the trap that its fetch takes. -/
inductive FetchRes where
  | word (w : W32)
  | wait
  | outside
  | fault (code va : Nat)

/-- A fault that the page walk of a fetch left for the agent. -/
def Core.agentFault (k : Core) (a : Agent) : Option XFault :=
  match a with
  | .x i => (k.ctx i).fault
  | .l => k.seqs.l.fault
  | .c => k.seqs.c.fault
  | .s => k.seqs.s.fault

/-- A word already fetched. -/
def Core.fetchedAt (k : Core) (sect off : Nat) : Option W32 :=
  (k.fetched.find? (fun f => f.sect == sect && f.off == off)).map Fetched.word

/-- A word joins those already fetched: it runs as fetched. -/
def Core.addFetched (k : Core) (sect off : Nat) (w : W32) : Core :=
  if (k.fetchedAt sect off).isSome then k else { k with fetched := k.fetched ++ [{ sect := sect, off := off, word := w }] }

/-- A code word in the host aperture is asked for, unless it is already or no tag is free; its sector crosses the endpoint for the core
(16_energy R347). -/
def State.askFetch (s : State) (c : CoreId) (a : Agent) (off pa : Nat) : State :=
  let w : Who := .fetch c a off
  if s.host.reqs.any (fun q => q.who == w) || !s.hostRoom then s
  else (s.charge w 1).hostAsk pa (s.hostSeg pa) 4 none false (s.core c).pri w

/-- A code read must wait: for its slice, which has made its line access of the cycle (04_fabric R77), for the write-back of its victim, or
because it would meet an error whose record cannot be posted (03_memory R71). -/
def State.fetchStuck (s : State) (t : Tenant) (pa : Nat) : Bool :=
  !s.lineFree (sliceFor pa) || s.sliceStuck (sliceFor pa) (lineOf pa) || (s.upset.bad != 0 && !(s.tenant t).canPost)

/-- The sector of a code word is read through its slice, or from its peer, for the core (03_memory R68, R73, 16_energy R347): an
uncorrectable error posts its record when the agent's own fetch meets it, and the line is zero. Whether it met one. -/
def State.readCode (s : State) (c : CoreId) (a : Agent) (off pa pm : Nat) (own : Bool) : State × Bool :=
  let w : Who := .fetch c a off
  if pm != 0 then (s.charge w 1, false)
  else
    let r := s.readLine pa 4 .dflt w true
    (if r.2 && own then r.1.errorFor (sliceFor pa) pa w (secMask pa 4) false else r.1, r.2)

/-- The word of an agent's section at an offset. -/
def State.fetchWord (s : State) (c : CoreId) (a : Agent) (off : Nat) : State × FetchRes :=
  let k := s.core c
  let i := (agentSect a).1
  match k.task with
  | none => (s, .outside)
  | some t =>
    let sect := (t.sects[i]?).getD (0, 0)
    if decide (sect.2 ≤ off) || off % 4 != 0 then (s, .outside)
    else
      match k.fetchedAt i off with
      | some w => (s, .word w)
      | none =>
        let va := t.image + sect.1 + off
        match XFault.at_ (k.agentFault a) va with
        | some f => (s, .fault f.code va)
        | none =>
          let r := s.xlate c a (.word c a) va false
          match r.2 with
          | .wait => (r.1, .wait)
          | .fault f => (r.1, .fault f.code va)
          | .ok pa pm host =>
            let s := r.1
            match s.targetCode t.tenant pa pm host with
            | some code => (s, .fault code va)
            | none =>
              if host then (s.askFetch c a off pa, .wait)
              else if pm == 0 && s.fetchStuck t.tenant pa then (s, .wait)
              else
                let s := s.readCode c a off pa pm true
                let w := BitVec.ofNat 32 (leNat (s.1.readMem pa pm 4))
                (s.1.modCore c (fun k => k.addFetched i off w), .word w)

end Sys2Proof.Machine
end

