-- ==== Sys2Proof/Machine/Walks.lean ====
section
/-! DEFINITION. The end of a page walk, and fetches ahead of a sequencer (03_memory R57 to R63, R73, 02_words R32). -/

namespace Sys2Proof.Machine

open Sys2Proof

/-! ### The entries that a walk reads (R57, R62, R73) -/

/-- Addresses of the entries that a walk reads on its way down. -/
def State.entriesFrom (s : State) (t : Tenant) (va : Nat) : (level : Nat) → (table : Nat) → List Nat
  | level, table =>
    let a := pteAddr table level va
    let tag := s.ownerTag (granOf a)
    if tag != 12 && tag != t.val then []
    else
      let e := s.mem.readLe a 8
      if !pteBit e 0 || pteBad level e || pteBit e 1 then [a]
      else
        match level with
        | 0 => [a]
        | l + 1 => a :: s.entriesFrom t va l (pteFrame e)

/-- The level and the table at which the walk of a port starts. -/
def State.walkStart (s : State) (port : SliceId) (t : Tenant) (va : Nat) : Option (Nat × Nat) :=
  let root := (s.tenant t).troot
  if !root.getLsbD 0 then none
  else
    match bestPtr s.walkPtrs[port.val] t va with
    | some p => some (p.level, p.table)
    | none => some (3, fld root 39 12 * 2 ^ 12)

/-- The entries that the walk of a port reads, with their levels. -/
def State.walkEntries (s : State) (port : SliceId) (t : Tenant) (va : Nat) : List (Nat × Nat) :=
  match s.walkStart port t va with
  | none => []
  | some (level, table) => (s.entriesFrom t va level table).zipIdx.map (fun p => (level - p.2, p.1))

/-- An entry that a walker reads has an uncorrectable error (R73): one 0x30 record goes to the tenant whose walk it is, with CORE
0xFF and SEQ 0, and TUE counts it. Its line has been zeroed. -/
def State.walkError (s : State) (port : SliceId) (t : Tenant) (va : Nat) : State :=
  let s := s.postRecord t
    { miss := 0, landed := 0, va := va, copyId := 0, atom := false, badPte := false, host := false, wr := false
      seq := 0, core := 0xFF, tenant := t, code := 0x30 } (.slice port)
  s.modTenant t (fun q => { q with tue := satInc32 q.tue })

/-- The walk reads its entries through their slices, for no island (R62, 16_energy R347). `bad` names a level whose entry, if it
comes from the channel, has an uncorrectable error; with none its first channel read finds what State.upset says. After an error the walk
reads no further. -/
def State.walkReads (s : State) (port : SliceId) (t : Tenant) (va : Nat) (bad : Option Nat) (h : Hint) : State :=
  let r := (s.walkEntries port t va).foldl (fun (r : State × Bool) p =>
    if r.2 then r
    else
      let v := match bad with
        | some level => { r.1 with upset := { r.1.upset with bad := if level == p.1 then 15 else 0 } }
        | none => r.1
      let q := v.readLine p.2 8 h .nobody false
      (if q.2 then q.1.walkError port t va else q.1, q.2)) (s, false)
  if bad.isSome then { r.1 with upset := Ecc.clean } else r.1

/-! ### What the requesters of a walk receive (R60, R63, R68) -/

/-- Core of a requester. -/
def XlatWho.core : XlatWho → CoreId
  | .word c _ => c
  | .copy c _ _ _ => c
  | .bound c _ => c
  | .atom c _ => c
  | .ahead c _ => c

/-- The agent through whose micro-TLB a requester translates. -/
def State.whoAgent (s : State) (w : XlatWho) : Agent :=
  let ofCopy (c : CoreId) (id : Nat) : Agent :=
    match (s.core c).copy id with
    | some v => v.agent
    | none => .l
  match w with
  | .word _ a => a
  | .ahead _ a => a
  | .copy c id _ _ => ofCopy c id
  | .bound c id => ofCopy c id
  | .atom _ _ => .s

/-- The core after a fault has been left for an agent's word; a word that no longer waits leaves it unread. -/
def Core.leaveFault (k : Core) (a : Agent) (f : XFault) : Core :=
  if k.waitOf a != some .other then k
  else
    match a with
    | .x i => k.setCtx i { k.ctx i with fault := some f }
    | .l => { k with seqs := { k.seqs with l := { k.seqs.l with fault := some f } } }
    | .c => { k with seqs := { k.seqs with c := { k.seqs.c with fault := some f } } }
    | .s => { k with seqs := { k.seqs with s := { k.seqs.s with fault := some f } } }

/-- A sector of a copy, or of a `prefetch`, or the barrier address of a copy, meets a fault: the copy will park, the `prefetch` passes
over the line (R117). -/
def Core.copyFault (k : Core) (id idx : Nat) (f : XFault) (bar : Bool) : Core :=
  if k.land.fetches.any (fun g => g.id == id) then
    { k with land := { k.land with fetches := k.land.fetches.map (fun g =>
        if g.id == id && g.next == idx then { g with next := idx + 1 } else g) } }
  else
    -- a lost part that was being translated afresh is answered by the fault
    let k := match (k.copy id).bind (fun c => (c.out.find? (fun (o : OutSec) => o.idx == idx)).map (fun o => (c, o))) with
      | some (c, o) =>
        if bar then k
        else k.putParts c idx (o.parts.map (fun (p : Part) => if p.lost && p.va == f.va then { p with failed := true, lost := false } else p))
      | none => k
    match k.copy id with
    | some c =>
      if c.faults.any (fun g => g.idx == idx) || c.st != .active then k
      else k.sectorFault id { idx := idx, va := f.va, code := f.code, badPte := f.badPte, host := f.host, wr := bar || c.op.isS }
    | none => k

/-- A requester takes a fault of its walk. -/
def State.deliverFault (s : State) (r : WalkReq) (code : Nat) (bad host : Bool) : State :=
  let f : XFault := { va := r.va, code := code, badPte := bad, host := host }
  match r.who with
  | .word c a => s.modCore c (fun k => k.leaveFault a f)
  | .ahead _ _ => s
  | .copy c id idx _ => s.modCore c (fun k => k.copyFault id idx f false)
  | .bound c id => s.modCore c (fun k => k.copyFault id (((k.copy id).map Copy.done).getD 0) f true)
  | .atom c id =>
    match (s.core c).atoms.find? (fun a => a.id == id) with
    | some a => if a.sent || a.parked.isSome then s else s.parkAtom c a f
    | none => s

/-- A port's walk cache after a walk: its pointers first, 16 in all; which of the others leaves is a free choice (log 5). -/
def keepPtrs (old new_ : List WalkPtr) (free : Nat) : List WalkPtr :=
  let rest := old.filter (fun p => !new_.any (fun q => q.tenant == p.tenant && q.level == p.level && q.stem == p.stem))
  let rest := if 16 < (new_ ++ rest).length then rest.eraseIdx (free % 16) else rest
  (new_ ++ rest).take 16

/-- The pointers that a walk has met enter its port's cache. -/
def State.cachePtrs (s : State) (port : SliceId) (ptrs : List WalkPtr) : State :=
  let l := keepPtrs s.walkPtrs[port.val] ptrs (Config.freeNat s.draws)
  { s with walkPtrs := s.walkPtrs.set port.val l port.isLt, draws := s.draws + 1 }

/-- A walk has found a well-formed leaf: requesters that may not write take 0x11; for the others A is set, and D when one of them
writes, and the TLBs are filled (R60, R62). A store to the task's image takes 0x11 whatever the entry says (02_words R32). -/
def State.fillWalk (s : State) (i : IslandId) (port : SliceId) (e : Tlb) (pte : Nat) (writable : Bool) (ptrs : List WalkPtr)
    (reqs : List WalkReq) : State :=
  let may (r : WalkReq) : Bool := !r.write || (writable && !r.image)
  let good := reqs.filter may
  let s := s.cachePtrs port ptrs
  let s := (reqs.filter (fun r => !may r)).foldl (fun s r => s.deliverFault r 0x11 false e.host) s
  if good.isEmpty then s
  else
    let wrote := good.any WalkReq.write
    let s := s.setAccessed pte wrote
    let e := { e with wr := e.wr || (wrote && writable) }
    good.foldl (fun s r => s.fillMicro r.who.core (s.whoAgent r.who) e) (s.fillIsland i e)

/-- The address that a walk translates: that of its first requester. -/
def Walk.va (w : Walk) : Nat := ((w.reqs.head?).map WalkReq.va).getD (w.page * 4096)

/-- Requesters of the island's other walks to a page that a walk has found: they are one walk with it (R63). -/
def State.samePage (s : State) (i : IslandId) (e : Tlb) : List WalkReq :=
  ((s.island i).walks.filter (fun w => e.serves w.tenant (w.page * 4096) false)).flatMap Walk.reqs

/-- The walks of an island without those to a page. -/
def State.dropPage (s : State) (i : IslandId) (e : Tlb) : State :=
  s.modIsland i (fun v => { v with walks := v.walks.filter (fun w => !e.serves w.tenant (w.page * 4096) false) })

/-- Cores whose requests now come among the 32 outstanding walks of an island. -/
def State.nowWalking (s : State) (i : IslandId) : List CoreId :=
  ((((s.island i).walks.drop 31).take 1).flatMap Walk.reqs).map (fun r => r.who.core)

/-- The walk of a page ends for its requesters, and for those of other walks to the same page. -/
def State.endWalk (s : State) (i : IslandId) (w : Walk) (bad : Option Nat) : State :=
  let port := walkPort i w.va
  let s := s.walkReads port w.tenant w.va bad .dflt
  let r : State × List WalkReq := match s.walk port w.tenant w.va none with
    | .leaf e pte writable ptrs =>
      let reqs := w.reqs ++ s.samePage i e
      ((s.dropPage i e).fillWalk i port e pte writable ptrs reqs, reqs)
    | .fault code b => (w.reqs.foldl (fun s r => s.deliverFault r code b false) s, w.reqs)
  ((r.2.map (fun q => q.who.core) ++ r.1.nowWalking i).eraseDups).foldl (fun s c => s.settle c) r.1

/-- The walks that an island has outstanding, the 32 oldest, at one of its walker ports, with their place. -/
def State.portWalks (s : State) (i : IslandId) (port : SliceId) : List (Nat × Nat × Nat) :=
  (((s.island i).walks.take 32).zipIdx.filter (fun w => walkPort i w.1.va == port)).map (fun w => (w.1.born, i.val, w.2))

/-- The walk at place `n` is one of the four that its port serves at once: the earliest of the two islands that share it (R62). -/
def State.served (s : State) (i : IslandId) (n : Nat) (w : Walk) : Bool :=
  let port := walkPort i w.va
  let pair : List IslandId := [finOf 10 (i.val / 2 * 2), finOf 10 (i.val / 2 * 2 + 1)]
  let before (a b : Nat × Nat × Nat) : Bool :=
    if a.1 != b.1 then decide (a.1 < b.1) else if a.2.1 != b.2.1 then decide (a.2.1 < b.2.1) else decide (a.2.2 < b.2.2)
  decide (((pair.flatMap (fun j => s.portWalks j port)).filter (fun a => before a (w.born, i.val, n))).length < 4)

/-- A line that the walk reads waits for the write-back of its victim (R71), or for its slice, which has made its line access of the cycle
(04_fabric R77; log 29). -/
def State.walkStuck (s : State) (i : IslandId) (w : Walk) : Bool :=
  (s.walkEntries (walkPort i w.va) w.tenant w.va).any (fun p => s.sliceStuck (sliceFor p.2) (lineOf p.2) || !s.lineFree (sliceFor p.2))

/-- PAGE_WALK_COMPLETION (R63): one of the 32 oldest walks of an island, among the four that its port serves, ends; `bad` names a level
whose entry has an uncorrectable error. -/
def execPageWalkCompletion (i : IslandId) (n : Nat) (bad : Option Nat) (s : State) : Out :=
  .next (match (s.island i).walks[n]? with
    | none => s
    | some w =>
      if decide (32 ≤ n) || !s.served i n w || ((bad.isSome || s.upset.bad != 0) && !(s.tenant w.tenant).canPost) || s.walkStuck i w then s
      else (s.modIsland i (fun v => { v with walks := v.walks.eraseIdx n })).endWalk i w bad)

/-! ### Fetch ahead (02_words R32) -/

/-- A word of a section is fetched before its sequencer reaches it; a fault is dropped. While the guard has stopped issue a core makes no
such request (16_energy R357). -/
def State.fetchAhead (s : State) (c : CoreId) (a : Agent) (off : Nat) : State :=
  let k := s.core c
  let i := (agentSect a).1
  match k.task with
  | none => s
  | some t =>
    let sect := (t.sects[i]?).getD (0, 0)
    if decide (sect.2 ≤ off) || off % 4 != 0 || (k.fetchedAt i off).isSome || k.trap.stop || s.gov.guard == 3 then s
    else
      let va := t.image + sect.1 + off
      let r := s.xlate c a (.ahead c a) va false
      match r.2 with
      | .wait => r.1
      | .fault _ => r.1
      | .ok pa pm host =>
        let s := r.1
        if (s.targetCode t.tenant pa pm host).isSome then s
        else if host then s.askFetch c a off pa
        else if pm == 0 && s.fetchStuck t.tenant pa then s
        else
          -- a word that meets an uncorrectable error is dropped without a record (R32, log 84)
          let q := s.readCode c a off pa pm false
          if q.2 then q.1 else q.1.modCore c (fun k => k.addFetched i off (BitVec.ofNat 32 (leNat (q.1.readMem pa pm 4))))

/-- FETCH_AHEAD (R32): the device fetches a word of the running variant's section ahead of its sequencer. -/
def execFetchAhead (c : CoreId) (a : Agent) (off : Nat) (s : State) : Out := .next (s.fetchAhead c a off)

end Sys2Proof.Machine
end

