-- ==== Sys2Proof/Machine/DispMem.lean ====
section
/-! DEFINITION. The dispatcher's own accesses to tenant memory: reads of records and images, counters, STATUS writes and
DONE increments, with their fault records and retries (15_dispatch R327, R330, R331, R340). -/

namespace Sys2Proof.Machine

open Sys2Proof

/-! ### Translation -/

/-- A device physical address for an access of the dispatcher or of the management core under a tenant's tables; the walk
takes the walker port of island 0 (log 23). -/
def State.dispXlate (s : State) (t : Tenant) (va : Nat) (write : Bool) : State × XRes :=
  let bad (code : Nat) (b h : Bool) : XRes := .fault { va := va, code := code, badPte := b, host := h }
  if decide (2 ^ 48 ≤ va) || inLocalWindow va || inGangWindow va then (s, bad 0x10 false false)
  else
    let s := s.walkReads (walkPort 0 va) t va none .bypass
    match s.walk (walkPort 0 va) t va none with
    | .fault code b => (s, bad code b false)
    | .leaf e pte w _ =>
      if write && !w then (s, bad 0x11 false e.host)
      else
        let s := s.setAccessed pte write
        let pa := e.addr va
        match s.targetCode t pa e.pm e.host with
        | some code => (s, bad code false e.host)
        | none => (s, .ok pa e.pm e.host)

/-- What a read of the dispatcher gives. -/
inductive DRead where
  | ok (bs : List Byte)
  | fault (f : XFault)
  | wait
  deriving DecidableEq, Repr

/-- A request for bytes of the host aperture, unless it has been made or no tag is free. -/
def State.askChunk (s : State) (p : Nat × Nat) : State :=
  if s.disp.chunks.any (fun c => c.pa == p.1 && c.size == p.2) || !s.hostRoom then s
  else
    let s := s.hostAsk p.1 (s.hostSeg p.1) p.2 none false 3 .nobody
    let c : HostChunk := { pa := p.1, size := p.2, data := none }
    { s with disp := { s.disp with chunks := s.disp.chunks ++ [c] } }

/-- What has come of some pieces of the host aperture, in their order; `va` is the address of the first. -/
def State.chunksAt (s : State) (va : Nat) : List (Nat × Nat) → DRead
  | [] => .ok []
  | p :: rest =>
    match (s.disp.chunks.find? (fun c => c.pa == p.1 && c.size == p.2)).bind HostChunk.data with
    | none => .wait
    | some (bs, code) =>
      if code != 0 then .fault { va := va, code := code, badPte := false, host := true }
      else
        match s.chunksAt (va + p.2) rest with
        | .ok cs => .ok (bs ++ cs)
        | r => r

/-- Bytes of the host aperture: those that have come, or requests for them, of at most 128 bytes and none across a line (18_host
R387). -/
def State.dispHost (s : State) (va pa n : Nat) : State × DRead :=
  let ps := linePieces pa n
  match s.chunksAt va ps with
  | .wait => (ps.foldl State.askChunk s, .wait)
  | r => (s, r)

/-- `n` bytes within one 4 KiB page. -/
def State.dispReadPage (s : State) (t : Tenant) (va n : Nat) : State × DRead :=
  let r := s.dispXlate t va false
  match r.2 with
  | .wait => (r.1, .wait)
  | .fault f => (r.1, .fault f)
  | .ok pa pm host =>
    if host then r.1.dispHost va pa n
    else
      let s := if pm == 0 then r.1.readPast pa n else r.1
      (s, .ok (s.readMem pa pm n))

/-- `n` bytes from a VA, page by page; `fuel` bounds the pages. -/
def State.dispRead (s : State) (t : Tenant) (va n : Nat) : Nat → State × DRead
  | 0 => (s, .ok [])
  | fuel + 1 =>
    if n == 0 then (s, .ok [])
    else
      let m := min n (4096 - va % 4096)
      let r := s.dispReadPage t va m
      match r.2 with
      | .ok bs =>
        let q := r.1.dispRead t (va + m) (n - m) fuel
        match q.2 with
        | .ok cs => (q.1, .ok (bs ++ cs))
        | .fault f => (q.1, .fault f)
        | .wait => (q.1, .wait)
      | .fault f => (r.1, .fault f)
      | .wait => (r.1, .wait)

/-- A read of `n` bytes. -/
def State.readTenant (s : State) (t : Tenant) (va n : Nat) : State × DRead := s.dispRead t va n (n / 4096 + 2)

/-! ### Counters, STATUS and DONE -/

/-- A fault record of the dispatcher (R331). -/
def State.dispFault (s : State) (t : Tenant) (f : XFault) (atom wr : Bool) : State :=
  s.postRecord t
    { miss := 0, landed := 0, va := f.va, copyId := 0, atom := atom, badPte := f.badPte, host := f.host, wr := wr, seq := 0
      core := 0xFF, tenant := t, code := f.code } .dispatcher

/-- The place of a counter: local LPDDR6, or a fault (R331; a counter elsewhere takes 0x20, log 24). -/
def State.counterPlace (s : State) (t : Tenant) (va : Nat) (write : Bool) : State × Except XFault Nat :=
  let r := s.dispXlate t va write
  match r.2 with
  | .ok pa pm host =>
    if host || pm != 0 then (r.1, .error { va := va, code := 0x20, badPte := false, host := host }) else (r.1, .ok pa)
  | .fault f => (r.1, .error f)
  | .wait => (r.1, .error { va := va, code := 0x10, badPte := false, host := false })

/-- A kernel by its number. -/
def State.kernel (s : State) (id : Nat) : Option Kernel := s.disp.kernels.find? (fun k => k.id == id)

/-- The state with a kernel changed. -/
def State.modKernel (s : State) (id : Nat) (f : Kernel → Kernel) : State :=
  { s with disp := { s.disp with kernels := s.disp.kernels.map (fun k => if k.id == id then f k else k) } }

/-- The first failure of one of a kernel's four accesses is recorded; while the record cannot be held it is tried again with
the access (R71, R331). `n` is 0 WAIT0, 1 WAIT1, 2 STATUS, 3 DONE. -/
def State.kernelFault (s : State) (k : Kernel) (n : Nat) (f : XFault) : State :=
  if (k.failed[n]?).getD false || !(s.tenant k.tenant).canPost then s
  else
    (s.modKernel k.id (fun k => { k with failed := k.failed.set n true })).dispFault k.tenant f (n == 3) (decide (2 ≤ n))

/-- An access of a kernel has succeeded. -/
def State.kernelOk (s : State) (id n : Nat) : State := s.modKernel id (fun k => { k with failed := k.failed.set n false })

/-- One dependence counter of a kernel is read; a change of it is an event of R335. -/
def State.readCounter (s : State) (k : Kernel) (n : Nat) : State :=
  let va := if n == 0 then k.wait0 else k.wait1
  let put (s : State) (v : Option W64) : State :=
    s.modKernel k.id (fun k => if n == 0 then { k with read0 := v } else { k with read1 := v })
  if va == 0 then s
  else
    let r := s.counterPlace k.tenant va false
    match r.2 with
    | .error f => (put r.1 none).kernelFault k n f
    | .ok pa =>
      let s := r.1.readPast pa 8
      let v := some (BitVec.ofNat 64 (s.mem.readLe pa 8))
      let s := (put s v).kernelOk k.id n
      if v == (if n == 0 then k.read0 else k.read1) then s else { s with disp := { s.disp with due := true } }

/-- Both counters of a kernel are read. -/
def State.readCounters (s : State) (id : Nat) : State :=
  match s.kernel id with
  | none => s
  | some k =>
    let s := s.readCounter k 0
    match s.kernel id with
    | none => s
    | some k => s.readCounter k 1

/-- A dependence is met (R331). -/
def depMet (va : Nat) (v : Option W64) (tgt : W64) : Bool :=
  va == 0 || (match v with
    | some x => decide ((x - tgt).toNat < 2 ^ 63)
    | none => false)

/-- The record of a kernel is ready (R333). -/
def Kernel.ready (k : Kernel) : Bool := depMet k.wait0 k.read0 k.tgt0 && depMet k.wait1 k.read1 k.tgt1

/-- Eight bytes written for a tenant at a VA, or a fault. -/
def State.writeStatus (s : State) (t : Tenant) (va : Nat) (v : W64) : State × Option XFault :=
  let r := s.dispXlate t va true
  match r.2 with
  | .ok pa pm host =>
    if host then (r.1.hostPost pa (r.1.hostSeg pa) (leBytes 8 v.toNat), none)
    else if pm == 0 then (r.1.writePast pa (leBytes 8 v.toNat), none)
    else (r.1.writeMem pa pm (leBytes 8 v.toNat), none)
  | .fault f => (r.1, some f)
  | .wait => (r.1, none)

/-- STATUS of a completed kernel (R340, R373): code, cause of the first termination, tasks completed, or completed without
kill. -/
def Kernel.statusValue (k : Kernel) : W64 :=
  if k.killed == 0 then BitVec.ofNat 64 (k.completed % 2 ^ 32 * 2 ^ 32 + 1)
  else BitVec.ofNat 64 ((k.completed - k.killed) % 2 ^ 32 * 2 ^ 32 + k.cause % 2 ^ 16 * 2 ^ 16 + 2)

/-- DONE of a tenant at a VA has been incremented: counters at the same VA are read again (R331). -/
def State.rereadAt (s : State) (t : Tenant) (va : Nat) : State :=
  (s.disp.kernels.filter (fun k => k.tenant == t && (k.wait0 == va || k.wait1 == va))).foldl (fun s k => s.readCounters k.id) s

/-- A completed kernel is gone, and with it a claim that it held (R337). -/
def State.dropKernel (s : State) (k : Kernel) : State :=
  { s with disp := { s.disp with
      kernels := s.disp.kernels.filter (fun q => q.id != k.id)
      due := s.disp.due || k.claim.isSome } }

/-- What a completed kernel still owes: STATUS first, then DONE; then it is gone (R331, R340). -/
def State.payKernel (s : State) (id : Nat) : State :=
  match s.kernel id with
  | none => s
  | some k =>
    let s1 :=
      if k.owedStatus then
        let r := s.writeStatus k.tenant k.status k.statusValue
        match r.2 with
        | some f => r.1.kernelFault k 2 f
        | none => (r.1.kernelOk id 2).modKernel id (fun k => { k with owedStatus := false, statusWritten := true })
      else s
    match s1.kernel id with
    | none => s1
    | some k =>
      if k.owedStatus then s1
      else if k.owedDone then
        let r := s1.counterPlace k.tenant k.done true
        match r.2 with
        | .error f => r.1.kernelFault k 3 f
        | .ok pa =>
          let s := r.1.readPast pa 8
          let v := s.mem.readLe pa 8 + 1
          ((s.writePast pa (leBytes 8 v)).dropKernel k).rereadAt k.tenant k.done
      else s1.dropKernel k

/-- A kernel whose last task has completed owes its STATUS and its DONE (R340). -/
def State.completeKernel (s : State) (id : Nat) : State :=
  (s.modKernel id (fun k => { k with owedStatus := k.status != 0, owedDone := k.done != 0 })).payKernel id

/-- A kernel has nothing left to run but owes an access. -/
def Kernel.owes (k : Kernel) : Bool := k.owedStatus || k.owedDone

/-- STATUS of a rejected launch is written, or stays owed (R330, R331). -/
def State.payOwed (s : State) (o : OwedStatus) : State :=
  let r := s.writeStatus o.tenant o.va o.value
  match r.2 with
  | none => r.1
  | some f =>
    let post := !o.failed && (r.1.tenant o.tenant).canPost
    let s := if post then r.1.dispFault o.tenant f false true else r.1
    { s with disp := { s.disp with owed := s.disp.owed ++ [{ o with failed := o.failed || post }] } }

/-- At the end of an interval the dispatcher reads its counters again and retries what has failed (R331). -/
def State.dispRetry (s : State) : State :=
  let s := s.disp.kernels.foldl (fun s k => if k.owes then s.payKernel k.id else s.readCounters k.id) s
  let l := s.disp.owed
  l.foldl State.payOwed { s with disp := { s.disp with owed := [], due := true } }

end Sys2Proof.Machine
end

