-- ==== Sys2Proof/Machine/Accept.lean ====
section
/-! DEFINITION. Acceptance of launch records: the fields of the record, the image's header, its variant, class and loop
records, its tables, and what follows a rejection (02_words R27 to R31, R47, 06_pool R132, R142, R149, 07_registers R167,
R168, 15_dispatch R326, R329, R330). -/

namespace Sys2Proof.Machine

open Sys2Proof

/-- Why a record is not accepted now. -/
inductive DispStop where
  /-- rejected with a code and a detail -/
  | reject (code detail : Nat)
  /-- bytes from the host aperture are still to come -/
  | wait
  deriving DecidableEq, Repr

/-- A check of the dispatcher over the state. -/
abbrev DispM := ExceptT DispStop (StateM State)

/-- `n` bytes from a byte offset, little-endian. -/
def at_ (bs : List Byte) (off n : Nat) : Nat := leNat ((bs.drop off).take n)

/-- The check fails with a code unless `b`. -/
def need (b : Bool) (code : Nat) : DispM Unit := if b then pure () else throw (.reject code 0)

/-- Bytes of the image or of a parameter block (R330: code 0x87 on a fault). -/
def imageBytes (t : Tenant) (va n : Nat) : DispM (List Byte) := do
  let s ← get
  let r := s.readTenant t va n
  set r.1
  match r.2 with
  | .ok bs => pure bs
  | .fault f => throw (.reject 0x87 f.code)
  | .wait => throw .wait

/-! ### The record (R329) -/

/-- A field that is 0 or a VA that is a multiple of 8. -/
def va8 (v : Nat) : Bool := v % 8 == 0 && decide (v < 2 ^ 48)

/-- The fields of a record are legal. -/
def recordLegal (bs : List Byte) : Bool :=
  at_ bs 0 6 % 4096 == 0 && decide (at_ bs 6 1 < 2) && at_ bs 7 1 == 0 && va8 (at_ bs 8 8) && va8 (at_ bs 16 8)
    && va8 (at_ bs 24 8) && va8 (at_ bs 40 8) && va8 (at_ bs 56 8)

/-! ### The header (R27) -/

/-- A table of `n` entries of `w` bytes at an offset: ignored when empty, else aligned and inside the image. -/
def tableLegal (h : List Byte) (off n w : Nat) : Bool :=
  n == 0 || (off % 8 == 0 && decide (off + n * w ≤ at_ h 8 4))

/-- The header is legal, but for its trap handler. R27 gives a multiple of 8 and a place inside the image for tables and sections; the
parameter block and the data block, where they are not empty, are held to both (log 99). -/
def headerLegal (h : List Byte) : Bool :=
  let b (o : Nat) : Nat := at_ h o 1
  let d (o : Nat) : Nat := at_ h o 4
  d 0 == 0x4C4F4C43 && at_ h 4 2 == 0x0100 && at_ h 6 2 == 128
    && decide (128 ≤ d 8) && decide (d 8 ≤ 2 ^ 28) && d 8 % 8 == 0 && d 12 == 0
    && decide (1 ≤ b 20) && decide (b 20 ≤ 3) && decide (b 21 ≤ 8) && decide (1 ≤ b 22) && decide (b 22 ≤ 6)
    && decide (1 ≤ b 23) && decide (b 23 ≤ 16) && at_ h 30 2 == 0
    && decide (d 60 ≤ 4096) && d 60 % 8 == 0 && d 68 % 32 == 0 && d 72 % 32 == 0
    && decide (b 80 ≤ 64) && decide (b 81 ≤ 8) && decide (b 82 ≤ 4) && decide (b 83 ≤ 32)
    && ((h.drop 84).take 44).all (fun x => x == 0)
    && tableLegal h (d 16) (b 20) 40 && tableLegal h (d 32) (b 21) 8 && tableLegal h (d 36) (b 22) 8
    && tableLegal h (d 40) (b 80) 32 && tableLegal h (d 44) (b 81) 8 && tableLegal h (d 48) (b 82) 32
    && tableLegal h (d 52) (b 83) 32 && tableLegal h (d 56) (d 60) 1 && tableLegal h (d 64) (d 68) 1

/-! ### Variants, classes, levels (R28, R29) -/

/-- The four sections of a variant record: offset and size. -/
def variantSects (v : List Byte) : List (Nat × Nat) := (List.range 4).map (fun i => (at_ v (8 * i) 4, at_ v (8 * i + 4) 4))

/-- Sections in the order .scalar, .load, .compute, .store. A variant record is legal. -/
def variantLegal (h v : List Byte) : Bool :=
  (variantSects v).all (fun s => s.1 % 4 == 0 && s.2 % 4 == 0 && decide (s.2 ≤ 2 ^ 20)
      && (s.2 == 0 || decide (s.1 + s.2 ≤ at_ h 8 4)))
    && (if at_ h 21 1 == 0 then at_ v 32 1 == 0 else decide (at_ v 32 1 < at_ h 21 1))
    && ((v.drop 34).take 6).all (fun x => x == 0)

/-- The trap handler of the header: none, or a word index in .scalar, here of some variant (R27; log 82). A variant whose .scalar is
empty, or too short for it, is no reason to reject: what stands there is entered (17_traps R374). -/
def handlerLegal (h : List Byte) (vs : List (List Byte)) : Bool :=
  at_ h 76 4 == 0xFFFFFFFF || vs.any (fun v => decide (4 * at_ h 76 4 < at_ v 4 4))

/-- An energy class record is legal. -/
def classLegal (c : List Byte) : Bool := decide (1 ≤ at_ c 0 4) && at_ c 4 4 == 0

/-- A loop level record is legal; `psize` is the size of the parameter block. -/
def levelLegal (psize : Nat) (l : List Byte) : Bool :=
  decide (1 ≤ at_ l 0 1) && decide (at_ l 0 1 ≤ 3) && decide (at_ l 1 1 ≤ 1) && at_ l 2 2 == 0
    && (at_ l 1 1 == 0 || (at_ l 4 4 % 4 == 0 && decide (at_ l 4 4 + 4 ≤ psize)))

/-- Entries of `w` bytes of a table. -/
def entriesOf (bs : List Byte) (n w : Nat) : List (List Byte) := (List.range n).map (fun i => (bs.drop (w * i)).take w)

/-- Product of the counts of levels of a kind (R323). -/
def levelProduct (ls : List Level) (kind : Nat) : Nat :=
  (ls.filter (fun l => l.kind == kind)).foldl (fun a l => a * l.count) 1

/-! ### Tables (R142, R149, R167, R168) -/

/-- The ring entry with TSZ computed (R142); its reserved field reads as zero (00_scope R9). -/
def ringLoaded (e : W64) : W64 :=
  let e := setFld e 7 1 0
  match Fmt.ofCode (fld e 41 38) with
  | some f => setFld e 23 8 (tileSectors f (64 * (fld e 37 34 + 1)) (e.getLsbD 32))
  | none => e

/-- A ring from its entry. -/
def ringOf (e : W64) : Ring := { Ring.reset with cfg := ringLoaded e }

/-- First and last offset of an enabled ring. -/
def Ring.span (r : Ring) : Nat × Nat := (r.base, r.base + 32 * (r.tsz * r.tiles))

/-- The ring table is legal: each enabled entry by itself, and no two enabled rings overlap; an entry with EN = 0 is legal as it
stands (R142). -/
def ringsLegal (es : List W64) (scratch : Nat) : Bool :=
  let rs := es.map ringOf
  rs.all (fun r => !r.on || (match r.fmt with
      | some f => fmtMatrix f && !(r.sc && fmtBits f == 16) && decide (r.span.2 ≤ scratch)
      | none => false))
    && (List.range rs.length).all (fun i => (List.range i).all (fun j =>
      match rs[i]?, rs[j]? with
      | some a, some b => !a.on || !b.on || decide (a.span.2 ≤ b.span.1) || decide (b.span.2 ≤ a.span.1)
      | _, _ => true))

/-- The opcodes that a recipe may hold (R168). -/
def recipeOp (op : Nat) : Bool := (decide (1 ≤ op) && decide (op ≤ 0x15)) || (decide (0x18 ≤ op) && decide (op ≤ 0x1E))

/-- A recipe word is legal (R47, R168): opcode, no chain bit, mod zero, destination 64, every source at most 68. -/
def recipeWordLegal (w : Nat) : Bool :=
  !bitField w 31 && recipeOp (field w 25 6) && field w 0 4 == 0 && field w 18 7 == 64
    && (recipeSrcs w).all (fun v => decide (v ≤ 68))
    && (match decodeC w with
      | .ok _ => true
      | .error _ => false)

/-- A recipe entry is legal (R167). -/
def recipeLegal (e : W256) : Bool :=
  if recipeOn e then
    fld256 e 127 3 == 0 && (recipeWords e).all recipeWordLegal
      && (List.range 4).all (fun i => decide (i ≤ fld256 e 1 0) || fld256 e (159 + 32 * i) (128 + 32 * i) == 0)
  else e == 0

/-- Legal pool boundaries (R132). -/
def poolLegal (rfb spb l1b : Nat) : Bool :=
  rfb % 64 == 0 && spb % 64 == 0 && l1b % 64 == 0 && decide (256 ≤ rfb) && decide (rfb ≤ spb) && decide (spb ≤ l1b)
    && decide (l1b ≤ 1536) && (l1b == spb || decide (128 ≤ l1b - spb))

/-! ### Modules (R326, R394) -/

/-- NMOD. -/
def State.nmod (s : State) : Nat := fld s.host.hstat 7 4

/-- A module concerned cannot take its share: another module that is absent, or has the tenant disabled. -/
def State.deviceAbsent (s : State) (t : Tenant) (d : Nat) : Bool :=
  d != 0 && (match s.peer ((s.modIndex + d) % 4) with
    | some p => !p.enabled.contains t
    | none => true)

/-! ### Caps (R334, R351) -/

/-- WEIGHT of an island, and the sum over the ten. -/
def Island.weight (i : Island) : Nat := fld i.ipol 47 40
def State.sumWeights (s : State) : Nat := (s.islands.toList.map Island.weight).sum

/-- PLIM. -/
def Gov.plim (g : Gov) : Nat := fld g.gpol0 63 48

/-- CAP(i) (R351). -/
def State.cap (s : State) (i : IslandId) : Nat := 4 * s.gov.plim * (s.island i).weight / s.sumWeights

/-- An island may hold a tenant's gangs (R343). -/
def State.islOn (s : State) (t : Tenant) (i : IslandId) : Bool := (s.tenant t).tcfg.getLsbD (50 + i.val)

/-- Code 0x88: no enabled island's cap holds any variant. -/
def State.tooBig (s : State) (t : Tenant) (g : Nat) (vs : List Variant) : Bool :=
  vs.all (fun v => (List.finRange 10).all (fun i => !s.islOn t i || decide (s.cap i < g * v.res)))

/-! ### Acceptance (R330) -/

/-- The trip count of a level, from its record or from the parameter block; an illegal level has none to read. -/
def readLevel (t : Tenant) (pva psize : Nat) (l : List Byte) : DispM Level := do
  if at_ l 1 1 == 0 || !levelLegal psize l then pure { kind := at_ l 0 1, count := at_ l 4 4 }
  else
    let bs ← imageBytes t (pva + at_ l 4 4) 4
    pure { kind := at_ l 0 1, count := at_ bs 0 4 }

/-- VA of the parameter block: PARAM, or the image's own block. The offset of an empty block is ignored (R27), so the VA is then that of the
image (log 99). -/
def paramVa (h : List Byte) (image param : Nat) : Nat :=
  if param != 0 then param else if at_ h 60 4 == 0 then image else image + at_ h 56 4

/-- A record is checked, in the order of its codes; the kernel as the dispatcher keeps it. What is read comes before what is tested: the
header, every table that its own two fields place legally, the trip counts of the levels that are legal (log 81). The tables are read
here, at acceptance, and the data block when a gang starts, for which the spec gives no moment (log 80); a data block of size 0 still
has its destination tested (log 81). -/
def checkRecord (t : Tenant) (q : Nat) (r : LRec) (id : Nat) : DispM Kernel := do
  let bs := r.bytes
  need (recordLegal bs) 0x85
  let image := at_ bs 0 6
  let h ← imageBytes t image 128
  let d (o : Nat) : Nat := at_ h o 4
  let b (o : Nat) : Nat := at_ h o 1
  let table (o n w most : Nat) : DispM (List (List Byte)) := do
    if n == 0 || most < n || !tableLegal h (d o) n w then pure [] else
      let x ← imageBytes t (image + d o) (n * w)
      pure (entriesOf x n w)
  let vs ← table 16 (b 20) 40 3
  let cs ← table 32 (b 21) 8 8
  let ls ← table 36 (b 22) 8 6
  let hs ← table 40 (b 80) 32 64
  let rs ← table 44 (b 81) 8 8
  let ps ← table 48 (b 82) 32 4
  let es ← table 52 (b 83) 32 32
  let rings := rs.map (fun e => BitVec.ofNat 64 (leNat e))
  let ports := ps.map (fun e => BitVec.ofNat 256 (leNat e))
  let recipes := es.map (fun e => BitVec.ofNat 256 (leNat e))
  let param := at_ bs 8 8
  let pva := paramVa h image param
  let levels ← ls.mapM (readLevel t pva (d 60))
  need (headerLegal h && handlerLegal h vs) 0x80
  need (vs.all (variantLegal h) && cs.all classLegal && ls.all (levelLegal (d 60)) && decide (levelProduct levels 3 ≤ 4)) 0x81
  let pool := (at_ h 24 2, at_ h 26 2, at_ h 28 2)
  need (poolLegal pool.1 pool.2.1 pool.2.2) 0x83
  let scratch := (pool.2.1 - pool.1) * 1024
  need (ringsLegal rings scratch && ports.all portLegal && recipes.all recipeLegal) 0x82
  need (decide (d 72 + d 68 ≤ scratch)) 0x84
  let s ← get
  let nd := levelProduct levels 3
  let noClass := b 21 == 0
  let variants : List Variant := vs.map (fun v =>
    { sects := variantSects v, cls := at_ v 32 1, quality := at_ v 33 1
      res := if noClass then 0 else at_ ((cs[at_ v 32 1]?).getD []) 0 4 })
  need (r.origin.isSome || (decide (nd ≤ s.nmod) && (List.range nd).all (fun i => !s.deviceAbsent t i))) 0x86
  need (!s.tooBig t (b 23) variants) 0x88
  let o := r.origin.getD (s.modIndex, id, 0)
  pure {
    id := id, tenant := t, queue := q, serial := r.serial, image := image, puth := at_ bs 6 1 == 1, param := pva
    paramSize := d 60, done := at_ bs 16 8, wait0 := if r.origin.isSome then 0 else at_ bs 24 8, tgt0 := BitVec.ofNat 64 (at_ bs 32 8)
    wait1 := if r.origin.isSome then 0 else at_ bs 40 8, tgt1 := BitVec.ofNat 64 (at_ bs 48 8), status := at_ bs 56 8, bytes := bs, header := h
    handles := hs.map (fun e => BitVec.ofNat 256 (leNat e)), rings := rings, ports := ports, recipes := recipes
    gsize := b 23, pool := pool, noClass := noClass, levels := levels, variants := variants
    hidx := BitVec.ofNat 32 (d 76), acceptor := o.1, number := o.2.1, device := o.2.2, started := 0, sent := r.origin.isSome, completed := 0
    killed := 0, cause := 0, skip := 0, skipped := false, claim := none, read0 := none, read1 := none
    owedStatus := false, owedDone := false, statusWritten := false, failed := [false, false, false, false] }

/-- Tasks of a kernel on one module, and modules (R323). -/
def Kernel.nc (k : Kernel) : Nat := levelProduct k.levels 2
def Kernel.nd (k : Kernel) : Nat := levelProduct k.levels 3
/-- Gangs of a kernel on one module (R325). -/
def Kernel.gangs (k : Kernel) : Nat := (k.nc + k.gsize - 1) / k.gsize

/-- The queue of a tenant with one of its records changed, by place. -/
def State.modQueue (s : State) (t : Tenant) (q : Fin 4) (f : LQueue → LQueue) : State :=
  s.modTenant t (fun v => { v with queues := v.queues.set q.val (f v.queues[q.val]) q.isLt })

/-- A record is rejected (R330): it leaves its queue, REJ counts it, and STATUS is written when the field itself is legal. A
forwarded record writes no STATUS here. -/
def State.rejectRecord (s : State) (t : Tenant) (q : Fin 4) (r : LRec) (code detail : Nat) : State :=
  let s := s.modQueue t q (fun v => { v with recs := v.recs.filter (fun x => x.serial != r.serial), rej := satInc16 v.rej })
  let va := at_ r.bytes 56 8
  if va != 0 && va8 va && r.origin.isNone then
    s.payOwed { tenant := t, va := va, value := BitVec.ofNat 64 (detail % 2 ^ 16 * 2 ^ 16 + code), failed := false }
  else s

/-- A ready kernel's record goes to the other modules concerned (R326); their shares wait for no counter of their own
(log 25). -/
def State.forward (s : State) (id : Nat) : State :=
  match s.kernel id with
  | none => s
  | some k =>
    if k.sent || !k.ready then s
    else
      let msgs := ((List.range k.nd).drop 1).map (fun d =>
        PeerMsg.launch ((s.modIndex + d) % 4) k.tenant k.queue k.bytes k.number)
      let s := s.modKernel id (fun k => { k with sent := true })
      { s with disp := { s.disp with peer := s.disp.peer ++ msgs } }

/-- A record is checked. Accepted, it is a kernel whose counters are read; with no tasks
it completes at once (R29, R323, R330, R331). -/
def State.checkOne (s : State) (t : Tenant) (q : Fin 4) (r : LRec) : State :=
  let id := s.disp.nextId
  let res := (checkRecord t q.val r id).run s
  let s := res.2
  match res.1 with
  | .error .wait => s
  | .error (.reject code detail) => ({ s with disp := { s.disp with chunks := [] } }).rejectRecord t q r code detail
  | .ok k =>
    let s := { s with disp := { s.disp with kernels := s.disp.kernels ++ [k], nextId := id + 1, chunks := [], due := true } }
    let s := s.modQueue t q (fun v => { v with
      recs := v.recs.map (fun x => if x.serial == r.serial then { x with kernel := some id } else x) })
    let s := s.readCounters id
    if k.nc * k.nd == 0 then
      (s.modQueue t q (fun v => { v with recs := v.recs.filter (fun x => x.serial != r.serial) })).completeKernel id
    else s

/-- A tenant is enabled (R343). -/
def State.enabled (s : State) (t : Tenant) : Bool := (s.tenant t).tcfg.getLsbD 63

/-- Every record of an enabled tenant that has not been checked is checked, in order of entry (R330, R344). -/
def State.checkAll (s : State) : State :=
  (List.finRange 12).foldl (fun s t =>
    if s.enabled t then
      (List.finRange 4).foldl (fun s q =>
        (((s.tenant t).queues[q.val]).recs.filter (fun r => r.kernel.isNone)).foldl (fun s r => s.checkOne t q r) s) s
    else s) s

end Sys2Proof.Machine
end

