-- ==== Sys2Proof/Machine/Gangs.lean ====
section
/-! DEFINITION. Starting a gang and freeing its cores: enumeration, task start, held reservations, completion of a task and of
a kernel (15_dispatch R323 to R326, R332, R334, R339, R340, 02_words R30, R32, 06_pool R134, 16_energy R362, 17_traps R373). -/

namespace Sys2Proof.Machine

open Sys2Proof

/-! ### Enumeration (R324, R325) -/

/-- Coordinates of an index over the counts of the levels of a kind, innermost first. -/
def coordsRev (kind : Nat) : List Level → Nat → List Nat
  | [], _ => []
  | l :: rest, n => if l.kind == kind then (n % l.count) :: coordsRev kind rest (n / l.count) else 0 :: coordsRev kind rest n

/-- Coordinates of task `tau` on device `d`, one for each level, outermost first. -/
def Kernel.coords (k : Kernel) (tau d : Nat) : List Nat :=
  let a := (coordsRev 2 k.levels.reverse tau).reverse
  let b := (coordsRev 3 k.levels.reverse d).reverse
  a.zipWith (· + ·) b

/-- Size of a gang. -/
def Kernel.gangSize (k : Kernel) (g : Nat) : Nat := min k.gsize (k.nc - g * k.gsize)

/-- `lkind`. -/
def Kernel.lkind (k : Kernel) : W64 :=
  BitVec.ofNat 64 ((k.levels.zipIdx.map (fun l => l.1.kind * 2 ^ (3 * l.2))).sum)

/-- `lvl` of level i. -/
def Kernel.lvl (k : Kernel) (tau : Nat) (i : Fin 6) : W64 :=
  match k.levels[i.val]?, (k.coords tau k.device)[i.val]? with
  | some l, some x => BitVec.ofNat 64 (l.count % 2 ^ 32 * 2 ^ 32 + x % 2 ^ 32)
  | _, _ => 0

/-! ### Task start (R30, R32, R134, R332) -/

/-- What the slope of the current keeps of a core whose task leaves: the work that ceases is its tenant's, and so are the filler
operations of the open tick (16_energy R364, R365). -/
def Core.fillGone (k : Core) : Filling :=
  match k.task with
  | none => k.fill
  | some t =>
    let n := k.activity[Activity.filler.code]
    { k.fill with
      gone := if k.fill.gone.isSome then k.fill.gone else some t.tenant
      ops := if n == 0 then k.fill.ops else k.fill.ops ++ [(t.tenant, n)] }

/-- A core between tasks: everything in its reset state (R134); its TLBs, the numbers that it has given to accesses and the events of the
open 1 µs tick stay. -/
def Core.vacate (k : Core) : Core :=
  let ids (i : Fin 4) : XCtx := { XCtx.reset with nextId := (k.seqs.x[i.val]).nextId }
  { Core.reset with
    seqs := { Core.reset.seqs with x := Vector.ofFn ids }
    sync := { Sync.reset with nextEntry := k.sync.nextEntry }
    matrix := { Matrix.reset with nextId := k.matrix.nextId }
    land := { Landing.reset with nextId := k.land.nextId }
    nextAtom := k.nextAtom
    nextFill := k.nextFill
    tlbs := k.tlbs
    activity := if k.task.isSome then k.activity.set Activity.filler.code.val 0 Activity.filler.code.isLt else k.activity
    fill := k.fillGone }

/-- A core that its task has left: registration entries, semaphores, queues, traps and all that was on its way are discarded (R339); its
registers, tiles, tables and pool keep what they hold until a task start or a restore writes them (R134). -/
def Core.leave (k : Core) : Core :=
  let xs (i : Fin 4) : XCtx := { XCtx.reset with nextId := (k.ctx i).nextId, regs := (k.ctx i).regs }
  let v := k.vacate
  { v with
    seqs := { v.seqs with x := Vector.ofFn xs }
    regs := k.regs
    matrix := { k.matrix with words := [] }
    land := { v.land with wms := k.land.wms }
    tables := k.tables
    pool := k.pool
    sys := k.sys }

/-- The banks from L1B upward, gated for the whole life of a task (06_pool R135, 16_energy R366). -/
def unpowered (l1b : Nat) : List Nat := (List.range 24).filter (fun b => decide (l1b ≤ 64 * b))

/-- A vector of table objects: entries first, then reset values. -/
def tableOf (n : Nat) (es : List α) (r : α) : Vector α n := Vector.ofFn (fun i => (es[i.val]?).getD r)

/-- A sequencer of a section starts, or is ended when the section is empty (R32). -/
def sectEmpty (sects : List (Nat × Nat)) (i : Nat) : Bool := ((sects[i]?).getD (0, 0)).2 == 0

/-- The core of a member at its start: zeroed, its tables loaded as they were read at acceptance (log 80), its registers loaded, its
sequencers at offset 0. -/
def Core.startTask (k : Core) (kn : Kernel) (g : Gang) (m : Nat) (data : List Byte) : Core :=
  let v := (kn.variants[g.variant]?).getD { sects := [], cls := 0, quality := 0, res := 0 }
  let tau := g.index * kn.gsize + m
  let c := k.vacate.note .zeroing 1
  let task : Task :=
    { tenant := g.tenant, cls := g.cls, gang := g.id, member := m, size := g.size, image := kn.image
      imageSize := at_ kn.header 8 4, variant := g.variant, serial := kn.serial, sects := v.sects, hidx := kn.hidx }
  let sys := { SysRegs.reset with
    gng := BitVec.ofNat 64 (g.size * 2 ^ 16 + m)
    kvar := BitVec.ofNat 64 (g.variant * 2 ^ 8 + v.quality)
    pblk := BitVec.ofNat 64 (kn.paramSize * 2 ^ 48 + kn.param % 2 ^ 48)
    lkind := kn.lkind
    lvl := Vector.ofFn (kn.lvl tau)
    eres := BitVec.ofNat 64 (bitCode kn.noClass * 2 ^ 35 + v.cls * 2 ^ 32 + v.res) }
  let x0 := { c.ctx 0 with run := if sectEmpty v.sects 0 then .ended else .runnable }
  let c := c.setCtx 0 x0
  { c with
    task := some task
    seqs := { c.seqs with
      l := { LSeq.reset with ended := sectEmpty v.sects 1 }
      c := { CSeq.reset with ended := sectEmpty v.sects 2 }
      s := { LSeq.reset with ended := sectEmpty v.sects 3 } }
    regs := CRegs.reset (64 + nrOf kn.pool.1)
    tables :=
      { handles := tableOf 64 kn.handles 0
        rings := tableOf 8 (kn.rings.map (fun e => if (ringOf e).on then ringOf e else Ring.reset)) Ring.reset
        ports := tableOf 4 (kn.ports.map (fun e => if portOn e then { Port.reset with cfg := e &&& ~~~(0x10000000#256) } else Port.reset)) Port.reset
        recipes := tableOf 32 kn.recipes 0 }
    pool := { rfb := kn.pool.1, spb := kn.pool.2.1, l1b := kn.pool.2.2
              scratch := Mem.writeN [] (at_ kn.header 72 4) data, gated := unpowered kn.pool.2.2 }
    sys := sys }

/-- A throttle warning stands for an island: its pending lowering (R360). -/
def Clock.standing (c : Clock) : Option (Nat × Nat) := if c.warn then c.low.map (fun l => (l.1, l.2.2)) else none

/-- WTE of a tenant (R361). -/
def TenantSt.wte (t : TenantSt) : Bool := t.tpwr.getLsbD 8

/-- A task that starts, or is restored, while a warning stands will receive it before its first issue (R360). -/
def State.deliverWarning (s : State) (c : CoreId) : State :=
  match (s.core c).task, (s.island (islandOf c)).clock.standing with
  | some t, some w =>
    if (s.tenant t.tenant).wte then s.modCore c (fun k => { k with trap := { k.trap with warn := some w } }) else s
  | _, _ => s

/-! ### Cores and reservations (R334, R336, R362) -/

/-- RES of a task's variant. -/
def Core.res (k : Core) : Nat := fld k.sys.eres 31 0

/-- What a running task holds of its island's account (R362). -/
def Core.holding (k : Core) : Nat := if k.task.isSome then k.res - k.sys.jtaskPj / 1000000 else 0

/-- HELD(i). -/
def State.held (s : State) (i : IslandId) : Nat := ((islandCores i).map (fun c => (s.core c).holding)).sum

/-- Cores of an island that run no task. -/
def State.idleCores (s : State) (i : IslandId) : List CoreId := (islandCores i).filter (fun c => (s.core c).task.isNone)

/-- Size of a kernel's next gang. -/
def Kernel.nextSize (k : Kernel) : Nat := k.gangSize k.started

/-- G(K) of the gang of a kernel that waits: the one that was saved earliest, else its next (R333). -/
def State.waitSize (s : State) (k : Kernel) : Nat :=
  let saved := s.disp.gangs.filter (fun g => g.kernel == k.id && g.st == .saved)
  match saved.find? (fun g => saved.all (fun h => decide (g.since ≤ h.since))) with
  | some g => g.left.length
  | none => k.nextSize

/-- A pre-emption claims cores for a kernel (R338). -/
def Disp.claimed (d : Disp) (id : Nat) : Bool := d.claims.any (fun q => q.1 == id)

/-- Cores free for a kernel on an island: idle, not claimed by a pre-emption for another, and beyond those that a claim of
another kernel on the island keeps (R336 to R338). -/
def State.freeFor (s : State) (id : Nat) (i : IslandId) : List CoreId :=
  let idle := (s.idleCores i).filter (fun c => s.disp.claims.all (fun q => q.1 == id || !q.2.contains c))
  match s.disp.kernels.find? (fun k => k.claim == some i && k.id != id) with
  | some k => idle.drop (s.waitSize k)
  | none => idle

/-- RES(v) of a kernel. -/
def Kernel.res (k : Kernel) (v : Nat) : Nat := ((k.variants[v]?).map Variant.res).getD 0

/-- What claims of other kernels withhold of an island's account (R337). -/
def State.claimed (s : State) (id : Nat) (i : IslandId) : Nat :=
  ((s.disp.kernels.filter (fun k => k.claim == some i && k.id != id)).map (fun k => s.waitSize k * k.res 0)).sum

/-- avail(i) for a kernel (R334). -/
def State.avail (s : State) (id : Nat) (i : IslandId) : Int := (s.island i).bal - (s.held i : Int) - (s.claimed id i : Int)

/-- QFLOOR of a tenant. -/
def TenantSt.qfloor (t : TenantSt) : Nat := fld t.policy 47 40

/-- The variant that fits an island whose account has `more` BU besides (R334). -/
def State.fit (s : State) (k : Kernel) (i : IslandId) (more : Nat) : Option Nat :=
  (List.range k.variants.length).find? (fun v =>
    (v == 0 || decide ((s.tenant k.tenant).qfloor ≤ ((k.variants[v]?).map Variant.quality).getD 0))
      && decide (((k.nextSize * k.res v : Nat) : Int) ≤ s.avail k.id i + (more : Int)))

/-! ### A gang starts -/

/-- Class of a queue of a tenant (R327). -/
def State.queueClass (s : State) (t : Tenant) (q : Nat) : Nat := min q (fld (s.tenant t).policy 61 60)

/-- The members of a gang start on their cores. -/
def State.startMembers (s : State) (k : Kernel) (g : Gang) (data : List Byte) : State :=
  g.cores.zipIdx.foldl (fun s c =>
    (s.modCore c.1 (fun v => v.startTask k g c.2 data)).deliverWarning c.1) s

/-- The next gang of a kernel starts on an island with a variant (R332); none while the data block cannot be read. Member m
takes the m-th lowest free column. -/
def State.startGang (s : State) (id : Nat) (i : IslandId) (v : Nat) : State × Bool :=
  match s.kernel id with
  | none => (s, false)
  | some k =>
    let r := s.readTenant k.tenant (k.image + at_ k.header 64 4) (at_ k.header 68 4)
    let s := r.1
    match r.2 with
    | .ok data =>
      let size := k.nextSize
      let g : Gang :=
        { id := s.disp.nextId, kernel := id, tenant := k.tenant, cls := s.queueClass k.tenant k.queue, index := k.started
          size := size, island := i, cores := (s.freeFor id i).take size, left := List.range size, variant := v
          since := s.time, cause := 0, st := .running }
      let s := s.modKernel id (fun k => { k with started := k.started + 1, skip := 0, claim := none })
      let s := { s with disp := { s.disp with
        gangs := s.disp.gangs ++ [g], nextId := s.disp.nextId + 1, chunks := [], due := s.disp.due || s.disp.claimed id || k.claim.isSome
        claims := s.disp.claims.filter (fun q => q.1 != id) } }
      let s := s.startMembers k g data
      if k.started + 1 < k.gangs then (s, true)
      else
        (s.modTenant k.tenant (fun t => { t with queues := t.queues.map (fun (q : LQueue) =>
          { q with recs := q.recs.filter (fun x => x.kernel != some id) }) }), true)
    | .fault _ => (s, false)
    | .wait => ({ s with disp := { s.disp with paused := true } }, false)

/-! ### Task completion (R339, R340, R373) -/

/-- The combiner's conditions (R339). -/
def Core.taskDone (k : Core) : Bool :=
  k.allEnded && ([1, 2, 3] : List CtxId).all (fun x => (k.ctx x).run == .dormant) && k.sync.mail.isEmpty
    && k.seqs.x.toList.all (fun x => x.loads.isEmpty && x.stores.isEmpty)
    && k.atoms.isEmpty && (k.land.copies ++ k.land.orphans).all (fun c => !c.live && (!c.op.isS || c.out.isEmpty)) && k.land.windows.isEmpty && k.land.fetches.isEmpty
    && k.seqs.c.ret.isEmpty && k.seqs.l.pend.isEmpty && k.seqs.s.pend.isEmpty && k.matrix.words.isEmpty
    && k.trap.strict.isNone && k.trap.halt.isNone && !k.trap.hmode

/-- A member of a gang that is being terminated has drained: nothing that it has sent is unanswered (R369, R373). -/
def Core.killDone (k : Core) : Bool :=
  k.settled && k.seqs.x.toList.all (fun x => x.stores.isEmpty)
    && (k.land.copies ++ k.land.orphans).all (fun c => c.out.all (fun o => o.parts.all (fun p => p.lost || p.failed || p.data.isSome)))
    && k.atoms.all (fun a => !a.sent)

/-- Walks lose the requests of a core. -/
def State.dropWalks (s : State) (c : CoreId) : State :=
  s.modIsland (islandOf c) (fun v => { v with walks := v.walks.map (fun w =>
    { w with reqs := w.reqs.filter (fun r =>
      match r.who with
      | .word d _ => d != c
      | .copy d _ _ _ => d != c
      | .bound d _ => d != c
      | .atom d _ => d != c
      | .ahead d _ => d != c) }) })

/-- The fault records of copies and atomics that a termination kills are not written (R72, R373). -/
def State.voidAll (s : State) (c : CoreId) : State :=
  let k := s.core c
  match k.task with
  | none => s
  | some t =>
    let s := k.land.copies.foldl (fun s v => s.voidRecords t.tenant v.copyId) s
    k.atoms.foldl (fun s a => s.voidRecords t.tenant a.copyId) s

/-- A task is over: its energy is booked and its reservation reconciled, and the core frees (R339, R362). -/
def State.freeCore (s : State) (c : CoreId) : State :=
  let k := s.core c
  match k.task with
  | none => s
  | some t =>
    let s := s.bookEnergy c
    let nj := ((s.core c).sys.jtaskPj) / 1000
    let isOver := !k.sys.eres.getLsbD 35 && decide (k.res < (nj + 999) / 1000)
    let s := if isOver then s.modTenant t.tenant (fun v => { v with tovr := satInc32 v.tovr }) else s
    (s.modCore c Core.leave).dropWalks c

/-- A task of a kernel has completed on some module: the accepting module counts it (R326, R340). -/
def State.countTask (s : State) (id : Nat) (killed : Option Nat) : State :=
  let s := s.modKernel id (fun k => { k with
    completed := k.completed + 1
    killed := if killed.isSome then k.killed + 1 else k.killed
    cause := if k.killed == 0 then killed.getD k.cause else k.cause })
  match s.kernel id with
  | some k => if k.nc * k.nd ≤ k.completed then s.completeKernel id else s
  | none => s

/-- The completion of a task is made known: to its kernel here, or as a report to the accepting module (R326). -/
def State.reportTask (s : State) (id : Nat) (killed : Option Nat) : State :=
  match s.kernel id with
  | none => s
  | some k =>
    if k.acceptor == s.modIndex then s.countTask id killed
    else
      let s := { s with disp := { s.disp with peer := s.disp.peer ++ [PeerMsg.report k.acceptor k.number killed] } }
      let s := s.modKernel id (fun k => { k with completed := k.completed + 1 })
      match s.kernel id with
      | some k =>
        if k.nc ≤ k.completed then
          { s with disp := { s.disp with kernels := s.disp.kernels.filter (fun k => k.id != id) } }
        else s
      | none => s

/-- A gang loses a member; the last one ends it, and a termination is counted (R373). -/
def State.leaveGang (s : State) (g : Gang) (m : Nat) : State :=
  let left := g.left.filter (fun x => x != m)
  if left.isEmpty then
    let s := { s with disp := { s.disp with gangs := s.disp.gangs.filter (fun x => x.id != g.id) } }
    if g.st == .killing then
      s.modTenant g.tenant (fun t => { t with ttermCount := satInc32 t.ttermCount, ttermLast := g.cause })
    else s
  else s.modGang g.id (fun x => { x with left := left })

/-- A task ends, completed or killed. -/
def State.endTask (s : State) (c : CoreId) (t : Task) : State :=
  let s := { s with disp := { s.disp with due := true } }
  match s.gang t.gang with
  | none => s.freeCore c
  | some g =>
    let killed := if g.st == .killing then some (g.cause.toNat % 256) else none
    let s := if killed.isSome then s.voidAll c else s
    ((s.freeCore c).leaveGang g t.member).reportTask g.kernel killed

/-- Every member of a gang is stopped and the gang terminates with no handler. -/
def State.isKilling (s : State) (t : Task) : Bool :=
  match s.gang t.gang with
  | some g => g.st == .killing
  | none => false

/-- TASK_COMPLETION (R339, R373): the combiner of a core raises completion when every condition holds; a member of a gang that
is being terminated completes as killed once it has drained. -/
def execTaskCompletion (c : CoreId) (s : State) : Out :=
  .next (
    let k := s.core c
    match k.task with
    | none => s
    | some t =>
      if s.isKilling t then (if k.killDone then s.endTask c t else s)
      else if k.trap.stop then (if (s.gang t.gang).isNone && k.killDone then s.endTask c t else s)
      else if k.taskDone then s.endTask c t
      else s)

end Sys2Proof.Machine
end

