-- ==== Sys2Proof/Machine/Save.lean ====
section
/-! DEFINITION. Save slots: the bytes that a saved member leaves in its slot (17_traps R382 to R385; log 9 says which bits the
spec does not place), and the save and the restore of a gang (R381, R386, 05_copies R129, 13_ordering R300). -/

namespace Sys2Proof.Machine

open Sys2Proof

/-! ### Slots (R382) -/

/-- NSLOT and the first address of slot j. -/
def TenantSt.nslot (t : TenantSt) : Nat := fld t.svbase 7 0
def TenantSt.slotAddr (t : TenantSt) (j : Nat) : Nat := fld t.svbase 39 21 * 2 ^ 21 + 2 ^ 21 * j

/-- Slots that no saved member holds, in ascending order. -/
def TenantSt.freeSlots (t : TenantSt) : List Nat :=
  (List.range t.nslot).filter (fun j => t.saved.all (fun v => v.slot != j))

/-! ### The bytes of a slot (R383 to R385) -/

/-- Doublewords as bytes. -/
def dwBytes (l : List W64) : List Byte := l.flatMap (fun v => leBytes 8 v.toNat)

/-- A flag as a doubleword. -/
def flagDw (b : Bool) : W64 := if b then 1 else 0

/-- The header (R384). -/
def slotHeader (k : Core) (t : Task) : List Byte :=
  let pend := k.trap.saved
  let flags := bitCode k.trap.hmode + 2 * bitCode k.trap.xend + 4 * bitCode k.trap.strict.isSome + 8 * bitCode k.trap.warn.isSome
    + 16 * bitCode pend.isSome
  let ident := t.serial.toNat * 2 ^ 32 + t.member % 16 * 2 ^ 24 + t.size % 32 * 2 ^ 16 + t.variant % 4 * 2 ^ 8 + t.cls % 4 * 2 ^ 4
    + t.tenant.val
  leBytes 4 0x56454153 ++ leBytes 4 flags ++ leBytes 8 t.image ++ leBytes 8 ident ++ leBytes 8 k.jtask.toNat
    ++ leBytes 8 k.sys.cyc.toNat
    ++ (match pend with
      | some p => dwBytes [tcauseOf p, p.val, p.epc.setWidth 64]
      | none => zeros 24)

/-- pc of L or S with the record that its word has made its pops: of the word that holds its pushes, if one does, else of the one at pc
(02_words R38). -/
def Core.lsPlace (k : Core) (isS : Bool) : W64 × Bool :=
  let q := k.ls isS
  match q.pend with
  | [] => (q.pc, q.popped)
  | p :: _ => if (k.holdsPush isS).isEmpty then (q.pc, q.popped) else (p.pc, true)

/-- L or S. -/
def slotLs (k : Core) (isS : Bool) : List Byte :=
  let q := k.ls isS
  dwBytes (q.a.toList ++ q.lc.toList.map (fun v => v.setWidth 64) ++ [(k.lsPlace isS).1, flagDw (k.lsPlace isS).2])

/-- C. -/
def slotC (k : Core) : List Byte :=
  dwBytes [k.seqs.c.pc, k.regs.shp.setWidth 64, k.regs.fcs.setWidth 64, k.regs.stg.setWidth 64, k.regs.lpc, flagDw k.seqs.c.popped]

/-- A context: registers, pc, state, service request at byte 320. -/
def slotCtx (x : XCtx) : List Byte :=
  let st : W64 := match x.run with
    | .dormant => 0
    | .runnable => 1
    | .ended => 2
  dwBytes (x.regs.toList ++ [x.pc, st]) ++ zeros 48 ++ (if x.inService then dwBytes x.service else [])

/-- A queue: count and entries. -/
def slotQueue (q : List (Option W32)) : List Byte :=
  leBytes 8 q.length ++ q.flatMap (fun v =>
    match v with
    | some w => leBytes 8 (2 ^ 32 + w.toNat)
    | none => zeros 8)

/-- A mailbox slot, of 128 bytes. -/
def slotMail (m : Mail) : List Byte := dwBytes (m.dw ++ [m.src, m.hnd]) ++ zeros 48

/-- A registration entry. -/
def slotEntry (e : RegEntry) : List Byte := leBytes 8 e.pa ++ leBytes 8 (e.sem.toNat * 2 ^ 32 + e.phase.toNat)

/-- Opcode of a copy word (02_words R39). -/
def CopyOp.code : CopyOp → Nat
  | .copy | .wcopy => 0x10
  | .copyO | .scatter => 0x11
  | .pk | .put => 0x12
  | .uk | .acopy => 0x13
  | .gather => 0x14

/-- Bits [9:6] of its mod field. -/
def Copy.modBits (c : Copy) : Nat :=
  match c.op with
  | .acopy => c.acc.code * 4 + c.accFmt.code
  | .copy | .copyO | .pk | .uk | .gather | .wcopy | .scatter | .put => bitCode c.bar * 8 + c.il

/-- MISS of a descriptor: for a `put` the sectors refused, else those neither committed nor held (R385). -/
def Copy.slotMiss (c : Copy) : Nat :=
  if c.op == .put then natOfBits ((List.range 64).map (fun i => c.refused.any (fun r => r.idx == c.done + i))) else c.miss

/-- A copy descriptor (R385); `action` is written when a RESUME is recorded. -/
def slotCopy (c : Copy) (action : Nat) : List Byte :=
  let st := match c.st with
    | .active => 1
    | .parked => 2
    | .abandoned => 3
  leBytes 32 c.h.toNat ++ leBytes 8 (if c.bar || c.op.isIndexed then c.aux else c.opnd).toNat ++ leBytes 4 c.copyId.toNat
    ++ leBytes 4 c.start.toNat ++ leBytes 8 c.slotMiss ++ leBytes 1 ((if c.op.isS then 3 else 1) * 64 + c.op.code)
    ++ leBytes 1 (c.hint.code * 16 + c.modBits) ++ leBytes 1 st ++ leBytes 1 action ++ leBytes 4 (c.done - c.reported)

/-- The descriptor of an open window, whose word names no handle and takes no identifier; `count` sectors of it have committed. -/
def slotWindow (v : LWindow) (count : Nat) : List Byte :=
  let miss := natOfBits ((List.range 64).map (fun i => decide (count + i < v.n) && (v.held.lookup (count + i)).isNone))
  zeros 32 ++ leBytes 8 v.aux.toNat ++ zeros 8 ++ leBytes 8 miss ++ [0x56, BitVec.ofNat 8 (v.hint.code * 16), 1] ++ zeros 5

/-- Descriptor number of a copy: 4k + its place among the copies of w_k. -/
def Core.descOf (k : Core) (c : Copy) : Nat :=
  4 * c.w.toNat + (k.land.copies.filter (fun d => d.w == c.w && decide (d.id < c.id))).length % 4

/-- Descriptor number of an open window: after the abandoned copies that its register may still hold. -/
def Core.descOfWindow (k : Core) (v : LWindow) : Nat :=
  4 * v.w.toNat + (k.land.copies.filter (fun d => d.w == v.w)).length % 4

/-- The state register of a ring slot's summary. -/
def slotSum (v : Summary) : List Byte := leBytes 16 v.z.toNat ++ leBytes 16 v.f.toNat ++ leBytes 1 (bitCode v.sv)

/-- A physical register: state, rounding, frame, SHP, recipe, pinned footprints. -/
def slotPreg (p : PReg) : List Byte :=
  let st := match p.st with
    | .empty => 0
    | .plain => 1
    | .tagged => 2
    | .dropped => 3
    | .lost => 4
  match p.bind with
  | none => leBytes 1 st ++ zeros 1 ++ leBytes 2 (p.frame.getD 0)
  | some b =>
    leBytes 1 st ++ leBytes 1 b.rm.toNat ++ leBytes 2 (p.frame.getD 0) ++ leBytes 4 b.shp.toNat ++ leBytes 1 b.k.toNat
      ++ b.pins.flatMap (fun f =>
        match f with
        | none => zeros 10
        | some f => leBytes 4 f.vbase.toNat ++ leBytes 4 f.rowp ++ leBytes 1 f.r ++ leBytes 1 f.c)

/-- The sectors held in the lagoon: descriptor, landing index, bytes. -/
def Core.lagoon (k : Core) : List (Nat × Nat × List Byte) :=
  k.land.copies.flatMap (fun c => c.held.map (fun h => (k.descOf c, h.1, h.2)))
    ++ k.land.windows.flatMap (fun v => v.held.map (fun h => (k.descOfWindow v, h.1, h.2)))

/-- The register of a number at a core, zero when unassigned. -/
def State.sysReadNum (s : State) (c : CoreId) (n : Nat) : W64 :=
  match SysReg.ofNum n with
  | some r => s.sysRead c r
  | none => 0

/-- Pieces of a slot but for its pool: offset and bytes. -/
def State.slotParts (s : State) (c : CoreId) (t : Task) : List (Nat × List Byte) :=
  let k := s.core c
  let seqs : List (Nat × List Byte) :=
    [(0, slotHeader k t), (0x400, dwBytes ((List.range 128).map (fun j => s.sysReadNum c (0x40 + j)))), (0x800, slotLs k false),
      (0x900, slotLs k true), (0xA00, slotC k), (0xA40, k.sync.sems.toList.flatMap (fun v => leBytes 2 v.toNat)),
      (0xAC0, k.sync.entries.flatMap slotEntry), (0xC00, k.regs.pats.toList.flatMap (fun p => p)),
      (0xE00, k.sync.mail.flatMap slotMail)]
  let ctxs := k.seqs.x.toList.zipIdx.map (fun x => (0x1000 + 512 * x.2, slotCtx x.1))
  let queues := k.queues.toList.zipIdx.map (fun q => (0x1800 + 160 * q.2, slotQueue q.1))
  let objects : List (Nat × List Byte) :=
    [(0x2000, k.tables.handles.toList.flatMap (fun h => leBytes 32 h.toNat)),
      (0x2800, k.tables.rings.toList.flatMap (fun r => dwBytes [r.cfg, r.stateReg])),
      (0x2900, k.tables.ports.toList.flatMap (fun p => leBytes 32 p.cfg.toNat ++ leBytes 32 p.idx.toNat)),
      (0x3000, k.regs.masks.toList.flatMap (fun m => leBytes 128 m.toNat)),
      (0x3400, k.tables.recipes.toList.flatMap (fun e => leBytes 32 e.toNat)),
      (0x3800, (List.range 16).flatMap (fun w => dwBytes [k.wmLow (BitVec.ofNat 4 w), k.wmHigh (BitVec.ofNat 4 w)]))]
  let copies := k.land.copies.map (fun v => (0x4000 + 64 * k.descOf v, slotCopy v 0))
    ++ k.land.windows.map (fun v => (0x4000 + 64 * k.descOfWindow v, slotWindow v (k.wm v.w).count.toNat))
  let sums := k.tables.rings.toList.zipIdx.flatMap (fun r =>
    (r.1.sums.take r.1.tiles).zipIdx.map (fun v => (0x8000 + 0x1000 * r.2 + 64 * v.2, slotSum v.1)))
  let pregs := k.regs.pregs.zipIdx.map (fun p => (0x10000 + 64 * p.2, slotPreg p.1))
  let groups := k.land.copies.flatMap (fun v => v.groups.map (fun g =>
    (0x18000 + 512 * k.descOf v + 64 * (g.1 % 8), g.2.flatMap (fun x => leBytes 4 x.toNat))))
  let lagoon := k.lagoon.zipIdx.flatMap (fun e =>
    [(0x20000 + 32 * e.2, e.1.2.2), (0x24000 + 8 * e.2, leBytes 8 (2 ^ 63 + e.1.1 * 2 ^ 56 + e.1.2.1))])
  let tiles := k.matrix.tiles.toList.zipIdx.map (fun t => (0x40000 + 0x4000 * t.2, t.1.flatMap (fun v => leBytes 4 v.toNat)))
  let frames := k.regs.pregs.filterMap (fun p =>
    if p.st == .plain || p.st == .tagged then
      p.frame.map (fun f => (0x80000 + 4096 * f, p.lanes.flatMap (fun v => leBytes 4 v.toNat)))
    else none)
  seqs ++ ctxs ++ queues ++ objects ++ copies ++ sums ++ pregs ++ groups ++ lagoon ++ tiles ++ frames

/-- A slot is written: every byte that no row names is zero (R383). -/
def State.writeSlot (s : State) (c : CoreId) (t : Task) (base : Nat) : State :=
  let k := s.core c
  let m := s.mem.clear base (base + 2 ^ 21)
  let m := (s.slotParts c t).foldl (fun m p => m.writeN (base + p.1) p.2) m
  let m := k.pool.scratch.foldl (fun m p => m.write (base + 0x80000 + k.pool.rfb * 1024 + p.1) p.2) m
  { s with mem := m }.channel 65536

/-! ### The save (R381) -/

/-- A member that is being saved has drained: reads in flight have come, puts and writes are answered, stores and atomics are
performed or parked. -/
def Core.saveReady (k : Core) : Bool :=
  k.settled && k.seqs.x.toList.all (fun x => x.stores.isEmpty) && (k.land.copies ++ k.land.orphans).all (fun c => c.out.isEmpty && c.flush != 1 && c.repDue.isNone)
    && k.atoms.all (fun a => a.parked.isSome)

/-- The core as it stands in its slot: no word waits, a trap that was to be entered is pending, `prefetch` words and words fetched
are dropped. -/
def Core.toSave (k : Core) : Core :=
  let k := k.abandonWaits
  { k with
    land := { k.land with fetches := [] }
    trap := { k.trap with halt := none, saved := k.trap.saved.or k.trap.halt }
    l1 := [], l1fills := [], fetched := [] }

/-- A member is saved into a slot, and its core frees. -/
def State.saveMember (s : State) (g : Gang) (c : CoreId) (slot : Nat) : State :=
  match (s.core c).task with
  | none => s
  | some t =>
    let s := (s.bookEnergy c).modCore c Core.toSave
    let s := s.writeSlot c t ((s.tenant g.tenant).slotAddr slot)
    let v : Saved := { slot := slot, gang := g.id, member := t.member, core := s.core c, actions := [] }
    let s := s.modTenant g.tenant (fun q => { q with saved := q.saved ++ [v] })
    (s.modCore c Core.leave).dropWalks c

/-- PREEMPTION (R381): a gang that the dispatcher is stopping is saved once every member has drained. -/
def execPreemption (g : Nat) (s : State) : Out :=
  .next (match s.gang g with
    | none => s
    | some v =>
      if v.st == .saving && v.live.all (fun c => (s.core c).saveReady) then
        let s := (v.live.zip (s.tenant v.tenant).freeSlots).foldl (fun s p => s.saveMember v p.1 p.2) s
        let s := s.modGang g (fun v => { v with st := .saved, since := s.time })
        { s with disp := { s.disp with due := true } }
      else s)

/-! ### A slot's contents written back (R386)

The bytes whose places R383 to R385 give are read again; objects without such places come back as they were saved (log 53). -/

/-- `n` listed bytes from an address, by their distance from it. -/
def Mem.piece (m : Mem) (lo n : Nat) : Mem :=
  (m.filter (fun p => decide (lo ≤ p.1) && decide (p.1 < lo + n))).map (fun p => (p.1 - lo, p.2))

/-- A doubleword. -/
def Mem.dw (m : Mem) (a : Nat) : W64 := BitVec.ofNat 64 (m.readLe a 8)

/-- `n` words of four bytes; a stretch of nothing but zeros at once. -/
def Mem.words (m : Mem) (a n : Nat) : List W32 :=
  let q := m.piece a (4 * n)
  if q.isEmpty then List.replicate n 0 else (List.range n).map (fun i => BitVec.ofNat 32 (q.readLe (4 * i) 4))

/-- L or S from its row. A word that was saved as holding its pushes goes on to hold them, and its sequencer stands after it. -/
def Core.lsFromSlot (k : Core) (isS : Bool) (m : Mem) (o : Nat) : LSeq :=
  let q := k.ls isS
  let q := { q with
    a := Vector.ofFn (fun i : Fin 16 => m.dw (o + 8 * i.val))
    lc := Vector.ofFn (fun i : Fin 4 => (m.dw (o + 128 + 8 * i.val)).setWidth 32) }
  let pc := m.dw (o + 160)
  let popped := (m.dw (o + 168)).getLsbD 0
  if (pc, popped) == k.lsPlace isS then q else { q with pc := pc, popped := popped }

/-- A context from its row. -/
def XCtx.fromSlot (x : XCtx) (m : Mem) (o : Nat) : XCtx :=
  let run : XRun := match (m.dw (o + 264)).toNat with
    | 0 => .dormant
    | 1 => .runnable
    | _ => .ended
  { x with
    regs := Vector.ofFn (fun i : Fin 32 => m.dw (o + 8 * i.val)), pc := m.dw (o + 256), run := run
    service := if x.inService then (List.range 8).map (fun i => m.dw (o + 320 + 8 * i)) else x.service }

/-- A queue from its row. -/
def queueFromSlot (m : Mem) (o : Nat) : List (Option W32) :=
  (List.range (min (m.dw o).toNat 16)).map (fun i =>
    let v := m.dw (o + 8 + 8 * i)
    if v.getLsbD 32 then some (v.setWidth 32) else none)

/-- A watermark register from its two doublewords (05_copies R106). -/
def wmFromSlot (lo hi : W64) : Wmark :=
  { fbase := BitVec.ofNat 16 (fld hi 63 48), rlen := BitVec.ofNat 16 (fld hi 47 32), nrow := BitVec.ofNat 16 (fld hi 31 16)
    lp := BitVec.ofNat 4 (fld hi 15 12), ic := BitVec.ofNat 3 (fld hi 11 9), out := hi.getLsbD 8
    st := BitVec.ofNat 3 (fld lo 63 61), gix := lo.getLsbD 60, dup := lo.getLsbD 59, bnd := lo.getLsbD 58
    total := BitVec.ofNat 16 (fld lo 47 32), count := lo.setWidth 32 }

/-- The sectors held in the lagoon: descriptor, landing index, bytes, by the tags that are valid. -/
def lagoonFromSlot (m : Mem) : List (Nat × Nat × List Byte) :=
  let tags := m.piece 0x24000 4096
  (List.range 512).filterMap (fun e =>
    let t := tags.dw (8 * e)
    if t.getLsbD 63 then some (fld t 61 56, fld t 31 0, m.readN (0x20000 + 32 * e) 32) else none)

/-- The held sectors of a descriptor. -/
def heldOf (l : List (Nat × Nat × List Byte)) (desc : Nat) : List (Nat × List Byte) :=
  (l.filter (fun e => e.1 == desc)).map (fun e => e.2)

/-- Copy word of a sequencer code and an opcode (R385, 02_words R39). -/
def CopyOp.ofWord (b : Nat) : Option CopyOp :=
  [CopyOp.copy, .copyO, .pk, .uk, .gather, .wcopy, .scatter, .put, .acopy].find? (fun op => (if op.isS then 3 else 1) * 64 + op.code == b)

/-- A copy with what its descriptor holds (R385): `held` are its sectors in the lagoon, `count` its register's COUNT when it is the head
of it. The sectors of MISS that an S word has sent are those not performed. -/
def Copy.fromSlot (c : Copy) (m : Mem) (desc : Nat) (held : List (Nat × List Byte)) (count : Option W32) : Copy :=
  let o := 0x4000 + 64 * desc
  let v := m.dw (o + 32)
  let op := (CopyOp.ofWord (m.read (o + 56)).toNat).getD c.op
  let md := (m.read (o + 57)).toNat
  let bar := op != .acopy && op != .put && md / 8 % 2 == 1
  let il := if op == .acopy then 0 else md % 8
  let h := BitVec.ofNat 256 (m.readLe o 32)
  let start : W32 := BitVec.ofNat 32 (m.readLe (o + 44) 4)
  let n := copyCount op h (2 ^ il)
  let st : CopySt := match (m.read (o + 58)).toNat with
    | 1 => .active
    | 2 => .parked
    | _ => .abandoned
  let done := match count with
    | some w => min n (w - start).toNat
    | none => c.done
  let miss := m.dw (o + 48)
  let passed := (List.range 64).filter (fun i => !miss.getLsbD i && decide (done + i < min n c.next))
  { c with
    op := op, h := h, bar := bar, il := il, hint := Hint.ofCode (md / 16 % 4)
    opnd := if bar || op.isIndexed then c.opnd else v, aux := if bar || op.isIndexed then v else c.aux
    acc := if op == .acopy then (AccOp.ofCode (md / 4 % 4)).getD c.acc else c.acc
    accFmt := if op == .acopy then (AccFmt.ofCode (md % 4)).getD c.accFmt else c.accFmt
    copyId := BitVec.ofNat 32 (m.readLe (o + 40) 4), start := start, n := n, st := st, done := done
    held := held, perf := if op.isS then passed.map (fun i => done + i) else c.perf
    reported := done - m.readLe (o + 60) 4
    groups := c.groups.map (fun g => if g.1 + 8 < c.groups.length then g
      else (g.1, (List.range 16).map (fun j => BitVec.ofNat 32 (m.readLe (0x18000 + 512 * desc + 64 * (g.1 % 8) + 4 * j) 4)))) }

/-- The copies with what their descriptors hold. -/
def Core.copiesFromSlot (k : Core) (m : Mem) (lag : List (Nat × Nat × List Byte)) (wms : Vector Wmark 16) : List Copy :=
  k.land.copies.map (fun c =>
    let d := k.descOf c
    c.fromSlot m d (heldOf lag d) (if c.live && k.isHead c then some (wms[c.w.toNat]'c.w.isLt).count else none))

/-- A window with what its descriptor holds. -/
def LWindow.fromSlot (v : LWindow) (m : Mem) (desc : Nat) (held : List (Nat × List Byte)) : LWindow :=
  let aux := m.dw (0x4000 + 64 * desc + 32)
  { v with aux := aux, n := fld aux 31 0 / 32, share := fld aux 39 32 + 1, hint := Hint.ofCode ((m.read (0x4000 + 64 * desc + 57)).toNat / 16 % 4)
           held := held }

/-- RESUME actions that descriptors record (R385): copy identifier, and whether it is a replay. -/
def Core.actionsFromSlot (k : Core) (m : Mem) : List (W32 × Bool) :=
  k.land.copies.filterMap (fun c =>
    let o := 0x4000 + 64 * k.descOf c
    match (m.read (o + 59)).toNat with
    | 1 => some (BitVec.ofNat 32 (m.readLe (o + 40) 4), true)
    | 2 => some (BitVec.ofNat 32 (m.readLe (o + 40) 4), false)
    | _ => none)

/-- A ring from its two doublewords (06_pool R142, R143): the counts, which are kept whole, take their low 16 bits. -/
def Ring.fromSlot (r : Ring) (cfg st : W64) : Ring :=
  let whole (old low : Nat) : Nat := old / 65536 * 65536 + low
  { r with cfg := cfg, head := whole r.head (fld st 63 48), tail := whole r.tail (fld st 47 32), itail := whole r.itail (fld st 31 16)
           ucnt := BitVec.ofNat 8 (fld st 15 8) }

/-- The pending trap of a header (R384). -/
def trapFromSlot (m : Mem) : TrapInfo :=
  let c := m.dw 40
  { cause := c.setWidth 8, detail := BitVec.ofNat 16 (fld c 31 16), val := m.dw 48, epc := (m.dw 56).setWidth 32
    seq := match fld c 9 8 with
      | 1 => .l
      | 2 => .c
      | 3 => .s
      | _ => .x (finOf 4 (fld c 15 12)) }

/-- Trap state from the header (R384). The VA of a strict mark, and what a warning says, are those of the save; a mark that firmware has
set names VA 0. -/
def TrapSt.fromSlot (t : TrapSt) (m : Mem) : TrapSt :=
  let flag (i : Nat) : Bool := (m.dw 0).getLsbD (32 + i)
  { t with
    hmode := flag 0, xend := flag 1, strict := if flag 2 then some (t.strict.getD 0) else none
    warn := if flag 3 then some (t.warn.getD (0, 0)) else none, saved := if flag 4 then some (trapFromSlot m) else none }

/-- Mailbox messages in acceptance order; how many there are the slot does not say. -/
def mailFromSlot (m : Mem) (l : List Mail) : List Mail :=
  l.zipIdx.map (fun v =>
    let o := 0xE00 + 128 * v.2
    { dw := (List.range 8).map (fun i => m.dw (o + 8 * i)), src := m.dw (o + 64), hnd := m.dw (o + 72) })

/-- System registers from their row (14_scalar R314). -/
def SysRegs.fromSlot (r : SysRegs) (m : Mem) : SysRegs :=
  let reg (n : Nat) : W64 := m.dw (0x400 + 8 * (n - 0x40))
  let nj := (m.dw 24).toNat
  { r with
    am := Vector.ofFn (fun j : Fin 4 => (reg (0x48 + j.val)).setWidth 32), dkey := reg 0x50, dctr := reg 0x51
    tcause := reg 0x80, tepc := reg 0x81, tval := reg 0x82, txpc := reg 0x83, tscr0 := reg 0x84, tscr1 := reg 0x85
    cyc := m.dw 32, jtaskPj := if r.jtaskPj / 1000 == nj then r.jtaskPj else 1000 * nj }

/-- The registers of C from their rows. -/
def CRegs.fromSlot (r : CRegs) (m : Mem) (nr : Nat) : CRegs :=
  let lpc := m.dw 0xA20
  { r with
    shp := (m.dw 0xA08).setWidth 32, fcs := (m.dw 0xA10).setWidth 32, stg := (m.dw 0xA18).setWidth 8
    rrb := fld lpc 63 48 % nr, epi := BitVec.ofNat 8 (fld lpc 39 32), cnt := lpc.setWidth 32
    pats := Vector.ofFn (fun i : Fin 8 => m.readN (0xC00 + 64 * i.val) 64)
    masks := Vector.ofFn (fun i : Fin 8 => BitVec.ofNat 1024 (m.readLe (0x3000 + 128 * i.val) 128))
    pregs := r.pregs.map (fun p =>
      match p.frame with
      | some f => if p.st == .plain || p.st == .tagged then { p with lanes := m.words (0x80000 + 4096 * f) 1024 } else p
      | none => p) }

/-- The core with what its slot holds. -/
def Core.fromSlot (k : Core) (m : Mem) : Core :=
  let lag := lagoonFromSlot m
  let wms := Vector.ofFn (fun i : Fin 16 => wmFromSlot (m.dw (0x3800 + 16 * i.val)) (m.dw (0x3808 + 16 * i.val)))
  { k with
    seqs := {
      x := Vector.ofFn (fun i : Fin 4 => (k.seqs.x[i.val]).fromSlot m (0x1000 + 512 * i.val))
      l := k.lsFromSlot false m 0x800
      s := k.lsFromSlot true m 0x900
      c := { k.seqs.c with pc := m.dw 0xA00, popped := (m.dw 0xA28).getLsbD 0 } }
    queues := Vector.ofFn (fun i : Fin 12 => queueFromSlot m (0x1800 + 160 * i.val))
    sync := { k.sync with
      sems := Vector.ofFn (fun i : Fin 64 => BitVec.ofNat 16 (m.readLe (0xA40 + 2 * i.val) 2))
      sovf := m.dw 0x418
      mail := mailFromSlot m k.sync.mail
      entries := k.sync.entries.zipIdx.map (fun e =>
        let v := m.dw (0xAC0 + 16 * e.2 + 8)
        { e.1 with pa := (m.dw (0xAC0 + 16 * e.2)).toNat, phase := v.setWidth 31, sem := BitVec.ofNat 6 (fld v 37 32) }) }
    regs := k.regs.fromSlot m (nrOf k.pool.rfb)
    matrix := { k.matrix with
      tiles := Vector.ofFn (fun i : Fin 8 => m.words (0x40000 + 0x4000 * i.val) 4096), mxcnt := m.dw 0x410 }
    tables := { k.tables with
      handles := Vector.ofFn (fun i : Fin 64 => BitVec.ofNat 256 (m.readLe (0x2000 + 32 * i.val) 32))
      rings := Vector.ofFn (fun i : Fin 8 => (k.tables.rings[i.val]).fromSlot (m.dw (0x2800 + 16 * i.val)) (m.dw (0x2808 + 16 * i.val)))
      ports := Vector.ofFn (fun i : Fin 4 => { k.tables.ports[i.val] with
        cfg := BitVec.ofNat 256 (m.readLe (0x2900 + 64 * i.val) 32), idx := m.dw (0x2920 + 64 * i.val) })
      recipes := Vector.ofFn (fun i : Fin 32 => BitVec.ofNat 256 (m.readLe (0x3400 + 32 * i.val) 32)) }
    land := { k.land with
      wms := wms
      copies := k.copiesFromSlot m lag wms
      windows := k.land.windows.map (fun v => v.fromSlot m (k.descOfWindow v) (heldOf lag (k.descOfWindow v))) }
    pool := { k.pool with scratch := m.piece (0x80000 + k.pool.rfb * 1024) k.scratchSize }
    sys := k.sys.fromSlot m
    trap := k.trap.fromSlot m }

/-! ### The restore (R386) -/

/-- Copies ask again for every sector neither committed nor held; puts send what was refused (R129). Sources that were read and not
performed are read again, and the barrier address is translated afresh: no row of the slot holds either. -/
def Copy.restore (c : Copy) : Copy :=
  let c := { c with rd := c.done, got := [], barPa := none }
  if c.st != .active then c
  else
    { c with
      redo := ((List.range (c.next - c.done)).map (fun i => c.done + i)).filter
        (fun x => (c.held.lookup x).isNone && !c.perf.contains x)
      refused := [], faults := [], idxStall := none, srcStall := none }

/-- A RESUME action recorded while saved takes effect (R72). -/
def Core.act (k : Core) (a : W32 × Bool) : Core :=
  match k.land.copies.find? (fun c => c.copyId == a.1) with
  | some c => if a.2 then k.replayCopy c.id else k.killCopy c.id
  | none =>
    match k.atoms.find? (fun v => v.copyId == a.1) with
    | some v => if a.2 then k.setAtom { v with parked := none } else k.atomDone v none false ((v.parked.map XFault.code).getD 0)
    | none => k

/-- A saved core on the core that it is restored to: TLBs and numbers of the place, no wait, no stall time; its registers as
saved. -/
def Core.restoreOn (k old : Core) : Core :=
  let x := Vector.ofFn (fun i : Fin 4 =>
    { k.seqs.x[i.val] with stall := 0, nextId := max (k.seqs.x[i.val]).nextId (old.seqs.x[i.val]).nextId })
  { k with
    seqs := { k.seqs with
      x := x
      l := { k.seqs.l with stall := 0 }
      s := { k.seqs.s with stall := 0 }
      c := { k.seqs.c with stall := 0 } }
    sync := { k.sync with nextEntry := max k.sync.nextEntry old.sync.nextEntry }
    land := { k.land with copies := k.land.copies.map Copy.restore, nextId := max k.land.nextId old.land.nextId }
    nextAtom := max k.nextAtom old.nextAtom
    nextFill := max k.nextFill old.nextFill
    tlbs := old.tlbs
    trap := { k.trap with stop := false, idle := 0 }
    activity := old.activity
    fill := old.fill }

/-- Registration entries are sent again (12_sync R272). -/
def State.resendEntries (s : State) (c : CoreId) : State :=
  match (s.core c).task with
  | none => s
  | some t =>
    (s.core c).sync.entries.foldl (fun s e =>
      s.sendSlice c e.pa (.barrier e.pa t.tenant (.register e.phase e.sem) (.entry c e.id))) s

/-- One member's state is put back on a core, up to its pending trap: what its slot holds, then the RESUME actions recorded. -/
def State.restoreMember (s : State) (g : Gang) (v : Saved) (c : CoreId) : State :=
  let s := s.channel 65536
  let m := s.mem.piece ((s.tenant g.tenant).slotAddr v.slot) (2 ^ 21)
  let ofAtoms := v.actions.filter (fun a => v.core.atoms.any (fun b => b.copyId == a.1))
  let s := s.modCore c (fun old => (v.core.actionsFromSlot m ++ ofAtoms).foldl Core.act ((v.core.fromSlot m).restoreOn old))
  s.resendEntries c

/-- What a restored member had pending: its trap is taken, a standing warning is delivered, and its sequencers go on (R386, steps 6
and 7). Every member of the gang is back by then, so a trap that terminates the gang stops them all. -/
def State.resumeMember (s : State) (c : CoreId) : State :=
  let s := s.deliverWarning c
  (match (s.core c).trap.saved with
    | some t => (s.modCore c (fun k => { k with trap := { k.trap with saved := none } })).takeTrap c t
    | none => s).settle c

/-- Saved members of a gang, in member order. -/
def State.savedOf (s : State) (g : Gang) : List Saved :=
  g.left.filterMap (fun m => (s.tenant g.tenant).saved.find? (fun v => v.gang == g.id && v.member == m))

/-- What the members of a saved gang will hold of an account when they are restored (R338, R362). -/
def State.savedHolding (s : State) (g : Gang) : Nat := ((s.savedOf g).map (fun v => v.core.holding)).sum

/-- A saved gang is restored on the lowest free columns of an island. -/
def State.restoreGang (s : State) (g : Gang) (i : IslandId) : State :=
  let members := s.savedOf g
  let free := (s.freeFor g.kernel i).take members.length
  let pairs := members.zip free
  let cores := (List.range g.size).map (fun m =>
    match pairs.find? (fun p => p.1.member == m) with
    | some p => p.2
    | none => (g.cores[m]?).getD 0)
  let s := s.modGang g.id (fun v => { v with st := .running, island := i, cores := cores, since := s.time })
  let s := s.modTenant g.tenant (fun q => { q with saved := q.saved.filter (fun v => v.gang != g.id) })
  let held := match s.kernel g.kernel with
    | some k => k.claim.isSome
    | none => false
  let s := s.modKernel g.kernel (fun k => { k with skip := 0, claim := none })
  let s := { s with disp := { s.disp with
    claims := s.disp.claims.filter (fun q => q.1 != g.kernel)
    due := s.disp.due || held || s.disp.claimed g.kernel } }
  let s := pairs.foldl (fun s p => s.restoreMember g p.1 p.2) s
  pairs.foldl (fun s p => s.resumeMember p.2) s

end Sys2Proof.Machine
end

