-- ==== Sys2Proof/Machine/Sched.lean ====
section
/-! DEFINITION. The dispatcher's step: heads, places, deficits, claims and pre-emption, and the end of a slice (15_dispatch R333 to
R338, R343, R344). -/

namespace Sys2Proof.Machine

open Sys2Proof

/-! ### Heads (R333) -/

/-- What is served next for a tenant and class: a saved gang, or the next gang of a kernel. -/
inductive Head where
  | saved (g : Gang)
  | fresh (k : Kernel)

/-- Kernel of a head. -/
def Head.kernel : Head → Nat
  | .saved g => g.kernel
  | .fresh k => k.id

/-- Cores that it needs. -/
def Head.size : Head → Nat
  | .saved g => g.left.length
  | .fresh k => k.nextSize

/-- The kernel has gangs still to start here. -/
def Kernel.pending (k : Kernel) : Bool := decide (k.started < k.gangs) && !k.owes

/-- The saved gang of a tenant and class that was saved earliest. -/
def State.oldestSaved (s : State) (t : Tenant) (c : Nat) : Option Gang :=
  (s.disp.gangs.filter (fun g => g.tenant == t && g.cls == c && g.st == .saved)).foldl
    (fun b g =>
      match b with
      | none => some g
      | some h => if g.since < h.since then some g else some h) none

/-- The kernel whose record entered first. -/
def oldestKernel (ks : List Kernel) : Option Kernel :=
  ks.foldl (fun b k =>
    match b with
    | none => some k
    | some h => if (k.serial - h.serial).toNat < 2 ^ 31 then some h else some k) none

/-- The kernel of a tenant and class that is served next: one of which gangs have started stays until all have (log 83), else the ready
one whose record entered first. -/
def State.oldestReady (s : State) (t : Tenant) (c : Nat) : Option Kernel :=
  let ks := s.disp.kernels.filter (fun k => k.tenant == t && s.queueClass t k.queue == c && k.pending)
  (oldestKernel (ks.filter (fun k => decide (0 < k.started)))).or (oldestKernel (ks.filter Kernel.ready))

/-- The head of (n, c); none for a tenant that is not enabled (R344). -/
def State.head (s : State) (t : Tenant) (c : Nat) : Option Head :=
  if !s.enabled t then none
  else
    match s.oldestSaved t c with
    | some g => some (.saved g)
    | none => (s.oldestReady t c).map Head.fresh

/-! ### Places (R334, R336, R337) -/

/-- An island may hold a tenant's gangs (R343, R344). -/
def State.mayHold (s : State) (t : Tenant) (i : IslandId) : Bool := (s.tenant t).policy.getLsbD (50 + i.val)

/-- Islands enabled for a tenant with enough free cores for a head. -/
def State.candidates (s : State) (t : Tenant) (h : Head) : List IslandId :=
  (List.finRange 10).filter (fun i => s.mayHold t i && decide (h.size ≤ (s.freeFor h.kernel i).length))

/-- An island put in ascending order of DRATIO; equal ones keep their order. -/
def insertRatio (s : State) (i : IslandId) : List IslandId → List IslandId
  | [] => [i]
  | j :: rest => if (s.island i).dratio ≤ (s.island j).dratio then i :: j :: rest else j :: insertRatio s i rest

/-- Candidates in the order in which they are tried. -/
def State.ordered (s : State) (h : Head) (is : List IslandId) : List IslandId :=
  match s.kernel h.kernel with
  | some k => if k.puth then is.foldr (insertRatio s) [] else is
  | none => is

/-- The variant with which a head fits an island whose account has `more` BU besides; a saved gang keeps its own. -/
def State.fitHead (s : State) (h : Head) (i : IslandId) (more : Nat) : Option Nat :=
  match h with
  | .saved g => if ((s.savedHolding g : Nat) : Int) ≤ s.avail g.kernel i + (more : Int) then some g.variant else none
  | .fresh k => s.fit k i more

/-- The first candidate that a head fits. -/
def State.choose (s : State) (t : Tenant) (h : Head) : Option (IslandId × Nat) :=
  (s.ordered h (s.candidates t h)).findSome? (fun i => (s.fitHead h i 0).map (fun v => (i, v)))

/-- A kernel whose SKIP stands at 64 takes a claim on the lowest island of its tenant that holds none (R337). -/
def State.takeClaim (s : State) (id : Nat) : State :=
  match s.kernel id with
  | none => s
  | some k =>
    if k.claim.isSome || decide (k.skip < 64) then s
    else
      match (List.finRange 10).find? (fun i => s.mayHold k.tenant i && s.disp.kernels.all (fun q => q.claim != some i)) with
      | some i => s.modKernel id (fun k => { k with claim := some i })
      | none => s

/-- A skip of a kernel is counted, once in a step (R336). -/
def State.countSkip (s : State) (id : Nat) : State :=
  (s.modKernel id (fun k => if k.skipped then k else { k with skip := min 64 (k.skip + 1), skipped := true })).takeClaim id

/-- place(K) (R336). -/
def State.place (s : State) (t : Tenant) (h : Head) : State × Bool :=
  match s.choose t h with
  | some (i, v) =>
    match h with
    | .saved g => (s.restoreGang g i, true)
    | .fresh k => s.startGang k.id i v
  | none => if (s.candidates t h).isEmpty then (s, false) else (s.countSkip h.kernel, false)

/-! ### Deficits (R335) -/

/-- DEF of a tenant and class. -/
def TenantSt.def_ (t : TenantSt) (c : Fin 4) : Nat := t.deficit[c.val]

/-- The state with DEF of a tenant and class set. -/
def State.setDef (s : State) (t : Tenant) (c : Fin 4) (n : Nat) : State :=
  s.modTenant t (fun v => { v with deficit := v.deficit.set c.val n c.isLt })

/-- WEIGHT of a tenant. -/
def TenantSt.weight (t : TenantSt) : Nat := fld t.tcfg 39 32

/-- Gangs of one tenant and class start while the deficit allows it; whether one did. -/
def State.serve (s : State) (t : Tenant) (c : Fin 4) : Nat → State × Bool
  | 0 => (s, false)
  | fuel + 1 =>
    match s.head t c.val with
    | none => (s, false)
    | some h =>
      if (s.tenant t).def_ c < h.size then (s, false)
      else
        let r := s.place t h
        if r.2 then
          let s := r.1.setDef t c ((r.1.tenant t).def_ c - h.size)
          ((s.serve t c fuel).1, true)
        else (r.1, false)

/-- One tenant's turn in a round. -/
def State.turn (s : State) (c : Fin 4) (t : Tenant) : State × Bool :=
  match s.head t c.val with
  | none => (s.setDef t c 0, false)
  | some _ =>
    let w := (s.tenant t).weight
    (s.setDef t c (min ((s.tenant t).def_ c + w) (w + 16))).serve t c 161

/-- A round over the tenants from PTR(c). -/
def State.round (s : State) (c : Fin 4) : State × Bool :=
  let p := s.disp.ptr[c.val]
  let r := (List.range 12).foldl (fun (r : State × Bool) k =>
    let q := r.1.turn c (finOf 12 (p + k))
    (q.1, r.2 || q.2)) (s, false)
  ({ r.1 with disp := { r.1.disp with ptr := r.1.disp.ptr.set c.val ((p + 1) % 12) c.isLt } }, r.2)

/-- Rounds of a class until none makes progress; every round with progress fills a core, so 161 suffice. -/
def State.rounds (s : State) (c : Fin 4) : Nat → State
  | 0 => s
  | fuel + 1 =>
    let r := s.round c
    if r.2 then r.1.rounds c fuel else r.1

/-! ### Pre-emption (R338) -/

/-- Gangs being saved of a tenant still take slots. -/
def State.slotsLeft (s : State) (t : Tenant) : Nat :=
  (s.tenant t).freeSlots.length
    - ((s.disp.gangs.filter (fun g => g.tenant == t && g.st == .saving)).map (fun g => g.left.length)).sum

/-- A gang stops, to be saved. -/
def State.preempt (s : State) (g : Gang) : State :=
  (s.modGang g.id (fun v => { v with st := .saving })).stopCores g.live

/-- The running gangs of an island in classes below `c`, lowest class first, and within a class the one furthest into its slice
first. -/
def State.victims (s : State) (i : IslandId) (c : Nat) : List Gang :=
  let gs := s.disp.gangs.filter (fun g => g.island == i && g.st == .running && decide (g.cls < c))
  gs.foldr (fun g l =>
    let before (h : Gang) : Bool := decide (h.cls < g.cls) || (h.cls == g.cls && decide (h.since < g.since))
    l.takeWhile before ++ g :: l.dropWhile before) []

/-- Gangs taken from a list until `need` cores are free; a gang without enough save slots is passed over. -/
def pickVictims (s : State) (need : Nat) (taken : List Gang) : List Gang → List Gang
  | [] => taken
  | g :: rest =>
    let have_ := (taken.map (fun v => v.left.length)).sum
    if need ≤ have_ then taken
    else
      let own := ((taken.filter (fun v => v.tenant == g.tenant)).map (fun v => v.left.length)).sum
      if own + g.left.length ≤ s.slotsLeft g.tenant then pickVictims s need (taken ++ [g]) rest
      else pickVictims s need taken rest

/-- The gangs to be saved on an island for a head of class c, if that makes room: their reservations leave HELD with them (R362). -/
def State.roomBySaving (s : State) (h : Head) (c : Nat) (i : IslandId) : Option (List Gang) :=
  let need := h.size - (s.freeFor h.kernel i).length
  let vs := pickVictims s need [] (s.victims i c)
  let freed := ((vs.flatMap Gang.live).map (fun c => (s.core c).holding)).sum
  if (s.fitHead h i freed).isSome && decide (need ≤ (vs.map (fun v => v.left.length)).sum) && !vs.isEmpty then some vs else none

/-- A head that cannot be placed has gangs of lower classes saved for it; the cores are claimed. -/
def State.preemptFor (s : State) (t : Tenant) (c : Nat) (h : Head) : State :=
  if (s.choose t h).isSome || s.disp.claimed h.kernel then s
  else
    match ((List.finRange 10).filter (s.mayHold t)).findSome? (fun i => (s.roomBySaving h c i).map (fun vs => (i, vs))) with
    | none => s
    | some (i, vs) =>
      let cores := s.freeFor h.kernel i ++ vs.flatMap Gang.live
      let s := vs.foldl State.preempt s
      { s with disp := { s.disp with claims := s.disp.claims ++ [(h.kernel, cores.take h.size)] } }

/-- Pre-emption for every head, higher classes first. -/
def State.preemptAll (s : State) : State :=
  ([3, 2, 1, 0] : List Nat).foldl (fun s c =>
    (List.finRange 12).foldl (fun s t =>
      match s.head t c with
      | some h => s.preemptFor t c h
      | none => s) s) s

/-! ### The step (R335) -/

/-- Claims of kernels that are gone are dropped; each claim that clears makes the step due (R335). -/
def State.cleanClaims (s : State) : State :=
  let held (q : Nat × List CoreId) : Bool := s.disp.kernels.any (fun k => k.id == q.1)
  { s with disp := { s.disp with claims := s.disp.claims.filter held, due := s.disp.due || s.disp.claims.any (fun q => !held q) } }

/-- The step of R335: each class is served, the highest first, and gangs are pre-empted (R338). -/
def State.select (s : State) : State :=
  let s := { s with
    disp := { s.disp with due := false, paused := false }
    tenants := s.tenants.map (fun (t : TenantSt) => { t with policy := t.tcfg }) }
  let s := { s with disp := { s.disp with kernels := s.disp.kernels.map (fun (k : Kernel) => { k with skipped := false }) } }
  let s := s.disp.kernels.foldl (fun s k => s.takeClaim k.id) s.cleanClaims
  let s := ([3, 2, 1, 0] : List (Fin 4)).foldl (fun s c => s.rounds c 161) s
  s.preemptAll

/-- What the dispatcher does at once: records are checked and ready ones forwarded, then the step of R335 when an event of that
rule has made it due. -/
def State.dispatch (s : State) : State :=
  let s := ({ s with disp := { s.disp with look := false } }).checkAll
  let s := s.disp.kernels.foldl (fun s k => s.forward k.id) s
  if s.disp.due then s.select else s

/-! ### Slices (R338) -/

/-- A ready gang of class `c` or higher cannot be placed on free cores. -/
def State.waitingAbove (s : State) (c : Nat) : Bool :=
  ([0, 1, 2, 3] : List Nat).any (fun d => decide (c ≤ d) && (List.finRange 12).any (fun t =>
    match s.head t d with
    | some h => (s.choose t h).isNone
    | none => false))

/-- SLICE_EXPIRY (R338): at the end of a gang's slice it is pre-empted when a ready gang of its class or a higher one waits and
save slots are free; else a new slice begins. -/
def execSliceExpiry (g : Nat) (s : State) : Out :=
  .next (match s.gang g with
    | none => s
    | some v =>
      if s.sliceOver v then
        if s.waitingAbove v.cls && decide (v.left.length ≤ s.slotsLeft v.tenant) then s.preempt v
        else s.modGang g (fun v => { v with since := s.time })
      else s)

end Sys2Proof.Machine
end

