-- ==== Sys2Proof/Machine/Governor.lean ====
section
/-! DEFINITION. The governor: the energy tick and the guard, the grants, the target decisions and the warnings of an interval
boundary, and the lowerings that fall due there (16_energy R345, R346, R349 to R352, R356 to R362, R366). -/

namespace Sys2Proof.Machine

open Sys2Proof

/-! ### The energy tick (R346, R357, R366) -/

/-- Activity estimate of a core over a tick: its events weighted by their calibrated energies. -/
def Core.estimate (k : Core) : Nat := (k.activity.toList.zipIdx.map (fun p => p.1 * Config.eventEnergy p.2)).sum

/-- Estimate of the filler that a core issued for tasks that have left it. -/
def fillerEstimate (n : Nat) : Nat := n * Config.eventEnergy Activity.filler.code.val

/-- A share of rail energy reaches the task of a core, with its memory charges; the tick's counts start again. -/
def Core.takeShare (k : Core) (pj : Nat) : Core :=
  let k := { k with activity := Vector.replicate 11 0, fill := { k.fill with ops := [] } }
  if k.task.isSome then { k with sys := { k.sys with jtaskPj := k.sys.jtaskPj + k.sys.memPj + pj, memPj := 0 } } else k

/-- A part of the rail energy in proportion to an estimate. -/
def partOf (total rail e : Nat) : Nat := if total == 0 then 0 else rail * e / total

/-- Share of core number `j` of an island: in proportion to its estimate. What the division leaves (`rest`), and so the whole when no
core was active, falls to a free core. -/
def shareOf (ests : List Nat) (total rail rest free j : Nat) : Nat :=
  partOf total rail ((ests[j]?).getD 0) + (if j == free % 16 then rest else 0)

/-- The sensed rail energy of an island over a tick is debited and divided; what filler for tasks that have left drew goes to TENE of
their tenants and to no task (R365). -/
def State.shareRail (s : State) (i : IslandId) (rail : Nat) : State :=
  let ests := (islandCores i).map (fun c => (s.core c).estimate)
  let gone := (islandCores i).flatMap (fun c => (s.core c).fill.ops)
  let total := ests.sum + (gone.map (fun g => fillerEstimate g.2)).sum
  let goneParts := gone.map (fun g => (g.1, partOf total rail (fillerEstimate g.2)))
  let rest := rail - (ests.map (partOf total rail)).sum - (goneParts.map (fun g => g.2)).sum
  let free := Config.freeNat s.draws
  let s := { s.modIsland i (fun v => v.debit rail) with draws := s.draws + 1 }
  let s := goneParts.foldl (fun s g => s.modTenant g.1 (fun v => { v with tenePj := v.tenePj + g.2 })) s
  (islandCores i).zipIdx.foldl (fun s p => s.modCore p.1 (fun k => k.takeShare (shareOf ests total rail rest free p.2))) s

/-- The register-region banks of a core in which no frame is bound are gated, when RBG has it so; the banks from L1B upward are gated
in either case while a task holds the core (R366). -/
def Core.gateBanks (k : Core) (rbg : Bool) : Core :=
  let used := k.regs.frames.map bankOf
  let l := if rbg then (List.range (k.pool.rfb / 64)).filter (fun b => !used.contains b) else []
  { k with pool := { k.pool with gated := l ++ (if k.task.isSome then unpowered k.pool.l1b else []) } }

/-- A 1 µs tick reads the hottest sensor of an island: TCRIT halves the clock until TEMP falls below TWARN (R356). -/
def Clock.sense (c : Clock) (g : Gov) (temp : Nat) : Clock :=
  { c with temp := temp, hot := if g.tcrit ≤ temp then true else if temp < g.twarn then false else c.hot }

/-- RBG, PFLOOR and DRES. -/
def Gov.rbg (g : Gov) : Bool := g.gpol0.getLsbD 7
def Gov.pfloor (g : Gov) : Nat := fld g.gpol0 15 8
def Gov.dres (g : Gov) : Nat := fld g.gpol0 6 0

/-- The guard's action for a projection with `left` whole µs of the interval left; all terms in tenths of a picojoule. -/
def Gov.guardLevel (g : Gov) (left : Nat) : Nat :=
  let proj := 10 * g.emodPj + left * g.pfloor * 1000000 + 2 * g.dres * 10000000
  let lim := g.plim * 10000000
  if lim ≤ proj then 3 else if 15 * lim ≤ 16 * proj then 2 else if 7 * lim ≤ 8 * proj then 1 else 0

/-- ENERGY_TICK (R346, R357, R366): every 1 µs. `rail` holds the sensed rail energy of each island, `oh` the overhead and `emod`
the module's whole energy over the tick, in picojoules, `temps` the hottest sensor of each island. -/
def execEnergyTick (rail : List Nat) (oh emod : Nat) (temps : List Nat) (s : State) : Out :=
  .next (if s.time % 1600 == 0 && decide (s.gov.ticks < s.time / 1600) then
      let s := (List.finRange 10).foldl (fun s i => s.shareRail i ((rail[i.val]?).getD 0)) s
      let s := (List.finRange 10).foldl (fun s i => s.modIsland i (fun v =>
        { v with clock := v.clock.sense s.gov ((temps[i.val]?).getD v.clock.temp) })) s
      let s := (List.finRange 160).foldl (fun s c => s.modCore c (fun k => k.gateBanks s.gov.rbg)) s
      let g := { s.gov with ticks := s.time / 1600, ohPj := s.gov.ohPj + oh, emodPj := s.gov.emodPj + emod }
      let left := 100 - ((g.ticks - 1) % 100 + 1)
      { s with gov := { g with guard := max g.guard (g.guardLevel left) } }
    else s)

/-! ### Grants (R350, R351) -/

def Gov.mshmin (g : Gov) : Nat := fld g.gpol1 63 56
def Gov.mshmax (g : Gov) : Nat := max g.mshmin (fld g.gpol1 55 48)
def Gov.mstep (g : Gov) : Nat := fld g.gpol1 47 40
def Gov.uhi (g : Gov) : Nat := fld g.gpol1 39 32
def Gov.ulo (g : Gov) : Nat := fld g.gpol1 31 24
def Gov.shi (g : Gov) : Nat := fld g.gpol1 23 16
def Gov.slo (g : Gov) : Nat := fld g.gpol1 15 8
def Gov.clfrac (g : Gov) : Nat := fld g.gpol1 7 0
def Gov.boostmin (g : Gov) : Nat := fld g.gpol0 47 32
def Gov.raiseb (g : Gov) : Nat := fld g.gpol0 31 16

/-- The memory share of the next interval. -/
def Gov.nextMsh (g : Gov) : Nat :=
  let u := g.sectors * 256 / 1920000
  let sr := if g.call == 0 then 0 else g.cwait * 256 / g.call
  if decide (g.uhi ≤ u) && decide (g.shi ≤ sr) then min (g.msh + g.mstep) g.mshmax
  else if decide (u < g.ulo) || decide (sr < g.slo) then max (g.msh - g.mstep) g.mshmin
  else g.msh

/-- Grants of the ten islands: `p` is what the interval has, `msh` the memory share, `ws` the weights, `mcs` the memory
charges in BU. -/
def grants (p msh : Nat) (ws mcs : List Nat) : List Nat :=
  let m := if mcs.sum == 0 then 0 else p * msh / 256
  let cp := p - m
  let comp := ws.map (fun w => cp * w / ws.sum)
  let mem := mcs.map (fun c => if m == 0 then 0 else m * c / mcs.sum)
  let compRest := cp - comp.sum
  let memRest := m - mem.sum
  (List.range ws.length).map (fun i =>
    let rank := ((mcs.take i).filter (fun c => decide (0 < c))).length
    (comp[i]?).getD 0 + (mem[i]?).getD 0 + (if i < compRest then 1 else 0)
      + (if decide (0 < (mcs[i]?).getD 0) && decide (rank < memRest) then 1 else 0))

/-- The accounts after the grants, held to their caps. -/
def State.grant (s : State) : State :=
  let g := s.gov
  let mcs := s.islands.toList.map (fun v => v.mc / 1000000)
  let msh := g.nextMsh
  let oh := g.ohPj / 1000000
  let gs := grants (g.plim - min oh g.plim) msh (s.islands.toList.map Island.weight) mcs
  let s := (List.finRange 10).foldl (fun s i => s.modIsland i (fun v =>
    { v with bal := min (v.bal + (((gs[i.val]?).getD 0 : Nat) : Int)) (s.cap i : Int) })) s
  { s with gov := { s.gov with msh := msh, oh := min oh 65535 } }

/-! ### Settings (R361) -/

/-- Tenants with gangs resident on an island. -/
def State.residents (s : State) (i : IslandId) : List W64 :=
  (s.disp.gangs.filter (fun g => g.island == i && g.st != .saved)).map (fun g => (s.tenant g.tenant).tpwr)

/-- The effective settings of an island. -/
def State.settingOf (s : State) (i : IslandId) : Setting :=
  match s.residents i with
  | [] => Setting.reset
  | ts =>
    let floor := (ts.map (fun t => fld t 13 12)).foldl max 0
    let cap := (ts.map (fun t => fld t 11 10)).foldl min 2
    { floor := min floor cap, capr := cap, breq := ts.any (fun t => t.getLsbD 9), lead := (ts.map (fun t => fld t 3 0)).foldl max 1 }

/-! ### Decisions (R358) -/

/-- BEN and FWH. -/
def Island.ben (i : Island) : Bool := i.ipol.getLsbD 39
def Island.fwh (i : Island) : Bool := i.ipol.getLsbD 38

/-- What the rows decide: the target, and the ratios that a warning is asked for. -/
structure Decision where
  ratio : Nat
  step : Nat
  warns : List Nat
  deriving DecidableEq, Repr

/-- One step up (row 5). -/
def stepUp (r st : Nat) : Nat × Nat := if st < 7 then (r, st + 1) else if r == 0 then (1, 0) else (r, st)

/-- The rows for an island; `boosted` counts the boosted islands. -/
def Island.decide_ (v : Island) (g : Gov) (boosted : Nat) : Decision :=
  let c := v.clock
  let r := c.trat
  let st := c.tstep
  let cl := decide (g.clfrac < c.clpct)
  let th := decide (g.twarn ≤ c.temp)
  let low := decide (v.bal < 0)
  let row1 := r == 2 && (cl || th || low || !v.setting.breq || !v.ben)
  let w1 := if row1 then [1] else []
  let down : List Nat := if st == 0 && r != 0 then [r - 1] else []
  let d : Decision :=
    if cl then { ratio := r, step := st - 2, warns := w1 ++ down }
    else if th || low then { ratio := r, step := st - 1, warns := w1 ++ down }
    else if row1 then { ratio := r, step := st, warns := w1 }
    else if v.setting.breq && v.ben && decide ((g.boostmin : Int) ≤ v.bal) && r != 2 && decide (boosted < 3) then
      { ratio := 2, step := 0, warns := [] }
    else if (g.raiseb : Int) ≤ v.bal then { ratio := (stepUp r st).1, step := (stepUp r st).2, warns := [] }
    else if decide (r < v.setting.floor) && decide (0 ≤ v.bal) then { ratio := v.setting.floor, step := 0, warns := [] }
    else { ratio := r, step := st, warns := [] }
  if v.setting.capr < d.ratio then { d with warns := d.warns ++ [v.setting.capr] } else d

/-! ### Warnings and lowerings (R360) -/

/-- Every task of an island whose tenant has WTE set receives the warning. -/
def State.warnTasks (s : State) (i : IslandId) : State := (islandCores i).foldl State.deliverWarning s

/-- warn(i, r) under Decision: a new pending lowering unless one to the same or a lower ratio stands. -/
def State.warn (s : State) (i : IslandId) (r step : Nat) : State :=
  let v := s.island i
  let new_ := match v.clock.low with
    | none => true
    | some l => decide (r < l.1)
  if new_ then
    (s.modIsland i (fun v => { v with clock := { v.clock with low := some (r, step, v.setting.lead), warn := true } })).warnTasks i
  else s

/-- The lowering that firmware asked for is decided (R360, Firmware). -/
def State.decideHeld (s : State) (i : IslandId) : State :=
  match (s.island i).clock.held with
  | none => s
  | some q => (s.modIsland i (fun v => { v with clock := { v.clock with held := none } })).warn i q.1 q.2

/-- The lowest of the ratios warned of. -/
def lowestOf : List Nat → Option Nat
  | [] => none
  | w :: rest => some (rest.foldl min w)

/-- The pending lowering of an island has come to 0. -/
def Clock.isDue (c : Clock) : Bool :=
  match c.low with
  | some l => l.2.2 == 0
  | none => false

/-- Decisions and warnings of one island at a boundary; an island whose lowering is due waits for LOWERING_DUE. -/
def State.decideIsland (s : State) (i : IslandId) : State :=
  let v := s.island i
  let boosted := (s.islands.toList.filter (fun v => v.clock.boosted)).length
  let d : Decision :=
    if v.fwh then { ratio := v.clock.trat, step := v.clock.tstep, warns := [] } else v.decide_ s.gov boosted
  let s :=
    if d.ratio != v.clock.trat || d.step != v.clock.tstep then
      s.modIsland i (fun v => { v with clock := v.clock.setTarget d.ratio d.step })
    else s
  if v.clock.isDue then { s with gov := { s.gov with lowering := s.gov.lowering ++ [(i, lowestOf d.warns)] } }
  else (d.warns.foldl (fun s r => s.warn i r 7) s).decideHeld i

/-! ### The boundary (R349) -/

/-- An island at a boundary: shares of stretched cycles, settings, and one interval less until its lowering is due. -/
def Island.open_ (v : Island) (set_ : Setting) : Island :=
  let c := v.clock
  { v with
    mc := 0
    setting := set_
    clock := { c with
      stpct := if c.cycles == 0 then 0 else c.stretched * 100 / c.cycles
      clpct := if c.cycles == 0 then 0 else c.current * 100 / c.cycles
      cycles := 0, stretched := 0, current := 0
      low := c.low.map (fun l => (l.1, l.2.1, l.2.2 - 1)) } }

/-- The counts of the guard, and its actions end (R357). -/
def Gov.endGuard (g : Gov) : Gov :=
  { g with
    ghalf := if g.halved then satInc16 g.ghalf else g.ghalf
    gstop := if g.guard == 3 then satInc16 g.gstop else g.gstop
    guard := 0, halved := false }

/-- The interval's counts start again. -/
def Gov.clear (g : Gov) : Gov :=
  { g with sectors := 0, cwait := 0, call := 0, ohPj := 0, emodPj := 0, boundaries := g.boundaries + 1 }

/-- GOVERNOR_INTERVAL_BOUNDARY (R349): policies in force, grants, decisions and warnings of every island in one step; then the
dispatcher retries (15_dispatch R331). -/
def execGovernorIntervalBoundary (s : State) : Out :=
  .next (if s.time == 160000 * s.gov.boundaries && s.gov.ticks == s.time / 1600 && s.gov.lowering.isEmpty then
      let s := { s with gov := { s.gov.endGuard with
        mrate := s.gov.mrateNext, gpol0 := s.gov.gpol0Next, gpol1 := s.gov.gpol1Next } }
      let s := if s.gov.rbg then s else (List.finRange 160).foldl (fun s c => s.modCore c (fun k => k.gateBanks false)) s
      let s := s.grant
      let s := (List.finRange 10).foldl (fun s i => s.modIsland i (fun v => v.open_ (s.settingOf i))) s
      let s := (List.finRange 10).foldl State.decideIsland s
      { s with gov := s.gov.clear }.dispRetry
    else s)

/-- LOWERING_DUE (R360): at a boundary, the lowering of an island that has fallen due is carried out or lapses; then a lowering
that firmware asked for is decided. -/
def execLoweringDue (i : IslandId) (s : State) : Out :=
  .next (match s.gov.lowering.find? (fun l => l.1 == i), (s.island i).clock.low with
    | some (_, warned), some (prat, step, _) =>
      let s := { s with gov := { s.gov with lowering := s.gov.lowering.filter (fun l => l.1 != i) } }
      let fwh := (s.island i).fwh
      let req (r st : Nat) (s : State) : State := s.modIsland i (fun v =>
        { v with clock := { v.clock.setTarget r st with low := none, warn := false } })
      let s :=
        if fwh then req prat step s
        else
          match warned with
          | none => s.modIsland i (fun v => { v with clock := { v.clock with low := none, warn := false } })
          | some r =>
            if r ≤ prat then
              (if r < prat then (req prat step s).warn i r 7 else req prat step s)
            else req r 7 s
      s.decideHeld i
    | some _, none => { s with gov := { s.gov with lowering := s.gov.lowering.filter (fun l => l.1 != i) } }
    | none, _ => s)

end Sys2Proof.Machine
end

