-- ==== Sys2Proof/Machine/Manage.lean ====
section
/-! DEFINITION. Commands of the management core: invalidation of translations, owners of granules, resolution of parked copies, the
consumer sides of the fault queue and the service ring, service answers (03_memory R64 to R72, 14_scalar R319, R320). -/

namespace Sys2Proof.Machine

open Sys2Proof

/-! ### Invalidation (R64) -/

/-- What an invalidation names: a tenant or all, and the first and last VA plus one. -/
structure Inval where
  tenant : Option Tenant
  lo : Nat
  hi : Nat
  deriving DecidableEq, Repr

/-- The request of a TINV value; none when it names no tenant. -/
def invalOf (v : W64) : Option Inval :=
  let ten := fld v 61 58
  let page : Nat := 2 ^ (([12, 16, 21, 30][fld v 57 56]?).getD 12)
  let va := fld v 47 12 * 4096 / page * page
  match fld v 63 62 with
  | 0 => if h : ten < 12 then some { tenant := some ⟨ten, h⟩, lo := va, hi := va + page } else none
  | 1 => if h : ten < 12 then some { tenant := some ⟨ten, h⟩, lo := 0, hi := 2 ^ 48 } else none
  | _ => some { tenant := none, lo := 0, hi := 2 ^ 48 }

/-- The request names this tenant. -/
def Inval.names (q : Inval) (t : Tenant) : Bool :=
  match q.tenant with
  | some u => u == t
  | none => true

/-- The request names this address of a tenant. -/
def Inval.hits (q : Inval) (t : Tenant) (va : Nat) : Bool := q.names t && decide (q.lo ≤ va) && decide (va < q.hi)

/-- The request names some address of a block of 2^bits bytes. -/
def Inval.meets (q : Inval) (t : Tenant) (va bits : Nat) : Bool :=
  q.names t && decide (va < q.hi) && decide (q.lo < va + 2 ^ bits)

/-- A list of translations without those that match. -/
def Inval.clean (q : Inval) (l : List Tlb) : List Tlb := l.filter (fun e => !q.meets e.tenant e.va e.bits)

/-- A walk cache without the pointers that match. -/
def Inval.cleanPtrs (q : Inval) (l : List WalkPtr) : List WalkPtr :=
  l.filter (fun p => !q.meets p.tenant (p.stem * 2 ^ (12 + 9 * (p.level + 1))) (12 + 9 * (p.level + 1)))

/-- No micro-TLB, island TLB or walk cache holds an entry that matches. -/
def State.dropEntries (s : State) (q : Inval) : State :=
  { s with
    cores := s.cores.map (fun k => { k with tlbs := { x := q.clean k.tlbs.x, l := q.clean k.tlbs.l, s := q.clean k.tlbs.s } })
    islands := s.islands.map (fun v => { v with tlb := q.clean v.tlb, side := q.clean v.side })
    walkPtrs := s.walkPtrs.map q.cleanPtrs }

/-- Messages between agents that have not been acted on: waiting to be injected, on their way or lost, waiting at their agent, or
joined to a multicast window. -/
def State.undelivered (s : State) : List Flit :=
  s.fabric.routers.toList.flatMap (fun q =>
      q.outbox ++ (q.credits.filter (fun c => c.delivered.isNone)).map Credit.flit ++ q.inbox)
    ++ s.slices.toList.flatMap (fun v => v.windows.flatMap Window92.reqs)

/-- An access of X that matches is in flight. A host load tells no VA, so any of the tenant counts. -/
def XCtx.uses (x : XCtx) (q : Inval) (t : Tenant) : Bool :=
  x.loads.any (fun l => q.hits t l.va) || x.stores.any (fun l => q.hits t l.va)
    || (match x.op with
      | some (.block va _ _ none) => q.hits t va
      | some (.host _ none) => q.names t
      | some (.barrier va _) => q.hits t va
      | _ => false)

/-- A copy that holds a matching translation: a sector of it is out, of an abandoned copy too, or its barrier object is translated. A
parked copy holds none. -/
def Copy.uses (c : Copy) (q : Inval) (t : Tenant) : Bool :=
  c.st != .parked && ((c.op != .put && c.out.any (fun o => o.parts.any (fun p => q.hits t p.va)))
    || (c.st == .active && c.barPa.isSome && q.hits t c.barVa))

/-- An access that a matching entry translated is still to be performed or to park. -/
def State.inUse (s : State) (q : Inval) : Bool :=
  s.cores.toList.any (fun k =>
      match k.tenant with
      | some t => k.seqs.x.toList.any (fun x => x.uses q t) || (k.land.copies ++ k.land.orphans).any (fun c => c.uses q t)
          || k.atoms.any (fun a => a.sent && q.hits t a.va)
      | none => false)
    || s.undelivered.any (fun f =>
      match f.body with
      | .read _ _ _ t _ _ (.fill _ _ va _) => q.hits t va
      | .barrier _ t _ (.report _ _ va _ _) => q.hits t va
      | _ => false)
    || s.host.reqs.any (fun r =>
      match r.who.core.bind (fun c => (s.core c).tenant) with
      | some t => q.names t
      | none => true)

/-- A TINV write starts an invalidation, or is held while one is in progress. One that names no tenant completes at once. -/
def State.startInval (s : State) (v : W64) : State :=
  if s.mgmt.tinv.isSome then { s with mgmt := { s.mgmt with tinvHeld := s.mgmt.tinvHeld ++ [v] } }
  else
    match invalOf v with
    | none => s
    | some q => { s.dropEntries q with mgmt := { s.mgmt with tinv := some v } }

/-- A write of TINV with a scope. -/
def State.tinv (s : State) (scope : Nat) (v : W64) : State :=
  if fld v 63 62 == scope && !s.mgmt.dead then s.startInval v else s

/-- TINV_PAGE (R64). -/
def execTinvPage (v : W64) (s : State) : Out := .next (s.tinv 0 v)

/-- TINV_TENANT (R64). -/
def execTinvTenant (v : W64) (s : State) : Out := .next (s.tinv 1 v)

/-- TINV_ALL (R64). -/
def execTinvAll (v : W64) (s : State) : Out := .next (s.tinv 2 v)

/-- Held writes start until one is in progress; `fuel` bounds them. -/
def State.nextInval (s : State) : Nat → State
  | 0 => s
  | fuel + 1 =>
    match s.mgmt.tinvHeld with
    | [] => s
    | v :: rest =>
      if s.mgmt.tinv.isSome then s
      else ({ s with mgmt := { s.mgmt with tinvHeld := rest } }.startInval v).nextInval fuel

/-- TINV_COMPLETION (R64): an invalidation ends when no access that a matching entry translated is still under way. -/
def execTinvCompletion (s : State) : Out :=
  .next (match s.mgmt.tinv with
    | none => s
    | some v =>
      match invalOf v with
      | none => s
      | some q =>
        if s.inUse q then s
        else
          let s := { s.dropEntries q with mgmt := { s.mgmt with tinv := none } }
          s.nextInval s.mgmt.tinvHeld.length)

/-! ### Owners (R65, R66) -/

/-- The recorded tags with one set: ascending granules, none of tag 15. -/
def putTag (l : List (Nat × Nat)) (g tag : Nat) : List (Nat × Nat) :=
  let rest := l.filter (fun p => p.1 != g)
  if tag == 15 then rest else rest.takeWhile (fun p => decide (p.1 < g)) ++ (g, tag) :: rest.dropWhile (fun p => decide (p.1 < g))

/-- Every byte of a granule is zero, and no slice holds a line of it or waits for one. -/
def State.zeroGranule (s : State) (g : Nat) : State :=
  let s := s.channel 65536
  { s with
    mem := s.mem.clear (g * 2 ^ 21) ((g + 1) * 2 ^ 21)
    slices := s.slices.map (fun v => { v with
      lines := v.lines.filter (fun l => l.line / 2 ^ 14 != g)
      fills := v.fills.filter (fun f => f.line / 2 ^ 14 != g) }) }

/-- A load or store of X that passed its checks at its word, before the change, is still on its way to the granule (log 14). -/
def State.usesGranule (s : State) (g : Nat) : Bool :=
  s.undelivered.any (fun f =>
    match f.body with
    | .read pa _ pm _ _ _ w => w.isX && pm == 0 && granOf pa == g
    | .write pa _ pm _ _ w => w.isX && pm == 0 && granOf pa == g
    | _ => false)

/-- A write of OWNCMD: held while a change is in progress; nothing when the tag is the same; else the granule reads as tag 15 from
now on. -/
def State.startOwn (s : State) (v : W64) : State :=
  let g := fld v 36 21
  let tag := fld v 63 60
  if s.mgmt.own.isSome then { s with mgmt := { s.mgmt with ownHeld := s.mgmt.ownHeld ++ [v] } }
  else if s.ownerTag g == tag then s
  else { s with mgmt := { s.mgmt with own := some { gran := g, tag := tag } } }

/-- OWNCMD (R66). -/
def execOwncmd (v : W64) (s : State) : Out := .next (if s.mgmt.dead then s else s.startOwn v)

/-- Held writes start until one is in progress; `fuel` bounds them. -/
def State.nextOwn (s : State) : Nat → State
  | 0 => s
  | fuel + 1 =>
    match s.mgmt.ownHeld with
    | [] => s
    | v :: rest =>
      if s.mgmt.own.isSome then s
      else ({ s with mgmt := { s.mgmt with ownHeld := rest } }.startOwn v).nextOwn fuel

/-- OWNER_CHANGE_COMPLETION (R66): the granule is invalidated in every slice and zeroed, its new tag is set and BUSY clears; not before
the accesses admitted earlier are performed. -/
def execOwnerChangeCompletion (s : State) : Out :=
  .next (match s.mgmt.own with
    | none => s
    | some o =>
      if s.usesGranule o.gran then s else
      let s := s.zeroGranule o.gran
      let s := { s with mgmt := { s.mgmt with own := none, tags := putTag s.mgmt.tags o.gran o.tag } }
      s.nextOwn s.mgmt.ownHeld.length)

/-! ### RESUME (R72) -/

/-- What a RESUME write names. -/
inductive Parked where
  | copy (c : CoreId) (v : Copy)
  | atom (c : CoreId) (a : AtomFly)
  | saved (t : Tenant) (m : Saved)
  | nothing

/-- A parked copy of a core by its identifier. -/
def Core.parkedCopy (k : Core) (id : W32) : Option Copy := k.land.copies.find? (fun v => v.st == .parked && v.copyId == id)

/-- A parked atomic of a core by its identifier. -/
def Core.parkedAtom (k : Core) (id : W32) : Option AtomFly := k.atoms.find? (fun a => a.parked.isSome && a.copyId == id)

/-- The parked copy or atomic of a tenant with an identifier: on a core, or in a saved member (R386). -/
def State.findParked (s : State) (t : Tenant) (id : W32) : Parked :=
  let here (c : CoreId) : Option Parked :=
    if (s.core c).tenant != some t then none
    else
      match (s.core c).parkedCopy id, (s.core c).parkedAtom id with
      | some v, _ => some (.copy c v)
      | none, some a => some (.atom c a)
      | none, none => none
  match (List.finRange 160).findSome? here with
  | some p => p
  | none =>
    match (s.tenant t).saved.find? (fun m => (m.core.parkedCopy id).isSome || (m.core.parkedAtom id).isSome) with
    | some m => .saved t m
    | none => .nothing

/-- RES of RESUME. -/
def State.resumeRes (s : State) (n : Nat) : State := { s with mgmt := { s.mgmt with resumeRes := n } }

/-- An action for a saved member is recorded, in its descriptor too (R385). -/
def State.recordAction (s : State) (t : Tenant) (m : Saved) (id : W32) (replay : Bool) : State :=
  let s := s.modTenant t (fun q => { q with saved := q.saved.map (fun (v : Saved) =>
    if v.slot == m.slot then { v with actions := v.actions.filter (fun a => a.1 != id) ++ [(id, replay)] } else v) })
  match m.core.parkedCopy id with
  | some v =>
    let a := (s.tenant t).slotAddr m.slot + 0x4000 + 64 * m.core.descOf v + 59
    { s with mem := s.mem.write a (if replay then 1 else 2) }
  | none => s

/-- A write of RESUME with ACT 1 or 2. -/
def State.resume (s : State) (v : W64) (replay : Bool) : State :=
  let id : W32 := v.setWidth 32
  let ten := fld v 59 56
  if h : ten < 12 then
    let t : Tenant := ⟨ten, h⟩
    match s.findParked t id with
    | .copy c p =>
      let s := if replay then s.modCore c (fun k => k.replayCopy p.id)
        else (s.modCore c (fun k => k.killCopy p.id)).voidRecords t id
      (s.settle c).resumeRes 0
    | .atom c a =>
      let s := if replay then s.modCore c (fun k => k.setAtom { a with parked := none })
        else (s.modCore c (fun k => k.atomDone a none false ((a.parked.map XFault.code).getD 0))).voidRecords t id
      (s.settle c).resumeRes 0
    | .saved t m =>
      let s := s.recordAction t m id replay
      (if replay then s else s.voidRecords t id).resumeRes 0
    | .nothing => s.resumeRes 1
  else s.resumeRes 1

/-- RESUME_REPLAY (R72). -/
def execResumeReplay (v : W64) (s : State) : Out :=
  .next (if fld v 63 62 == 1 && !s.mgmt.dead then s.resume v true else s)

/-- RESUME_KILL (R72). -/
def execResumeKill (v : W64) (s : State) : Out :=
  .next (if fld v 63 62 == 2 && !s.mgmt.dead then s.resume v false else s)

/-- RESUME_NO_ACTION (R72). -/
def execResumeNoAction (v : W64) (s : State) : Out :=
  .next (if (fld v 63 62 == 0 || fld v 63 62 == 3) && !s.mgmt.dead then s.resumeRes 2 else s)

/-! ### Queues to firmware (R71, 14_scalar R320) -/

/-- Core of a holder. -/
def Holder.core : Holder → Option CoreId
  | .copy c _ => some c
  | .atom c _ => some c
  | .ctx c _ => some c
  | .seq c _ => some c
  | .unit c => some c
  | .slice _ => none
  | .dispatcher => none

/-- Held and waiting records of a tenant move as far as they can; the cores that held them go on. -/
def State.drainRecords (s : State) (t : Tenant) : State :=
  let held := (((s.tenant t).waiting).filterMap (fun w => w.holder.core)).eraseDups
  let s := s.moveRecords t (2048 + 2 * (s.tenant t).waiting.length)
  held.foldl (fun s c => s.settle c) s

/-- FQHEAD_WRITE (R71). -/
def execFqheadWrite (t : Tenant) (v : W64) (s : State) : Out :=
  .next (if s.mgmt.dead then s else (s.modTenant t (fun q => { q with fqhead := v.setWidth 32 })).drainRecords t)

/-- SQHEAD_WRITE (14_scalar R320). -/
def execSqheadWrite (t : Tenant) (v : W64) (s : State) : Out :=
  .next (if s.mgmt.dead then s
    else (s.modTenant t (fun q => { q with sqhead := v.setWidth 32 })).moveServices t (s.tenant t).sqheld.length)

/-! ### Service answers (14_scalar R319, R320) -/

/-- The context waits for the answer to a request that named this core. -/
def XCtx.awaits (x : XCtx) (core : Nat) : Bool :=
  match x.op with
  | some (.service none) => fld ((x.service.head?).getD 0) 31 24 == core
  | _ => false

/-- A core after the answer words have been given to a context. -/
def Core.giveAnswer (k : Core) (x : CtxId) (a b : W64) : Core := k.setCtx x { k.ctx x with op := some (.service (some (a, b))) }

/-- SVCMD_DELIVER (R320): the answer words go to the context of TEN, CORE and CTX that waits, wherever its task now runs, or into
its saved state. -/
def State.deliver (s : State) (v : W64) : State :=
  let x : CtxId := finOf 4 (fld v 47 46)
  let core := fld v 55 48
  let ten := fld v 59 56
  let res (s : State) (n : Nat) : State := { s with mgmt := { s.mgmt with svRes := n } }
  if h : ten < 12 then
    let t : Tenant := ⟨ten, h⟩
    match (List.finRange 160).find? (fun c => (s.core c).tenant == some t && ((s.core c).ctx x).awaits core) with
    | some c => res (s.modCore c (fun k => k.giveAnswer x s.mgmt.sva0 s.mgmt.sva1)) 0
    | none =>
      match (s.tenant t).saved.find? (fun m => (m.core.ctx x).awaits core) with
      | some m =>
        res (s.modTenant t (fun q => { q with saved := q.saved.map (fun (w : Saved) =>
          if w.slot == m.slot then { w with core := w.core.giveAnswer x s.mgmt.sva0 s.mgmt.sva1 } else w) })) 2
      | none => res s 1
  else res s 1

/-- SVCMD_DELIVER (R320). -/
def execSvcmdDeliver (v : W64) (s : State) : Out := .next (if fld v 63 62 == 1 && !s.mgmt.dead then s.deliver v else s)

/-- SERVICE_ANSWER_ARRIVAL (R319): s1 and s2 are loaded, an acquire at device scope, and the context goes on. -/
def execServiceAnswerArrival (c : CoreId) (x : CtxId) (s : State) : Out :=
  .next (match ((s.core c).ctx x).op with
    | some (.service (some (a, b))) =>
      (s.modCore c (fun k => (k.l1Acquire .device).xRetire x (fun v => (v.set 1 a).set 2 b))).settle c
    | _ => s)

end Sys2Proof.Machine
end

