-- ==== Sys2Proof/Machine/Outside.lean ====
section
/-! DEFINITION. The host and the peer modules: completions of host requests, links, BAR2, launch submissions, event ingress,
forwarded launches and reports (12_sync R278, R279, 15_dispatch R326, R327, 18_host R387 to R397). -/

namespace Sys2Proof.Machine

open Sys2Proof

/-! ### Completions (R387, R388) -/

/-- The fault code of a completion; 0 for data. -/
def cplCode (c : Cpl) (atom : Bool) : Nat :=
  match c with
  | .ok _ => 0
  | .unsupported => if atom then 0x22 else 0x20
  | .abort => 0x21
  | .poisoned => 0x21

/-- A code word fetched from the host aperture comes, or its fetch faults: the fault is left for an agent that waits at the word. -/
def State.fetchDone (s : State) (c : CoreId) (a : Agent) (off code : Nat) (data : List Byte) : State :=
  let sect := (agentSect a).1
  if code == 0 then s.modCore c (fun k => k.addFetched sect off (BitVec.ofNat 32 (leNat data)))
  else
    match (s.core c).task with
    | none => s
    | some t =>
      let va := t.image + ((t.sects[sect]?).getD (0, 0)).1 + off
      let f : XFault := { va := va, code := code, badPte := false, host := true }
      let as := (agents.filter (fun a => (agentSect a).1 == sect && ((s.core c).pc a).toNat == off))
      s.modCore c (fun k => as.foldl (fun k a => k.leaveFault a f) k)

/-- Bytes that the dispatcher has asked for have come. -/
def State.chunkDone (s : State) (pa size code : Nat) (data : List Byte) : State :=
  { s with disp := { s.disp with
      due := s.disp.due || s.disp.paused
      look := true
      chunks := s.disp.chunks.map (fun (c : HostChunk) =>
        if c.pa == pa && c.size == size && c.data.isNone then { c with data := some (data, code) } else c) } }

/-- An atomic that the host has refused as Unsupported Request posts a record that parks nothing (03_memory R68, R69). -/
def State.atomRefused (s : State) (w : Who) : State :=
  match w with
  | .atom c id =>
    match (s.core c).atoms.find? (fun a => a.id == id), (s.core c).task with
    | some a, some t =>
      s.postRecord t.tenant
        { miss := 0, landed := 0, va := a.va, copyId := a.copyId, atom := true, badPte := false, host := true, wr := true,
           seq := 3, core := c.val, tenant := t.tenant, code := 0x22 } (.atom c id)
    | _, _ => s
  | _ => s

/-- A request of the device to the host ends with a code, or with data. A flushing read ends whatever its status (13_ordering R285).
The slice of the address answers the requester, with the request's priority (04_fabric R81). -/
def State.hostEnds (s : State) (r : HostReq) (code : Nat) (data : List Byte) : State :=
  let full := !s.hostRoom
  let s := s.hostDone r.tag
  -- with no tag free the dispatcher's own requests may have been waiting for one
  let s := { s with disp := { s.disp with look := s.disp.look || full } }
  let i := sliceFor r.pa
  let code := if r.flush then 0 else code
  match r.who with
  | .fetch c a off => s.fetchDone c a off code data
  | .nobody => s.chunkDone r.pa r.size code data
  | w =>
    match r.atom with
    | some a =>
      let s := if code == 0x22 then s.atomRefused w else s
      s.answer i r.pri w (.atomReply (BitVec.ofNat 64 (leNat data)) (code == 0 && (a.result (leNat data)).2) code w)
    | none => s.answer i r.pri w (.readReply r.pa data code w)

/-! ### Submissions (R327, R328) -/

/-- A submission is dropped and counted. -/
def State.countOvf (s : State) (t : Tenant) (q : Fin 4) : State := s.modQueue t q (fun v => { v with ovf := satInc16 v.ovf })

/-- The record of a submission is read and its copy placed in the queue; a full queue or a faulting read drops it. A record in the
host aperture is waited for. -/
def State.submit (s : State) (t : Tenant) (q : Fin 4) (va : Nat) : State :=
  if s.launchFull t q || va % 64 != 0 then s.countOvf t q
  else
    let r := s.readTenant t va 64
    match r.2 with
    | .ok bs => r.1.launchRecord t q bs
    | .fault _ => r.1.countOvf t q
    | .wait => { r.1 with disp := { r.1.disp with subs := r.1.disp.subs ++ [(t, q, va)] } }

/-- Submissions whose record has come from the host go on; the bytes they read are not kept. -/
def State.retrySubs (s : State) : State :=
  let l := s.disp.subs
  let s := l.foldl (fun s p => s.submit p.1 p.2.1 p.2.2) { s with disp := { s.disp with subs := [] } }
  if s.disp.subs.length < l.length then { s with disp := { s.disp with chunks := s.disp.chunks.filter (fun c => c.data.isNone) } } else s

/-- HOST_COMPLETION (R388): a completion for a request of the device returns; one with data of another length than was asked for is no
completion of it. -/
def execHostCompletion (tag : Nat) (st : Cpl) (s : State) : Out :=
  .next (match s.hostReq tag with
    | none => s
    | some r =>
      match st with
      | .ok data => if data.length != r.size then s else (s.hostEnds r 0 data).retrySubs
      | c => (s.hostEnds r (cplCode c r.atom.isSome) []).retrySubs)

/-- COMPLETION_TIMEOUT (R387, R388): 50 ms after it was sent, a request without completion takes 0x21. -/
def execCompletionTimeout (tag : Nat) (s : State) : Out :=
  .next (match s.hostReq tag with
    | none => s
    | some r => if r.sent + 80000000 ≤ s.time then (s.hostEnds r 0x21 []).retrySubs else s)

/-- The host may reach a tenant's queues (R389, R393). -/
def State.hostReaches (s : State) (t : Tenant) : Bool := s.host.hacc.getLsbD t.val

/-- LQSUB (15_dispatch R327): a write of LQSUB_n,q by the host, when HACC lets it, or by the management core. -/
def execLqsub (host : Bool) (t : Tenant) (q : Fin 4) (v : W64) (s : State) : Out :=
  .next (if s.mgmt.dead || (host && !s.hostReaches t) then s else s.submit t q (fld v 47 0))

/-! ### Links (R388, R394 to R397) -/

/-- PCIE_LINK_DOWN (R388). -/
def execPcieLinkDown (s : State) : Out := .next { s with host := { s.host with link := false } }

/-- PCIE_LINK_UP (R388). -/
def execPcieLinkUp (s : State) : Out := .next { s with host := { s.host with link := true } }

/-- Links between other modules that are down, with some added, and with some taken out (R397). -/
def State.cutLinks (s : State) (l : List Nat) : State := { s with host := { s.host with cuts := (s.host.cuts ++ l).eraseDups } }
def State.mendLinks (s : State) (l : List Nat) : State :=
  { s with host := { s.host with cuts := s.host.cuts.filter (fun i => !l.contains i) } }

/-- STOLEPEL_LINK_DOWN (R397): a port of this module is down and counted, or the link of another module is down, and so are those of
`cut`. What can still be reached follows from the links (State.portTo). -/
def execStolepelLinkDown (p : RingLink) (cut : List (Fin 4)) (s : State) : Out :=
  .next (
    let others := cut.map Fin.val
    match p with
    | .after i => s.cutLinks (i.val :: others)
    | .port p =>
      if !s.portUp p then s
      else
        let v := s.host.slnk[p.val]
        let v := setFld (setFld (setFld v 63 63 0) 59 56 0) 15 0 (min 65535 (fld v 15 0 + 1))
        { s with host := { s.host with slnk := s.host.slnk.set p.val v p.isLt } }.cutLinks others)

/-- A peer as it is found. -/
def peerOf (v : PeerView) : PeerMod :=
  { index := v.index.val, mem := v.mem.foldl (fun m p => Mem.write m p.1 p.2) [], tags := v.tags, enabled := v.enabled }

/-- The modules seen over a link that has come up are present. -/
def State.seePeers (s : State) (seen : List PeerView) : State :=
  let news := seen.filter (fun w => w.index.val != s.modIndex)
  let old := s.host.peers.filter (fun m => !news.any (fun w => w.index.val == m.index))
  { s with host := { s.host with peers := old ++ news.map peerOf } }

/-- SLNK of a port that is up names the module at its other end (R394, R396). -/
def State.namePeer (s : State) (p : Fin 2) : State :=
  if s.portUp p then
    let v := setFld s.host.slnk[p.val] 55 54 (if p == 0 then s.nextUp s.modIndex else s.nextDown s.modIndex)
    { s with host := { s.host with slnk := s.host.slnk.set p.val v p.isLt } }
  else s

/-- STOLEPEL_LINK_UP (R397): the modules seen are present; a port of this module is up, unless no other module is there to link, or the link
of another module is up, and so are those of `mend`. -/
def execStolepelLinkUp (p : RingLink) (mend : List (Fin 4)) (lanes : Nat) (seen : List PeerView) (s : State) : Out :=
  .next (
    let s := s.seePeers seen
    let others := mend.map Fin.val
    match p with
    | .after i => ((s.mendLinks (i.val :: others)).namePeer 0).namePeer 1
    | .port p =>
      if s.host.peers.isEmpty then s
      else
        let v := setFld (setFld s.host.slnk[p.val] 63 63 1) 59 56 (min lanes 8)
        (({ s with host := { s.host with slnk := s.host.slnk.set p.val v p.isLt } }.mendLinks others).namePeer 0).namePeer 1)

/-! ### Accesses of peer modules (R395, R396) -/

/-- The address of what a peer asks. -/
def peerPa : PeerAsk → Nat
  | .read pa _ => pa
  | .write pa _ => pa
  | .acc pa _ _ _ => pa
  | .atom pa _ _ _ _ _ => pa

/-- What a peer asks lies within a sector, a block read within a line, and has the size of its kind. -/
def peerFits : PeerAsk → Bool
  | .read pa n => decide (0 < n) && (decide (pa % 32 + n ≤ 32) || (pa % 64 == 0 && n == 64))
  | .write pa data => !data.isEmpty && decide (pa % 32 + data.length ≤ 32)
  | .acc pa data _ _ => pa % 32 == 0 && data.length == 32
  | .atom pa w _ _ _ _ => (w == 32 && pa % 4 == 0) || (w == 64 && pa % 8 == 0)

/-- The message that a peer's access is at its slice; it is answered by unicast (04_fabric R92). -/
def peerBody (a : PeerAccess) : Body :=
  let w : Who := .peer a.src.val a.tag
  match a.ask with
  | .read pa n => .read pa n 0 a.tenant a.hint true w
  | .write pa data => .write pa data 0 a.tenant a.hint w
  | .acc pa data op fmt => .acc pa data 0 a.tenant a.hint op fmt w
  | .atom pa n op u x y => .atom pa 0 a.tenant { w := n, op := op, u := u, x := x, y := y } w

/-- An access of a peer comes over a port: meant for this module it reaches the slice of its line, which checks the owner tag and performs
it as it does those of this module; meant for another it passes through and meets no slice (R395). -/
def State.peerAccess (s : State) (a : PeerAccess) : State :=
  let pa := peerPa a.ask
  if a.dst.val != s.modIndex || !peerFits a.ask || decide (2 ^ 37 ≤ pa) || s.mgmt.dead then s
  else
    let b := peerBody a
    let r := sliceRouter (sliceFor pa)
    let f : Flit := { cls := b.cls, dst := r, src := r, pri := a.pri.val, age := 0, stag := (s.tags b).1, soff := (s.tags b).2, seg := 0, body := b }
    s.modRouter r (fun q => { q with inbox := q.inbox ++ [f] })

/-- Flits that a port has replayed are counted in RETRY, saturating (R396). -/
def State.countRetry (s : State) (p : Fin 2) (n : Nat) : State :=
  let v := s.host.slnk[p.val]
  { s with host := { s.host with slnk := s.host.slnk.set p.val (setFld v 31 16 (min 65535 (fld v 31 16 + n))) p.isLt } }

/-! ### Launches over modules (15_dispatch R326) -/

/-- A module can be reached: it is present, and one way round the ring is whole (18_host R397). -/
def State.reaches (s : State) (index : Nat) : Bool := (s.peer index).isSome && (s.portTo index 0).isSome

/-- Message `n` to another module has arrived there. -/
def State.dropPeer (s : State) (n : Nat) : State := { s with disp := { s.disp with peer := s.disp.peer.eraseIdx n } }

/-- LAUNCH_FORWARD (R326): a forwarded record reaches a peer module, or comes from one and enters its queue here. -/
def execLaunchForward (m : Forward) (s : State) : Out :=
  .next (match m with
    | .sent n =>
      match s.disp.peer[n]? with
      | some (.launch dst _ _ _ _) => if s.reaches dst then s.dropPeer n else s
      | _ => s
    | .taken acceptor number device t q bytes =>
      if s.mgmt.dead || s.launchFull t q then s else s.launchFrom t q bytes (some (acceptor, number, device)))

/-- TASK_COMPLETION_REPORT (R326): a report reaches the accepting module: a peer, or this one, which counts the task. -/
def execTaskCompletionReport (m : Report) (s : State) : Out :=
  .next (match m with
    | .sent n =>
      match s.disp.peer[n]? with
      | some (PeerMsg.report dst _ _) => if s.reaches dst then s.dropPeer n else s
      | _ => s
    | .taken id killed =>
      match s.kernel id with
      | some k => if k.acceptor == s.modIndex && !s.mgmt.dead && !k.owes then s.countTask id killed else s
      | none => s)

/-! ### BAR2 (R390) -/

/-- HWBASE. -/
def State.bar2 (s : State) (off : Nat) : Nat := (fld s.host.hwbase 36 30 * 2 ^ 30 + off) % 2 ^ 37

/-- The tag of a granule lets the host in. -/
def State.hostMay (s : State) (pa : Nat) : Bool :=
  let tag := s.ownerTag (granOf pa)
  tag == 15 || (decide (tag ≤ 12) && s.host.hacc.getLsbD tag)

/-- The granule's owner is changing (R66). -/
def State.changing (s : State) (pa : Nat) : Bool :=
  match s.mgmt.own with
  | some o => o.gran == granOf pa
  | none => false

/-- An access of the host is refused and counted. -/
def State.deny (s : State) : State :=
  { s with host := { s.host with herr := (satInc32 (s.host.herr.setWidth 32)).setWidth 64 } }

/-- A completion to the host. -/
def State.complete (s : State) (c : Cpl) : State := { s with host := { s.host with cpls := s.host.cpls ++ [c] } }

/-- A host read through the slice of a line; an uncorrectable error zeroes the line and goes to the granule's owner (03_memory R73). -/
def State.hostRead (s : State) (i : SliceId) (pa n : Nat) (e : Ecc) : State :=
  let u := s.upset
  let r := { s.useLine i with upset := e }.readLine pa n .dflt .nobody false
  let s := { r.1 with upset := u }
  let s := if r.2 then s.memoryErrorOther pa i false else s
  s.complete (.ok (s.mem.readN pa n))

/-- HOST_BAR2_ACCESS (R387, R390): a host access within one line, through the line's slice; an AtomicOp, at BAR0 too, is an Unsupported
Request; the host chooses the size of BAR2. An offset beyond it is none of BAR2. -/
def execHostBar2Access (off : Nat) (acc : HostAcc) (e : Ecc) (s : State) : Out :=
  .next (
    let pa := s.bar2 off
    let i := sliceFor pa
    let n := match acc with
      | .read n => n
      | .write data => data.length
      | .atomic bar0 => if bar0 then 0 else 1
      | .size _ => 0
    let inside := decide (0 < n) && decide (pa % 128 + n ≤ 128) && decide (off < 2 ^ s.host.bar2)
    if s.mgmt.dead then s
    else
      match acc with
      | .size k => { s with host := { s.host with bar2 := 30 + k.val } }
      | .atomic bar0 => if bar0 || inside then s.complete .unsupported else s
      | .read n =>
        if !inside then s
        else if !s.hostMay pa then s.deny.complete .abort
        else if s.sliceStuck i (lineOf pa) || !s.lineFree i then s
        else s.hostRead i pa n e
      | .write data =>
        if !inside then s
        else if !s.hostMay pa || s.changing pa then s.deny
        else if s.sliceStuck i (lineOf pa) || !s.lineFree i then s
        else
          let reads := if pa % 32 == 0 && n % 32 == 0 then Reads.none else Reads.sectors
          (s.update i pa n .dflt .nobody false reads e (fun _ => some data)).s)

/-! ### Event ingress (12_sync R278, R279, R391) -/

def Stream.en (v : Stream) : Bool := v.cfg.getLsbD 63
def Stream.ten (v : Stream) : Nat := fld v.cfg 59 56
def Stream.core (v : Stream) : Nat := fld v.cfg 55 48
def Stream.hnd (v : Stream) : Nat := fld v.cfg 47 8
def Stream.tmo (v : Stream) : Nat := fld v.cfg 7 0

/-- Records of a message: one with a TMO of 0, else seven. -/
def Stream.batch (v : Stream) : Nat := if v.tmo == 0 then 1 else 7

/-- A message is due: enough records wait, or the oldest has waited TMO µs. -/
def Stream.due (v : Stream) (now : Nat) : Bool :=
  match v.buf with
  | [] => false
  | r :: _ => decide (v.batch ≤ v.buf.length) || decide (r.1 + v.tmo * 1600 ≤ now)

/-- The message of stream j over some records. -/
def Stream.mail (v : Stream) (j : Fin 4) (recs : List (Nat × W64)) : Mail :=
  { dw := BitVec.ofNat 64 (v.sent.toNat * 2 ^ 32 + j.val * 2 ^ 8 + recs.length) :: recs.map Prod.snd ++ List.replicate (7 - recs.length) 0
    src := 0x10000, hnd := BitVec.ofNat 64 v.hnd }

/-- The core that a stream's messages go to; a disabled stream has none, nor has one of a CORE that is no core (log 91). -/
def Stream.target (v : Stream) : Option CoreId := if h : v.en ∧ v.core < 160 then some ⟨v.core, h.2⟩ else none

/-- A message of a stream goes to its core, from some slice's router (R275, R298, 04_fabric R82, log 91). -/
def State.sendIngress (s : State) (j : Fin 4) (c : CoreId) (m : Mail) (records : Nat) (ten : Nat) : State :=
  let i : SliceId := finOf 80 (Config.freeNat s.draws)
  let s := { s with draws := s.draws + 1 }
  (s.modStream j (fun v => { v with out := some (c, m, records, none) })).send (sliceRouter i) (coreRouter c) 3
    (.mail c m (.stream j ten) .nobody)

/-- The message that a stream has out is sent again once its cycle has come; else one that is due is made of the oldest records, and
sent. -/
def State.ingress (s : State) (j : Fin 4) : State :=
  let v := s.host.streams[j.val]
  match v.out with
  | some (c, m, records, again) =>
    match again with
    | some t => if t ≤ s.time then s.sendIngress j c m records v.ten else s
    | none => s
  | none =>
    if !v.due s.time then s
    else
      let recs := v.buf.take v.batch
      let s := s.modStream j (fun v => { v with buf := v.buf.drop v.batch })
      match v.target with
      | none => s.modStream j (fun v => v.lose recs.length)
      | some c => s.sendIngress j c (v.mail j recs) recs.length v.ten

/-- INGRESS_RECORD_WRITE (R278, R391): a record enters its stream, or is dropped: written in part, to a stream that is not enabled, or
to a full buffer. -/
def execIngressRecordWrite (j : Fin 4) (v : W64) (full : Bool) (s : State) : Out :=
  .next (
    let st := s.host.streams[j.val]
    if s.mgmt.dead then s
    else if !full || !st.en || decide (64 ≤ st.buf.length) then s.modStream j (fun v => v.lose 1)
    else (s.modStream j (fun st => { st with buf := st.buf ++ [(s.time, v)] })).ingress j)

/-- INGRESS_FLUSH_TIMEOUT (R278): a message that is due is sent, or one that its core has refused is sent again (R275). -/
def execIngressFlushTimeout (j : Fin 4) (s : State) : Out := .next (if s.mgmt.dead then s else s.ingress j)

end Sys2Proof.Machine
end

