-- ==== Sys2Proof/Machine/Crypto.lean ====
section
/-! DEFINITION. The named algorithms of boot and attestation (18_host R398, R400): SHA-512, and RSASSA-PSS with SHA-512, MGF1 with SHA-512
and a salt of 64 bytes. The spec names them and gives no text; FIPS 180-4 and PKCS #1 v2.2 do (log 7). -/

namespace Sys2Proof.Machine

open Sys2Proof

/-! ### SHA-512 -/

/-- Round constants 0 to 19 of SHA-512: 64 bits of the fractional parts of the cube roots of the first primes. -/
def shaK0 : List W64 :=
  [0x428A2F98D728AE22, 0x7137449123EF65CD, 0xB5C0FBCFEC4D3B2F, 0xE9B5DBA58189DBBC, 0x3956C25BF348B538,
   0x59F111F1B605D019, 0x923F82A4AF194F9B, 0xAB1C5ED5DA6D8118, 0xD807AA98A3030242, 0x12835B0145706FBE,
   0x243185BE4EE4B28C, 0x550C7DC3D5FFB4E2, 0x72BE5D74F27B896F, 0x80DEB1FE3B1696B1, 0x9BDC06A725C71235,
   0xC19BF174CF692694, 0xE49B69C19EF14AD2, 0xEFBE4786384F25E3, 0x0FC19DC68B8CD5B5, 0x240CA1CC77AC9C65]

/-- Round constants 20 to 39 of SHA-512: 64 bits of the fractional parts of the cube roots of the first primes. -/
def shaK1 : List W64 :=
  [0x2DE92C6F592B0275, 0x4A7484AA6EA6E483, 0x5CB0A9DCBD41FBD4, 0x76F988DA831153B5, 0x983E5152EE66DFAB,
   0xA831C66D2DB43210, 0xB00327C898FB213F, 0xBF597FC7BEEF0EE4, 0xC6E00BF33DA88FC2, 0xD5A79147930AA725,
   0x06CA6351E003826F, 0x142929670A0E6E70, 0x27B70A8546D22FFC, 0x2E1B21385C26C926, 0x4D2C6DFC5AC42AED,
   0x53380D139D95B3DF, 0x650A73548BAF63DE, 0x766A0ABB3C77B2A8, 0x81C2C92E47EDAEE6, 0x92722C851482353B]

/-- Round constants 40 to 59 of SHA-512: 64 bits of the fractional parts of the cube roots of the first primes. -/
def shaK2 : List W64 :=
  [0xA2BFE8A14CF10364, 0xA81A664BBC423001, 0xC24B8B70D0F89791, 0xC76C51A30654BE30, 0xD192E819D6EF5218,
   0xD69906245565A910, 0xF40E35855771202A, 0x106AA07032BBD1B8, 0x19A4C116B8D2D0C8, 0x1E376C085141AB53,
   0x2748774CDF8EEB99, 0x34B0BCB5E19B48A8, 0x391C0CB3C5C95A63, 0x4ED8AA4AE3418ACB, 0x5B9CCA4F7763E373,
   0x682E6FF3D6B2B8A3, 0x748F82EE5DEFB2FC, 0x78A5636F43172F60, 0x84C87814A1F0AB72, 0x8CC702081A6439EC]

/-- Round constants 60 to 79 of SHA-512: 64 bits of the fractional parts of the cube roots of the first primes. -/
def shaK3 : List W64 :=
  [0x90BEFFFA23631E28, 0xA4506CEBDE82BDE9, 0xBEF9A3F7B2C67915, 0xC67178F2E372532B, 0xCA273ECEEA26619C,
   0xD186B8C721C0C207, 0xEADA7DD6CDE0EB1E, 0xF57D4F7FEE6ED178, 0x06F067AA72176FBA, 0x0A637DC5A2C898A6,
   0x113F9804BEF90DAE, 0x1B710B35131C471B, 0x28DB77F523047D84, 0x32CAAB7B40C72493, 0x3C9EBE0A15C9BEBC,
   0x431D67C49C100D4C, 0x4CC5D4BECB3E42B6, 0x597F299CFC657E2A, 0x5FCB6FAB3AD6FAEC, 0x6C44198C4A475817]

/-- The 80 round constants. -/
def shaK : List W64 := shaK0 ++ shaK1 ++ shaK2 ++ shaK3

/-- The first hash value: 64 bits of the fractional parts of the square roots of the first eight primes. -/
def shaInit : List W64 :=
  [0x6A09E667F3BCC908, 0xBB67AE8584CAA73B, 0x3C6EF372FE94F82B, 0xA54FF53A5F1D36F1,
   0x510E527FADE682D1, 0x9B05688C2B3E6C1F, 0x1F83D9ABFB41BD6B, 0x5BE0CD19137E2179]

/-- A big-endian number of some bytes, and its bytes. -/
def beNat (bs : List Byte) : Nat := bs.foldl (fun a b => a * 256 + b.toNat) 0
def beBytes (n v : Nat) : List Byte := (leBytes n v).reverse

/-- A message with its padding: one bit, zeros, and its length in bits as 128 bits, to whole blocks of 128 bytes. -/
def shaPad (m : List Byte) : List Byte := m ++ [0x80] ++ zeros ((239 - m.length % 128) % 128) ++ beBytes 16 (8 * m.length)

/-- The four mixing functions of the schedule and the rounds, each by its rotations; the last of a small one is a shift. -/
def shaBig (a b c : Nat) (x : W64) : W64 := x.rotateRight a ^^^ x.rotateRight b ^^^ x.rotateRight c
def shaSmall (a b c : Nat) (x : W64) : W64 := x.rotateRight a ^^^ x.rotateRight b ^^^ (x >>> c)

/-- The sixteen words of the schedule that a round uses move on by one. -/
def shaNext (w : List W64) : List W64 :=
  let at_ (i : Nat) : W64 := (w[i]?).getD 0
  w.drop 1 ++ [shaSmall 19 61 6 (at_ 14) + at_ 9 + shaSmall 1 8 7 (at_ 1) + at_ 0]

/-- One round on the eight working words. -/
def shaRound (v : List W64) (k w : W64) : List W64 :=
  match v with
  | [a, b, c, d, e, f, g, h] =>
    let t := h + shaBig 14 18 41 e + ((e &&& f) ^^^ (~~~e &&& g)) + k + w
    let u := shaBig 28 34 39 a + ((a &&& b) ^^^ (a &&& c) ^^^ (b &&& c))
    [t + u, a, b, c, d + t, e, f, g]
  | other => other

/-- The rounds of a block, and its effect on the hash value. -/
def shaRounds (v w : List W64) : List W64 → List W64
  | [] => v
  | k :: ks => shaRounds (shaRound v k (w.headD 0)) (shaNext w) ks
def shaBlock (hash : List W64) (block : List Byte) : List W64 :=
  let w := (List.range 16).map (fun i => BitVec.ofNat 64 (beNat ((block.drop (8 * i)).take 8)))
  List.zipWith (fun a b => a + b) hash (shaRounds hash w shaK)

/-- SHA-512 of a byte string: 64 bytes. -/
def sha512 (m : List Byte) : List Byte :=
  let p := shaPad m
  let hash := (List.range (p.length / 128)).foldl (fun v i => shaBlock v ((p.drop (128 * i)).take 128)) shaInit
  hash.flatMap (fun v => beBytes 8 v.toNat)

/-! ### RSASSA-PSS -/

/-- MGF1 with SHA-512: `n` bytes from a seed. -/
def mgf1 (seed : List Byte) (n : Nat) : List Byte :=
  ((List.range ((n + 63) / 64)).flatMap (fun i => sha512 (seed ++ beBytes 4 i))).take n

/-- A power modulo `n`, by the bits of the exponent from the highest of `bits` down. -/
def powMod (b e n : Nat) : Nat → Nat
  | 0 => 1 % n
  | bits + 1 =>
    let r := powMod b (e / 2) n bits
    if e % 2 == 1 then r * r % n * b % n else r * r % n

/-- The hash that a PSS encoding holds: of eight zeros, the message's hash and the salt. -/
def pssHash (m salt : List Byte) : List Byte := sha512 (zeros 8 ++ sha512 m ++ salt)

/-- Bytes combined by exclusive or, the top bit of the first cleared, since a modulus of 4,096 bits leaves 4,095. -/
def pssMask (a b : List Byte) : List Byte :=
  match List.zipWith (fun x y => x ^^^ y) a b with
  | [] => []
  | x :: rest => (x &&& 0x7F) :: rest

/-- The PSS encoding of a message with a salt of 64 bytes, 512 bytes. -/
def pssEncode (m salt : List Byte) : List Byte :=
  let h := pssHash m salt
  pssMask (zeros 382 ++ [1] ++ salt) (mgf1 h 447) ++ h ++ [0xBC]

/-- The signature of a message under a key of 4,096 bits: 512 bytes. -/
def pssSign (n d : Nat) (m salt : List Byte) : List Byte := beBytes 512 (powMod (beNat (pssEncode m salt)) d n 4096)

/-- A signature of a message verifies under a public key: the encoding that it opens to is that of the message with the salt found in it. -/
def pssVerify (n e : Nat) (m sig : List Byte) : Bool :=
  let em := beBytes 512 (powMod (beNat sig) e n 4096)
  let h := (em.drop 447).take 64
  let db := pssMask (em.take 447) (mgf1 h 447)
  sig.length == 512 && decide (beNat sig < n) && em == pssEncode m (db.drop 383)

end Sys2Proof.Machine
end

