-- ==== Sys2Proof/Machine/Registers.lean ====
section
/-! DEFINITION. Reset and firmware as far as the spec gives them, the mailbox, and writes of the registers outside the cores
(00_scope R9, 18_host R389 to R393, R398 to R401 and the field maps of the registers). -/

namespace Sys2Proof.Machine

open Sys2Proof

/-! ### HSTAT (R393) -/

/-- STAGE and ERR. -/
def State.stage (s : State) : Nat := fld s.host.hstat 3 0
def State.err (s : State) : Nat := fld s.host.hstat 23 16

/-- HSTAT is set; a change of STAGE raises MSI-X vector 1. -/
def State.setHstat (s : State) (v : W64) : State :=
  let msix := if fld v 3 0 != s.stage then s.host.msix ++ [1] else s.host.msix
  { s with host := { s.host with hstat := v, msix := msix } }

/-! ### Boot (R398, R401) -/

/-- An image is signed: the key that it carries digests to the root value, and its signature verifies under that key (R398). -/
def imageSigned (img : List Byte) : Bool :=
  let key := Config.imageKey img
  sha512 key == Config.rootDigest
    && pssVerify (Config.keyModulus key) (Config.keyExponent key) (Config.imageBody img) (Config.imageSignature img)

/-- The floor stands under its seal, or has never been raised (R398). -/
def HostSt.floorSealed (h : HostSt) : Bool :=
  match h.sealed with
  | some m => m == Config.floorMac h.floor
  | none => h.floor == 0

/-- A firmware slot that the ROM accepts. -/
def State.accepted (s : State) (i : Fin 2) : Bool :=
  let img := s.host.flash[i.val]
  !img.isEmpty && imageSigned img && s.host.floorSealed && decide (s.host.floor.toNat ≤ (Config.imageVersion img).toNat)

/-- The accepted slot of highest version. -/
def State.bestSlot (s : State) : Option (Fin 2) :=
  match s.accepted 0, s.accepted 1 with
  | true, true =>
    if (Config.imageVersion s.host.flash[0]).toNat < (Config.imageVersion s.host.flash[1]).toNat then some 1 else some 0
  | true, false => some 0
  | false, true => some 1
  | false, false => none

/-- The ROM runs the accepted slot of highest version, raises the floor to it and seals it; the next step is memory training. Without a slot
STAGE is 15 with ERR 1 (R398, R401). -/
def State.verify (s : State) : State :=
  match s.bestSlot with
  | some i =>
    let img := s.host.flash[i.val]
    let v := Config.imageVersion img
    let s := { s with host := { s.host with floor := v, sealed := some (Config.floorMac v), running := img } }
    s.setHstat (setFld (setFld (setFld s.host.hstat 63 32 v.toNat) 23 16 0) 3 0 2)
  | none => s.setHstat (setFld (setFld s.host.hstat 23 16 1) 3 0 15)

/-- MODULE_RESET (R387, R398, R401): everything is as after reset but the flash, at STAGE 0; the steps of bring-up follow. -/
def execModuleReset (s : State) : Out :=
  .next { State.reset with
    agenda := s.agenda, draws := s.draws
    host := { HostSt.reset with flash := s.host.flash, floor := s.host.floor, sealed := s.host.sealed } }

/-- The next step of bring-up (R401): after the ROM's link training the firmware is verified (STAGE 1), then LPDDR6 is trained and every
owner tag set to 15 (STAGE 2), then the Stolepel links are trained (STAGE 3), then the module is ready (STAGE 4). Training that fails gives
STAGE 15 with ERR 2; a ready or failed module has no next step. -/
def State.bringUp (s : State) (ok : Bool) : State :=
  if s.mgmt.dead then s
  else
    match s.stage with
    | 0 => s.setHstat (setFld s.host.hstat 3 0 1)
    | 1 => s.verify
    | 2 =>
      if ok then ({ s with mgmt := { s.mgmt with tags := [] } }).setHstat (setFld s.host.hstat 3 0 3)
      else s.setHstat (setFld (setFld s.host.hstat 23 16 2) 3 0 15)
    | 3 => s.setHstat (setFld s.host.hstat 3 0 4)
    | _ => s

/-- What else the outside world does (R395, R396, R401). -/
def State.outside (s : State) : Outside → State
  | .peer a => s.peerAccess a
  | .retry p n => s.countRetry p n
  | .bringUp ok => s.bringUp ok

/-- WATCHDOG_EXPIRY (R401): STAGE is 15 with ERR 3, every gang stops, and nothing is served until a reset. -/
def execWatchdogExpiry (s : State) : Out :=
  .next (
    let s := s.stopCores ((List.finRange 160).filter (fun c => (s.core c).task.isSome))
    { s.setHstat (setFld (setFld s.host.hstat 23 16 3) 3 0 15) with mgmt := { s.mgmt with dead := true } })

/-! ### The mailbox (R392, R398 to R400) -/

/-- The request as written. -/
def State.requestBytes (s : State) : List Byte := s.host.request.readN 0 (fld s.host.hdb 15 0)

/-- A request is finished: its answer stands in the answer area, DONE is set and MSI-X vector 0 raised. -/
def State.finishRequest (s : State) (answer : List Byte) : State :=
  { s with host := { s.host with
    answer := s.host.answer.writeN 0 (answer.take 4096)
    hdb := setFld s.host.hdb 62 62 1
    pending := false
    msix := s.host.msix ++ [0] } }

/-- Bits that a host write of HDB clears, and LEN. -/
def hdbWritten (old v : W64) : W64 := setFld (old &&& ~~~(v &&& 0x6000000000000000)) 15 0 (fld v 15 0)

/-- HOST_DOORBELL (R392): a host write of HDB with GO hands the request to firmware; while one is pending it is ignored and sets
BUSYW. -/
def execHostDoorbell (v : W64) (s : State) : Out :=
  .next (if !v.getLsbD 63 || s.mgmt.dead then s
    else
      let h := hdbWritten s.host.hdb v
      if s.host.pending then { s with host := { s.host with hdb := setFld h 61 61 1 } }
      else { s with host := { s.host with hdb := h, pending := true } })

/-- A request with this command number is pending. -/
def State.commanded (s : State) (n : Nat) : Bool :=
  s.host.pending && !s.mgmt.dead && Config.commandOfRequest s.requestBytes == n

/-- Firmware runs: it has been verified. -/
def State.firmwareRuns (s : State) : Bool := decide (2 ≤ s.stage) && decide (s.stage ≤ 4)

/-- The bytes of the policy digest's input (R400). -/
def State.policyBytes (s : State) : List Byte :=
  let ts := s.tenants.toList
  dwBytes (ts.map TenantSt.tcfg ++ ts.map TenantSt.tpwr ++ ts.map TenantSt.ttrap
    ++ [s.gov.gpol0Next, s.gov.gpol1Next, s.gov.mrateNext, s.gov.therm, s.host.hacc] ++ s.host.hseg.toList)

/-- Bytes 0 to 263 of the attestation report (R400). -/
def State.reportBody (s : State) (nonce : BitVec 512) : List Byte :=
  leBytes 4 0x54415452 ++ leBytes 4 1 ++ leBytes 64 nonce.toNat ++ sha512 Config.romImage ++ sha512 s.host.running ++ sha512 s.policyBytes

/-- The signature of the identity key, with a salt of 64 free bytes (R398 to R400). -/
def identitySign (body : List Byte) (draw : Nat) : List Byte :=
  pssSign Config.identityModulus Config.identityPrivate body ((List.range 64).map (fun i => Config.freeByte (draw + i)))

/-- ATTESTATION_REPORT (R400): mailbox command 0x0001, its registers read between two governor intervals. -/
def execAttestationReport (s : State) : Out :=
  .next (if s.commanded 0x0001 && s.firmwareRuns && s.time + 160000 == 160000 * s.gov.boundaries then
      let body := s.reportBody (Config.nonceOfRequest s.requestBytes)
      { s.finishRequest (body ++ identitySign body s.draws) with draws := s.draws + 64 }
    else s)

/-- IDENTITY_CERTIFICATE (R399): mailbox command 0x0002. -/
def execIdentityCertificate (s : State) : Out :=
  .next (if s.commanded 0x0002 && s.firmwareRuns then s.finishRequest Config.certificate else s)

/-- The slot of lower version; an empty one is older than any. -/
def State.olderSlot (s : State) : Fin 2 :=
  let a := s.host.flash[0]
  let b := s.host.flash[1]
  if a.isEmpty then 0
  else if b.isEmpty then 1
  else if (Config.imageVersion b).toNat < (Config.imageVersion a).toNat then 1 else 0

/-- FIRMWARE_IMAGE_WRITE (R398): mailbox command 0x00F0 writes a signed image into the older slot; after a boot without an accepted slot
the ROM verifies the slots again. -/
def execFirmwareImageWrite (s : State) : Out :=
  .next (if s.commanded 0x00F0 && (s.firmwareRuns || (s.stage == 15 && s.err == 1)) then
      let img := Config.imageOfRequest s.requestBytes
      let i := s.olderSlot
      let s := if imageSigned img then
          { s with host := { s.host with flash := s.host.flash.set i.val img i.isLt } } else s
      let s := s.finishRequest []
      if s.stage == 15 then s.verify else s
    else s)

/-! ### Register writes (R9) -/

/-- A value with only some fields kept; the others read as zero. -/
def keepFlds (v : W64) (fs : List (Nat × Nat)) : W64 := fs.foldl (fun a f => setFld a f.1 f.2 (fld v f.1 f.2)) 0

/-- A field whose zero is stored as one. -/
def oneIfZero (v : W64) (hi lo : Nat) : W64 := if fld v hi lo == 0 then setFld v hi lo 1 else v

/-- TCFG_n as stored (R343). -/
def tcfgStored (v : W64) : W64 :=
  oneIfZero (oneIfZero (keepFlds v [(63, 63), (61, 60), (59, 50), (47, 40), (39, 32), (31, 16)]) 39 32) 31 16

/-- TPWR_n as stored (R361). -/
def tpwrStored (v : W64) : W64 :=
  let v := oneIfZero (keepFlds v [(13, 12), (11, 10), (9, 9), (8, 8), (3, 0)]) 3 0
  let v := if 2 ≤ fld v 13 12 then setFld v 13 12 1 else v
  if fld v 11 10 == 3 then setFld v 11 10 2 else v

/-- A write by the management core. -/
def State.mgmtWrite (s : State) (r : Reg) (v : W64) : State :=
  match r with
  | .hstat => { s with host := { s.host with hstat := setFld (setFld s.host.hstat 9 8 (fld v 9 8)) 7 4 (fld v 7 4) } }
  | .hdb => if v.getLsbD 62 && s.host.pending then s.finishRequest [] else s
  | .hacc => { s with host := { s.host with hacc := keepFlds v [(15, 0)] } }
  | .hwbase => { s with host := { s.host with hwbase := keepFlds v [(36, 30)] } }
  | .herr => { s with host := { s.host with herr := s.host.herr &&& ~~~v } }
  | .hseg j => { s with host := { s.host with
      hseg := s.host.hseg.set j.val (keepFlds v [(63, 33), (15, 15), (14, 14), (13, 13), (11, 0)]) j.isLt } }
  | .request n => { s with host := { s.host with request := s.host.request.writeN (8 * n.val) (leBytes 8 v.toNat) } }
  | .answer n => { s with host := { s.host with answer := s.host.answer.writeN (8 * n.val) (leBytes 8 v.toNat) } }
  | .lqstat t q => s.modQueue t q (fun l => { l with
      rej := l.rej &&& ~~~(BitVec.ofNat 16 (fld v 63 48)), ovf := l.ovf &&& ~~~(BitVec.ofNat 16 (fld v 47 32)) })
  | .evcfg j => s.modStream j (fun e => { e with cfg := keepFlds v [(63, 63), (59, 56), (55, 48), (47, 8), (7, 0)] })
  | .evstat j => s.modStream j (fun e => { e with drop := e.drop &&& ~~~(BitVec.ofNat 32 (fld v 63 32)) })
  | .troot t => s.modTenant t (fun q => { q with troot := keepFlds v [(39, 12), (1, 1), (0, 0)] })
  | .fqbase t => (s.modTenant t (fun q => { q with fqbase := keepFlds v [(39, 12), (3, 0)] })).drainRecords t
  | .sqbase t => (s.modTenant t (fun q => { q with sqbase := keepFlds v [(39, 12), (3, 0)] })).moveServices t (s.tenant t).sqheld.length
  | .svbase t => s.modTenant t (fun q => { q with svbase := keepFlds v [(39, 21), (7, 0)] })
  | .tcfg t =>
    let s := s.modTenant t (fun q => { q with tcfg := tcfgStored v })
    { s with disp := { s.disp with look := true } }
  | .tpwr t => s.modTenant t (fun q => { q with tpwr := tpwrStored v })
  | .ttrap t => s.modTenant t (fun q => { q with ttrap := keepFlds v [(15, 0)] })
  | .tue t => s.modTenant t (fun q => { q with tue := v.setWidth 32 })
  | .tterm t => s.modTenant t (fun q => { q with ttermCount := q.ttermCount &&& ~~~(BitVec.ofNat 32 (fld v 63 32)) })
  | .tene t => s.modTenant t (fun q => { q with tenePj := v.toNat * 1000 })
  | .tovr t => s.modTenant t (fun q => { q with tovr := q.tovr &&& ~~~(v.setWidth 32) })
  | .mce c => { s with mgmt := { s.mgmt with mce := s.mgmt.mce.set c.val (v.setWidth 32) c.isLt } }
  | .fwue => { s with mgmt := { s.mgmt with fwue := v.setWidth 32 } }
  | .tinv => s
  | .svcmd => s
  | .sva0 => { s with mgmt := { s.mgmt with sva0 := v } }
  | .sva1 => { s with mgmt := { s.mgmt with sva1 := v } }
  | .mrate => { s with gov := { s.gov with mrateNext := keepFlds v [(15, 0)] } }
  | .gpol0 => { s with gov := { s.gov with gpol0Next := v } }
  | .gpol1 => { s with gov := { s.gov with gpol1Next := v } }
  | .gstat => { s with gov := { s.gov with
      ghalf := s.gov.ghalf &&& ~~~(BitVec.ofNat 16 (fld v 31 16)), gstop := s.gov.gstop &&& ~~~(v.setWidth 16) } }
  | .therm => { s with gov := { s.gov with therm := keepFlds v [(15, 0)] } }
  | .ipol i => s.modIsland i (fun q => { q with ipol := oneIfZero (keepFlds v [(63, 48), (47, 40), (39, 39), (38, 38)]) 47 40 })
  | .fthr i => s.modIsland i (fun q => { q with fthr := oneIfZero (keepFlds v [(15, 13), (10, 0)]) 15 13 })
  | .scrc c => { s with fabric := { s.fabric with
      drops := s.fabric.drops.set c.val (s.fabric.drops[c.val] &&& ~~~(v.setWidth 32)) c.isLt } }
  | .slnk p => { s with host := { s.host with
      slnk := s.host.slnk.set p.val (s.host.slnk[p.val] &&& ~~~(keepFlds v [(31, 16), (15, 0)])) p.isLt } }
  | .readOnly => s

/-- A write by the host: only what R389 gives it. -/
def State.hostWrites (s : State) (r : Reg) (v : W64) : State :=
  match r with
  | .hdb => if v.getLsbD 63 then s else { s with host := { s.host with hdb := hdbWritten s.host.hdb v } }
  | .herr => s.mgmtWrite .herr v
  | .request n => s.mgmtWrite (.request n) v
  | .lqstat t q => if s.hostReaches t then s.mgmtWrite (.lqstat t q) v else s
  | .hstat | .hacc | .hwbase | .hseg _ | .answer _ | .evcfg _ | .evstat _ | .troot _ | .fqbase _ | .sqbase _ | .svbase _ | .tcfg _
  | .tpwr _ | .ttrap _ | .tue _ | .tterm _ | .tene _ | .tovr _ | .mce _ | .fwue | .tinv | .svcmd | .sva0 | .sva1 | .mrate | .gpol0
  | .gpol1 | .gstat | .therm | .ipol _ | .fthr _ | .scrc _ | .slnk _ | .readOnly => s

/-- REGISTER_WRITE (R9): a write to a register without a row of its own acts by its access codes. TINV of scope 3 and SVCMD of
another ACT than 1 do nothing (R64, R320). -/
def execRegisterWrite (host : Bool) (r : Reg) (v : W64) (s : State) : Out :=
  .next (if s.mgmt.dead then s else if host then s.hostWrites r v else s.mgmtWrite r v)

end Sys2Proof.Machine
end

