-- ==== Sys2Proof/Machine/Dispatch.lean ====
section
/-! DEFINITION. The meaning of every instruction: one arm per constructor, a direct call of its meaning. -/

namespace Sys2Proof.Machine

open Sys2Proof

/-- The meaning of an instruction: of a word, for the agent that State.focus names; of a step of the device, for the
operands that name what moves. -/
def exec (i : Instr) (s : State) : Host.Outcome State Fault Refusal :=
  match i with
  | .xAdd d a b => Sys2Proof.Machine.execXAdd d a b s
  | .xSub d a b => Sys2Proof.Machine.execXSub d a b s
  | .xAnd d a b => Sys2Proof.Machine.execXAnd d a b s
  | .xOr d a b => Sys2Proof.Machine.execXOr d a b s
  | .xXor d a b => Sys2Proof.Machine.execXXor d a b s
  | .xAndn d a b => Sys2Proof.Machine.execXAndn d a b s
  | .xSll d a b => Sys2Proof.Machine.execXSll d a b s
  | .xSrl d a b => Sys2Proof.Machine.execXSrl d a b s
  | .xSra d a b => Sys2Proof.Machine.execXSra d a b s
  | .xSlt d a b => Sys2Proof.Machine.execXSlt d a b s
  | .xSltu d a b => Sys2Proof.Machine.execXSltu d a b s
  | .xSeq d a b => Sys2Proof.Machine.execXSeq d a b s
  | .xSne d a b => Sys2Proof.Machine.execXSne d a b s
  | .xMin d a b => Sys2Proof.Machine.execXMin d a b s
  | .xMax d a b => Sys2Proof.Machine.execXMax d a b s
  | .xMinu d a b => Sys2Proof.Machine.execXMinu d a b s
  | .xMaxu d a b => Sys2Proof.Machine.execXMaxu d a b s
  | .xSel d a b c => Sys2Proof.Machine.execXSel d a b c s
  | .xClz d a => Sys2Proof.Machine.execXClz d a s
  | .xCtz d a => Sys2Proof.Machine.execXCtz d a s
  | .xPopc d a => Sys2Proof.Machine.execXPopc d a s
  | .xMul d a b => Sys2Proof.Machine.execXMul d a b s
  | .xMulh d a b => Sys2Proof.Machine.execXMulh d a b s
  | .xMulhu d a b => Sys2Proof.Machine.execXMulhu d a b s
  | .xDiv d a b => Sys2Proof.Machine.execXDiv d a b s
  | .xDivu d a b => Sys2Proof.Machine.execXDivu d a b s
  | .xRem d a b => Sys2Proof.Machine.execXRem d a b s
  | .xRemu d a b => Sys2Proof.Machine.execXRemu d a b s
  | .bxp d a k => Sys2Proof.Machine.execBxp d a k s
  | .bxl a k => Sys2Proof.Machine.execBxl a k s
  | .xAddi d a imm => Sys2Proof.Machine.execXAddi d a imm s
  | .xAndi d a imm => Sys2Proof.Machine.execXAndi d a imm s
  | .xOri d a imm => Sys2Proof.Machine.execXOri d a imm s
  | .xXori d a imm => Sys2Proof.Machine.execXXori d a imm s
  | .xSlti d a imm => Sys2Proof.Machine.execXSlti d a imm s
  | .xSltiu d a imm => Sys2Proof.Machine.execXSltiu d a imm s
  | .xLui d imm => Sys2Proof.Machine.execXLui d imm s
  | .xSlli d a n => Sys2Proof.Machine.execXSlli d a n s
  | .xSrli d a n => Sys2Proof.Machine.execXSrli d a n s
  | .xSrai d a n => Sys2Proof.Machine.execXSrai d a n s
  | .xBeq a b off => Sys2Proof.Machine.execXBeq a b off s
  | .xBne a b off => Sys2Proof.Machine.execXBne a b off s
  | .xBlt a b off => Sys2Proof.Machine.execXBlt a b off s
  | .xBge a b off => Sys2Proof.Machine.execXBge a b off s
  | .xBltu a b off => Sys2Proof.Machine.execXBltu a b off s
  | .xBgeu a b off => Sys2Proof.Machine.execXBgeu a b off s
  | .xJ off => Sys2Proof.Machine.execXJ off s
  | .call off => Sys2Proof.Machine.execCall off s
  | .jr a imm => Sys2Proof.Machine.execJr a imm s
  | .callr d a => Sys2Proof.Machine.execCallr d a s
  | .ldD o => Sys2Proof.Machine.execLdD o s
  | .ldW o => Sys2Proof.Machine.execLdW o s
  | .ldWu o => Sys2Proof.Machine.execLdWu o s
  | .ldH o => Sys2Proof.Machine.execLdH o s
  | .ldHu o => Sys2Proof.Machine.execLdHu o s
  | .ldB o => Sys2Proof.Machine.execLdB o s
  | .ldBu o => Sys2Proof.Machine.execLdBu o s
  | .stD o => Sys2Proof.Machine.execStD o s
  | .stW o => Sys2Proof.Machine.execStW o s
  | .stH o => Sys2Proof.Machine.execStH o s
  | .stB o => Sys2Proof.Machine.execStB o s
  | .fence scope => Sys2Proof.Machine.execFence scope s
  | .xPushValue a p => Sys2Proof.Machine.execXPushValue a p s
  | .xPushBare p => Sys2Proof.Machine.execXPushBare p s
  | .xPopValue d p => Sys2Proof.Machine.execXPopValue d p s
  | .xPopBare p => Sys2Proof.Machine.execXPopBare p s
  | .xSema k n => Sys2Proof.Machine.execXSema k n s
  | .xSemv k n => Sys2Proof.Machine.execXSemv k n s
  | .barr a => Sys2Proof.Machine.execBarr a s
  | .bexp a b => Sys2Proof.Machine.execBexp a b s
  | .bwait a b k => Sys2Proof.Machine.execBwait a b k s
  | .msend d a b => Sys2Proof.Machine.execMsend d a b s
  | .hend => Sys2Proof.Machine.execHend s
  | .launch a q => Sys2Proof.Machine.execLaunch a q s
  | .rsys d k => Sys2Proof.Machine.execRsys d k s
  | .wsys a k => Sys2Proof.Machine.execWsys a k s
  | .sys k => Sys2Proof.Machine.execSys k s
  | .tret => Sys2Proof.Machine.execTret s
  | .xEnd => Sys2Proof.Machine.execXEnd s
  | .xNop => Sys2Proof.Machine.execXNop s
  | .lsAddi d a imm t => Sys2Proof.Machine.execLsAddi d a imm t s
  | .lsAdd d a b t => Sys2Proof.Machine.execLsAdd d a b t s
  | .lsSub d a b t => Sys2Proof.Machine.execLsSub d a b t s
  | .lsMul d a b t => Sys2Proof.Machine.execLsMul d a b t s
  | .lsAnd d a b t => Sys2Proof.Machine.execLsAnd d a b t s
  | .lsOr d a b t => Sys2Proof.Machine.execLsOr d a b t s
  | .lsXor d a b t => Sys2Proof.Machine.execLsXor d a b t s
  | .lsSll d a b t => Sys2Proof.Machine.execLsSll d a b t s
  | .lsSrl d a b t => Sys2Proof.Machine.execLsSrl d a b t s
  | .li d imm t => Sys2Proof.Machine.execLi d imm t s
  | .lih d imm t => Sys2Proof.Machine.execLih d imm t s
  | .shli d a n t => Sys2Proof.Machine.execShli d a n t s
  | .shri d a n t => Sys2Proof.Machine.execShri d a n t s
  | .lset a k t => Sys2Proof.Machine.execLset a k t s
  | .lnext k off t => Sys2Proof.Machine.execLnext k off t s
  | .bz a off t => Sys2Proof.Machine.execBz a off t s
  | .bnz a off t => Sys2Proof.Machine.execBnz a off t s
  | .lsJ off t => Sys2Proof.Machine.execLsJ off t s
  | .qpopValue d p t => Sys2Proof.Machine.execQpopValue d p t s
  | .qpopBare p t => Sys2Proof.Machine.execQpopBare p t s
  | .qpushValue a p t => Sys2Proof.Machine.execQpushValue a p t s
  | .qpushBare p t => Sys2Proof.Machine.execQpushBare p t s
  | .hset h a k t => Sys2Proof.Machine.execHset h a k t s
  | .lCopy o => Sys2Proof.Machine.execLCopy o s
  | .copyO h w r hint bar t => Sys2Proof.Machine.execCopyO h w r hint bar t s
  | .copyPk o c => Sys2Proof.Machine.execCopyPk o c s
  | .copyUk o c => Sys2Proof.Machine.execCopyUk o c s
  | .gather o => Sys2Proof.Machine.execGather o s
  | .prefetch h a hint t => Sys2Proof.Machine.execPrefetch h a hint t s
  | .lOpen w a hint t => Sys2Proof.Machine.execLOpen w a hint t s
  | .lClose w t => Sys2Proof.Machine.execLClose w t s
  | .wcopy o => Sys2Proof.Machine.execWcopy o s
  | .scatter o => Sys2Proof.Machine.execScatter o s
  | .put h w a hint t => Sys2Proof.Machine.execPut h w a hint t s
  | .acopy h w a hint op fmt t => Sys2Proof.Machine.execAcopy h w a hint op fmt t s
  | .wwait a w t => Sys2Proof.Machine.execWwait a w t s
  | .wget a w t => Sys2Proof.Machine.execWget a w t s
  | .wreset w t => Sys2Proof.Machine.execWreset w t s
  | .lsSema k n t => Sys2Proof.Machine.execLsSema k n t s
  | .lsSemv k n t => Sys2Proof.Machine.execLsSemv k n t s
  | .atom32 o => Sys2Proof.Machine.execAtom32 o s
  | .atom64 o => Sys2Proof.Machine.execAtom64 o s
  | .lsNop t => Sys2Proof.Machine.execLsNop t s
  | .lsEnd t => Sys2Proof.Machine.execLsEnd t s
  | .fadd o => Sys2Proof.Machine.execFadd o s
  | .fsub o => Sys2Proof.Machine.execFsub o s
  | .fmul o => Sys2Proof.Machine.execFmul o s
  | .fdiv o => Sys2Proof.Machine.execFdiv o s
  | .fmin o => Sys2Proof.Machine.execFmin o s
  | .fmax o => Sys2Proof.Machine.execFmax o s
  | .fma o => Sys2Proof.Machine.execFma o s
  | .fms o => Sys2Proof.Machine.execFms o s
  | .fnma o => Sys2Proof.Machine.execFnma o s
  | .fnms o => Sys2Proof.Machine.execFnms o s
  | .cAdd o => Sys2Proof.Machine.execCAdd o s
  | .cSub o => Sys2Proof.Machine.execCSub o s
  | .cMul o => Sys2Proof.Machine.execCMul o s
  | .cMulh o => Sys2Proof.Machine.execCMulh o s
  | .cMin o => Sys2Proof.Machine.execCMin o s
  | .cMax o => Sys2Proof.Machine.execCMax o s
  | .cAnd o => Sys2Proof.Machine.execCAnd o s
  | .cOr o => Sys2Proof.Machine.execCOr o s
  | .cXor o => Sys2Proof.Machine.execCXor o s
  | .cShl o => Sys2Proof.Machine.execCShl o s
  | .cShr o => Sys2Proof.Machine.execCShr o s
  | .cmp cond k a b g => Sys2Proof.Machine.execCmp cond k a b g s
  | .cSel d a b k => Sys2Proof.Machine.execCSel d a b k s
  | .cMov o => Sys2Proof.Machine.execCMov o s
  | .fabs o => Sys2Proof.Machine.execFabs o s
  | .fneg o => Sys2Proof.Machine.execFneg o s
  | .fsqrt o => Sys2Proof.Machine.execFsqrt o s
  | .frcp o => Sys2Proof.Machine.execFrcp o s
  | .frsqrt o => Sys2Proof.Machine.execFrsqrt o s
  | .fexp2 o => Sys2Proof.Machine.execFexp2 o s
  | .flog2 o => Sys2Proof.Machine.execFlog2 o s
  | .ftanh o => Sys2Proof.Machine.execFtanh o s
  | .cAbs o => Sys2Proof.Machine.execCAbs o s
  | .cNeg o => Sys2Proof.Machine.execCNeg o s
  | .cNot o => Sys2Proof.Machine.execCNot o s
  | .cClz o => Sys2Proof.Machine.execCClz o s
  | .cPopc o => Sys2Proof.Machine.execCPopc o s
  | .cvt o fmt rnd => Sys2Proof.Machine.execCvt o fmt rnd s
  | .cvta o fmt j sat => Sys2Proof.Machine.execCvta o fmt j sat s
  | .rot o ax n => Sys2Proof.Machine.execRot o ax n s
  | .bcast o ax n => Sys2Proof.Machine.execBcast o ax n s
  | .red o ax op => Sys2Proof.Machine.execRed o ax op s
  | .xpose o => Sys2Proof.Machine.execXpose o s
  | .vbx o k => Sys2Proof.Machine.execVbx o k s
  | .vbxl a k g => Sys2Proof.Machine.execVbxl a k g s
  | .treemask k a g => Sys2Proof.Machine.execTreemask k a g s
  | .vld d p m => Sys2Proof.Machine.execVld d p m s
  | .vst p a g => Sys2Proof.Machine.execVst p a g s
  | .pcfg p a g => Sys2Proof.Machine.execPcfg p a g s
  | .shape rows cols fmt => Sys2Proof.Machine.execShape rows cols fmt s
  | .cloop off => Sys2Proof.Machine.execCloop off s
  | .rtag d k g => Sys2Proof.Machine.execRtag d k g s
  | .rdrop d g => Sys2Proof.Machine.execRdrop d g s
  | .rstat d a g => Sys2Proof.Machine.execRstat d a g s
  | .ctok val t => Sys2Proof.Machine.execCtok val t s
  | .cNop => Sys2Proof.Machine.execCNop s
  | .cEnd => Sys2Proof.Machine.execCEnd s
  | .cSema k n g => Sys2Proof.Machine.execCSema k n g s
  | .cSemv k n g => Sys2Proof.Machine.execCSemv k n g s
  | .fcsR d g => Sys2Proof.Machine.execFcsR d g s
  | .fcsW a g => Sys2Proof.Machine.execFcsW a g s
  | .tld tile d q st t => Sys2Proof.Machine.execTld tile d q st t s
  | .tst tile a q st t => Sys2Proof.Machine.execTst tile a q st t s
  | .tzero tile st t => Sys2Proof.Machine.execTzero tile st t s
  | .tscale tile st a t => Sys2Proof.Machine.execTscale tile st a t s
  | .tsave tile st fmt off t => Sys2Proof.Machine.execTsave tile st fmt off t s
  | .tload tile st fmt off t => Sys2Proof.Machine.execTload tile st fmt off t s
  | .draw tile st mask d t => Sys2Proof.Machine.execDraw tile st mask d t s
  | .mmaFp4 o => Sys2Proof.Machine.execMmaFp4 o s
  | .mmaI4 o => Sys2Proof.Machine.execMmaI4 o s
  | .mmaN4 o => Sys2Proof.Machine.execMmaN4 o s
  | .mmaE4m3 o => Sys2Proof.Machine.execMmaE4m3 o s
  | .mmaE5m2 o => Sys2Proof.Machine.execMmaE5m2 o s
  | .mmaI8 o => Sys2Proof.Machine.execMmaI8 o s
  | .mmaN8 o => Sys2Proof.Machine.execMmaN8 o s
  | .mmaBf16 o => Sys2Proof.Machine.execMmaBf16 o s
  | .mmaFp16 o => Sys2Proof.Machine.execMmaFp16 o s
  | .mmazFp4 o => Sys2Proof.Machine.execMmazFp4 o s
  | .mmazI4 o => Sys2Proof.Machine.execMmazI4 o s
  | .mmazN4 o => Sys2Proof.Machine.execMmazN4 o s
  | .mmazE4m3 o => Sys2Proof.Machine.execMmazE4m3 o s
  | .mmazE5m2 o => Sys2Proof.Machine.execMmazE5m2 o s
  | .mmazI8 o => Sys2Proof.Machine.execMmazI8 o s
  | .mmazN8 o => Sys2Proof.Machine.execMmazN8 o s
  | .mmazBf16 o => Sys2Proof.Machine.execMmazBf16 o s
  | .mmazFp16 o => Sys2Proof.Machine.execMmazFp16 o s
  | .matrixWordStart c u => Sys2Proof.Machine.execMatrixWordStart c u s
  | .matrixWordCompletion c n => Sys2Proof.Machine.execMatrixWordCompletion c n s
  | .drawCompletion c n => Sys2Proof.Machine.execDrawCompletion c n s
  | .bankPowerUp c bank => Sys2Proof.Machine.execBankPowerUp c bank s
  | .moduleReset => Sys2Proof.Machine.execModuleReset s
  | .watchdogExpiry => Sys2Proof.Machine.execWatchdogExpiry s
  | .hostDoorbell v => Sys2Proof.Machine.execHostDoorbell v s
  | .attestationReport => Sys2Proof.Machine.execAttestationReport s
  | .identityCertificate => Sys2Proof.Machine.execIdentityCertificate s
  | .firmwareImageWrite => Sys2Proof.Machine.execFirmwareImageWrite s
  | .lqsub host t q v => Sys2Proof.Machine.execLqsub host t q v s
  | .ingressRecordWrite j v full => Sys2Proof.Machine.execIngressRecordWrite j v full s
  | .ingressFlushTimeout j => Sys2Proof.Machine.execIngressFlushTimeout j s
  | .hostBar2Access off acc e => Sys2Proof.Machine.execHostBar2Access off acc e s
  | .pcieLinkDown => Sys2Proof.Machine.execPcieLinkDown s
  | .hostCompletion tag st => Sys2Proof.Machine.execHostCompletion tag st s
  | .completionTimeout tag => Sys2Proof.Machine.execCompletionTimeout tag s
  | .stolepelLinkDown p cut => Sys2Proof.Machine.execStolepelLinkDown p cut s
  | .stolepelLinkUp p peer lanes seen => Sys2Proof.Machine.execStolepelLinkUp p peer lanes seen s
  | .launchForward m => Sys2Proof.Machine.execLaunchForward m s
  | .taskCompletionReport m => Sys2Proof.Machine.execTaskCompletionReport m s
  | .tinvPage v => Sys2Proof.Machine.execTinvPage v s
  | .tinvTenant v => Sys2Proof.Machine.execTinvTenant v s
  | .tinvAll v => Sys2Proof.Machine.execTinvAll v s
  | .tinvCompletion => Sys2Proof.Machine.execTinvCompletion s
  | .owncmd v => Sys2Proof.Machine.execOwncmd v s
  | .ownerChangeCompletion => Sys2Proof.Machine.execOwnerChangeCompletion s
  | .resumeReplay v => Sys2Proof.Machine.execResumeReplay v s
  | .resumeKill v => Sys2Proof.Machine.execResumeKill v s
  | .resumeNoAction v => Sys2Proof.Machine.execResumeNoAction v s
  | .svcmdDeliver v => Sys2Proof.Machine.execSvcmdDeliver v s
  | .serviceAnswerArrival c x => Sys2Proof.Machine.execServiceAnswerArrival c x s
  | .ifreq isl v => Sys2Proof.Machine.execIfreq isl v s
  | .fqheadWrite t v => Sys2Proof.Machine.execFqheadWrite t v s
  | .sqheadWrite t v => Sys2Proof.Machine.execSqheadWrite t v s
  | .registerWrite host r v => Sys2Proof.Machine.execRegisterWrite host r v s
  | .governorIntervalBoundary => Sys2Proof.Machine.execGovernorIntervalBoundary s
  | .loweringDue isl => Sys2Proof.Machine.execLoweringDue isl s
  | .energyTick rail oh emod temps => Sys2Proof.Machine.execEnergyTick rail oh emod temps s
  | .rampTick slope => Sys2Proof.Machine.execRampTick slope s
  | .droopTrip isl => Sys2Proof.Machine.execDroopTrip isl s
  | .overcurrent isl ma => Sys2Proof.Machine.execOvercurrent isl ma s
  | .thermalCritical isl temp => Sys2Proof.Machine.execThermalCritical isl temp s
  | .thermalRecovery isl temp => Sys2Proof.Machine.execThermalRecovery isl temp s
  | .throttleWindowClose => Sys2Proof.Machine.execThrottleWindowClose s
  | .flitInjection r => Sys2Proof.Machine.execFlitInjection r s
  | .flitRouting drops => Sys2Proof.Machine.execFlitRouting drops s
  | .creditReturn r n => Sys2Proof.Machine.execCreditReturn r n s
  | .creditExpiry r n => Sys2Proof.Machine.execCreditExpiry r n s
  | .lossNotice c n => Sys2Proof.Machine.execLossNotice c n s
  | .readRequest isl n => Sys2Proof.Machine.execReadRequest isl n s
  | .multicastWindowClose isl n => Sys2Proof.Machine.execMulticastWindowClose isl n s
  | .lineFill isl n e => Sys2Proof.Machine.execLineFill isl n e s
  | .sectorLanding c n => Sys2Proof.Machine.execSectorLanding c n s
  | .sectorWrite isl n e => Sys2Proof.Machine.execSectorWrite isl n e s
  | .writeAcknowledgement c n => Sys2Proof.Machine.execWriteAcknowledgement c n s
  | .atomicRequest r n e => Sys2Proof.Machine.execAtomicRequest r n e s
  | .atomicReply c n => Sys2Proof.Machine.execAtomicReply c n s
  | .accumulateWrite isl n e => Sys2Proof.Machine.execAccumulateWrite isl n e s
  | .putSectorArrival c n => Sys2Proof.Machine.execPutSectorArrival c n s
  | .putAcknowledgement c n => Sys2Proof.Machine.execPutAcknowledgement c n s
  | .putRefusal c n => Sys2Proof.Machine.execPutRefusal c n s
  | .putResendDelay c id idx => Sys2Proof.Machine.execPutResendDelay c id idx s
  | .putRefusalLimit c id idx => Sys2Proof.Machine.execPutRefusalLimit c id idx s
  | .pageWalkCompletion isl n bad => Sys2Proof.Machine.execPageWalkCompletion isl n bad s
  | .copyPark c id => Sys2Proof.Machine.execCopyPark c id s
  | .barrierArrival isl n e => Sys2Proof.Machine.execBarrierArrival isl n e s
  | .byteDeclaration isl n e => Sys2Proof.Machine.execByteDeclaration isl n e s
  | .byteReport isl n e => Sys2Proof.Machine.execByteReport isl n e s
  | .registration isl n e => Sys2Proof.Machine.execRegistration isl n e s
  | .wakeUp c n => Sys2Proof.Machine.execWakeUp c n s
  | .messageArrival c n => Sys2Proof.Machine.execMessageArrival c n s
  | .messageResend c x => Sys2Proof.Machine.execMessageResend c x s
  | .handlerStart c => Sys2Proof.Machine.execHandlerStart c s
  | .watermarkStallLimit c a => Sys2Proof.Machine.execWatermarkStallLimit c a s
  | .queueDeadlock c => Sys2Proof.Machine.execQueueDeadlock c s
  | .trapEntry c => Sys2Proof.Machine.execTrapEntry c s
  | .sliceExpiry g => Sys2Proof.Machine.execSliceExpiry g s
  | .preemption g => Sys2Proof.Machine.execPreemption g s
  | .taskCompletion c => Sys2Proof.Machine.execTaskCompletion c s
  | .pcieLinkUp => Sys2Proof.Machine.execPcieLinkUp s
  | .loadValueReturn c n => Sys2Proof.Machine.execLoadValueReturn c n s
  | .messageAcceptance c n => Sys2Proof.Machine.execMessageAcceptance c n s
  | .barrierAcknowledgement c n => Sys2Proof.Machine.execBarrierAcknowledgement c n s
  | .fetchAhead c a off => Sys2Proof.Machine.execFetchAhead c a off s
  | .droopClear isl => Sys2Proof.Machine.execDroopClear isl s
  | .currentLimitClear isl ma => Sys2Proof.Machine.execCurrentLimitClear isl ma s

end Sys2Proof.Machine
end

