-- ==== Sys2Proof/Machine/Issue.lean ====
section
/-! DEFINITION. The issue of a word by an agent of a core: pending traps, decoding, execution (02_words R32, R43, R48,
17_traps R369 to R373, R380). Step.lean calls it. -/

namespace Sys2Proof.Machine

open Sys2Proof

/-! ### Words of X, L and S -/

/-- The words at which a strict mark is taken (R380). -/
def isSyncWord (i : Instr) (ctx0 : Bool) : Bool :=
  match i with
  | .ldD o | .ldW o | .ldWu o | .ldH o | .ldHu o | .ldB o | .ldBu o => o.ord.isSome
  | .stD o | .stW o | .stH o | .stB o => o.ord.isSome
  | .fence _ | .xPopValue _ _ | .xPopBare _ | .xSema _ _ | .barr _ | .bwait _ _ _ | .msend _ _ _ | .launch _ _ | .sys _ => true
  | .xEnd => ctx0
  | _ => false

/-- The strict mark of the core is taken at this word (R380). -/
def State.strictAt (s : State) (c : CoreId) (a : Agent) (i : Instr) : Option Nat :=
  let k := s.core c
  match a with
  | .x x => if !k.trap.hmode && isSyncWord i (x == 0) then k.trap.strict else none
  | .l => none
  | .c => none
  | .s => none

/-- The word has trapped: the core takes a trap that it did not take before. -/
def Core.trapsNow (k k' : Core) : Bool :=
  k'.trap.halt.isSome || (k'.trap.hmode && !k.trap.hmode) || k'.trap.stop

/-- A decoded instruction of the agent in focus runs: its meaning, unless a strict mark is taken at it, which gives way to a trap of the
word itself and stays pending then (R370). -/
def State.runWord (s : State) (c : CoreId) (a : Agent) (i : Instr) : Out :=
  match s.strictAt c a i with
  | some va =>
    match exec i s with
    | .next t =>
      if (s.core c).trapsNow (t.core c) then .next t
      else
        .next ((s.modCore c (fun k => { k with trap := { k.trap with strict := none } })).raise c a causeStrict 0x30
          (BitVec.ofNat 64 va))
    | .fault f => .fault f
    | .refused r => .refused r
  | none => exec i s

/-- The agent waits for something that no trap limits. -/
def State.agentWait (s : State) (c : CoreId) (a : Agent) : State := s.modCore c (fun k => k.setWait a (some .other))

/-- The next word of X, L or S. -/
def State.issueWord (s : State) (c : CoreId) (a : Agent) : Out :=
  let r := s.fetchWord c a ((s.core c).pc a).toNat
  let s := r.1
  match r.2 with
  | .wait => .next (s.agentWait c a)
  | .outside => .next (s.raise c a causeIllegal 0 0)
  | .fault code va => .next (s.raise c a causeTranslation code (BitVec.ofNat 64 va))
  | .word w =>
    match decodeWord (agentSect a).2 w.toNat with
    | .error _ => .next (s.raise c a causeIllegal 0 0)
    | .ok (_, i) => s.runWord c a i

/-! ### Bundles of C (R43) -/

/-- The words of a bundle are fetched in order: a wait or a trap of one of them is the bundle's; else its instructions, or
none when it is no legal bundle. -/
def State.fetchBundle (s : State) (c : CoreId) : Nat → Nat → State × Except FetchRes (List Instr)
  | 0, _ => (s, .error .outside)
  | fuel + 1, off =>
    let r := s.fetchWord c .c off
    match r.2 with
    | .word w =>
      match decodeC w.toNat with
      | .error _ => (r.1, .error .outside)
      | .ok (false, i) => (r.1, .ok [i])
      | .ok (true, i) =>
        let q := r.1.fetchBundle c fuel (off + 4)
        match q.2 with
        | .ok is => (q.1, .ok (i :: is))
        | .error e => (q.1, .error e)
    | .wait => (r.1, .error .wait)
    | .outside => (r.1, .error .outside)
    | .fault code va => (r.1, .error (.fault code va))

/-- A fetched bundle runs: a word alone has its meaning; several words issue together. -/
def State.runBundle (s : State) (is : List Instr) : Out :=
  match is with
  | [i] => exec i s
  | _ => .next (s.cBundle (is.filterMap planOf))

/-- The next bundle of C. -/
def State.issueBundle (s : State) (c : CoreId) : Out :=
  let r := s.fetchBundle c 3 ((s.core c).pc .c).toNat
  let s := r.1
  match r.2 with
  | .error .wait => .next (s.agentWait c .c)
  | .error .outside => .next (s.raise c .c causeIllegal 0 0)
  | .error (.fault code va) => .next (s.raise c .c causeTranslation code (BitVec.ofNat 64 va))
  | .error (.word _) => .next s
  | .ok is => if bundleLegal is then s.runBundle is else .next (s.raise c .c causeIllegal 0 0)

/-! ### Issue -/

/-- A pending throttle warning is taken before a word issues (R370, R372, R373): without a handler it is discarded. -/
def State.takeWarning (s : State) (c : CoreId) : Option State :=
  let k := s.core c
  match k.trap.warn with
  | none => none
  | some (p, due) =>
    if k.trap.hmode then none
    else
      let s := s.modCore c (fun k => { k with trap := { k.trap with warn := none } })
      if k.hidx == noHandler then none else some (s.raise c (.x 0) causeThrottle (p + 16 * due) 0)

/-- L or S takes no new word: it reads on for a live copy, or holds pushes at a full queue (R37, R38). -/
def State.lsBusy (s : State) (c : CoreId) (isS : Bool) : Option State :=
  let k := s.core c
  let a : Agent := if isS then .s else .l
  if (k.ls isS).reading.isSome then some s
  else if (k.holdsPush isS).isEmpty then none
  else some (s.modCore c (fun k => k.setWait a (some (.push (k.holdsPush isS)))))

/-- After an issue: a word that issued restarts the deadlock count (R379), and the core settles. -/
def State.afterIssue (s : State) (c : CoreId) (a : Agent) : State :=
  let s := if ((s.core c).waitOf a).isNone then s.modCore c (fun k => { k with trap := { k.trap with idle := 0 } }) else s
  s.settle c

/-- An agent that may issue takes its next word. -/
def State.issueNow (s : State) (c : CoreId) (a : Agent) : Out :=
  let s := { s with focus := (c, a) }
  let word (o : Out) : Out :=
    match o with
    | .next t => .next (t.afterIssue c a)
    | .fault f => .fault f
    | .refused r => .refused r
  match a with
  | .x _ => word (s.issueWord c a)
  | .l =>
    match s.lsBusy c false with
    | some t => .next (t.settle c)
    | none => word (s.issueWord c a)
  | .s =>
    match s.lsBusy c true with
    | some t => .next (t.settle c)
    | none => word (s.issueWord c a)
  | .c =>
    if (s.core c).cHolds.isEmpty then word (s.issueBundle c)
    else .next ((s.modCore c (fun k => k.setWait .c (some (.push k.cHolds)))).settle c)

/-- No sequencer issues: the module guard has stopped issue (16_energy R357), or the step of an interval boundary is not
yet whole (R349). -/
def State.issueStopped (s : State) : Bool := s.gov.guard == 3 || !s.gov.lowering.isEmpty

/-- An agent's turn: nothing when its core issues nothing; a pending throttle warning, which gives way to a trap of the word itself and
stays pending then (R370); else its next word. -/
def State.issue (s : State) (c : CoreId) (a : Agent) : Out :=
  if !(s.core c).mayIssue a || s.issueStopped then .next s
  else
    match s.takeWarning c with
    | some t =>
      match s.issueNow c a with
      | .next u => if (s.core c).trapsNow (u.core c) then .next u else .next t
      | .fault f => .fault f
      | .refused r => .refused r
    | none =>
      (s.modCore c (fun k => if k.hidx == noHandler then { k with trap := { k.trap with warn := none } } else k)).issueNow c a

end Sys2Proof.Machine
end

