-- ==== Sys2Proof/Machine/Turns.lean ====
section
/-! DEFINITION. Turns of the agenda, what follows a turn, and the placement of one instruction where the next step fetches it (log 1,
log 22). Step.lean calls them. -/

namespace Sys2Proof.Machine

open Sys2Proof

/-- A turn of the agenda, oldest first, or a free turn; and the state without it (log 1). -/
def State.nextTurn (s : State) : Turn × State :=
  match s.agenda with
  | t :: rest => (t, { s with agenda := rest })
  | [] => (Config.freeTurn s.draws, { s with draws := s.draws + 1 })

/-- A turn: an agent issues, or a step of the device happens. -/
def State.takeTurn (s : State) (t : Turn) : Out :=
  match t with
  | .issue c a => s.issue c a
  | .event i => if !i.isWord && i.wf then exec i s else .fault .malformedTurn
  | .upset e => .next { s with upset := e }
  | .outside o => .next (s.outside o)

/-- What moves next: a lowering that is due at the boundary just taken, which is one step with it (16_energy R349, R360); else the next
turn. -/
def State.move (s : State) : Out :=
  match s.gov.lowering with
  | l :: _ => execLoweringDue l.1 s
  | [] => s.nextTurn.2.takeTurn s.nextTurn.1

/-- The dispatcher's step is due and may run: boundary 0 has been taken, the step of a boundary is whole, and the management core
serves (15_dispatch R335, 16_energy R349, 18_host R401). -/
def State.mayDispatch (s : State) : Bool :=
  (s.disp.due || s.disp.look) && decide (0 < s.gov.boundaries) && s.gov.lowering.isEmpty && !s.mgmt.dead

/-- Steps of the dispatcher while one is due: a claim that clears in a step makes another one due (R335, R337). -/
def State.dispatches (s : State) : Nat → State
  | 0 => s
  | fuel + 1 => if s.mayDispatch then s.dispatch.dispatches fuel else s

/-- What the turn has given the dispatcher to do is done at once; a kernel clears one claim at most in a step. -/
def State.afterTurn (s : State) : State := s.dispatches 64

/-! ### Placing an instruction -/

/-- The agent that runs a section's words. -/
def sectAgent : Sect → Agent
  | .scalar => .x 0
  | .load => .l
  | .compute => .c
  | .store => .s

/-- A resident task for a core that holds none (log 22). -/
def placedTask : Task :=
  { tenant := 0, cls := 0, gang := 0, member := 0, size := 1, image := 0, imageSize := 0, variant := 0, serial := 0
    sects := [], hidx := noHandler }

/-- The core with a word already fetched at the pc of an agent, which is free to issue. -/
def Core.placeWord (k : Core) (a : Agent) (w : W32) : Core :=
  let i := (agentSect a).1
  let off := (k.pc a).toNat / 4 * 4
  let t := k.task.getD placedTask
  let pool := if k.task.isSome then k.pool else { k.pool with rfb := 512, spb := 1024, l1b := 1536 }
  let k := { k with
    pool := pool
    task := some { t with sects := List.replicate 4 (0, off + 4) }
    fetched := { sect := i, off := off, word := w } :: k.fetched.filter (fun f => !(f.sect == i && f.off == off))
    trap := { k.trap with halt := none, hmode := false, warn := none, strict := none, stop := false } }
  match a with
  | .x x => k.setCtx x { k.ctx x with run := .runnable, pc := BitVec.ofNat 64 off, op := none, fault := none }
  | .l => { k with seqs := { k.seqs with
      l := { k.seqs.l with ended := false, pc := BitVec.ofNat 64 off, popped := false, reading := none, pend := [], fault := none } } }
  | .s => { k with seqs := { k.seqs with
      s := { k.seqs.s with ended := false, pc := BitVec.ofNat 64 off, popped := false, reading := none, pend := [], fault := none } } }
  | .c => { k with seqs := { k.seqs with
      c := { k.seqs.c with ended := false, pc := BitVec.ofNat 64 off, popped := false, ret := [], fault := none } } }

/-- The instruction of an opcode-table word placed where the next step fetches its next instruction: core 0's agent for
the first section that accepts the word (log 10), X0 when none does, that agent's turn comes first, and nothing stops issue (log 22). -/
def State.placeFetch (s : State) (nbits w : Nat) : State :=
  let w := w % 2 ^ nbits
  let a := match firstSection w with
    | some r => sectAgent r.1
    | none => .x 0
  let s := s.modCore 0 (fun k => k.placeWord a (BitVec.ofNat 32 w))
  { s with agenda := .issue 0 a :: s.agenda, gov := { s.gov with guard := 0, lowering := [] } }

end Sys2Proof.Machine
end

