-- ==== Sys2Proof/Machine/Step.lean ====
section
/-! DEFINITION. One step of the machine: a lowering that is due, else the next turn of the agenda or a free one (log 1), is taken; then the
dispatcher does what the turn has given it to do. And the placement of one instruction where the next step fetches it (log 22). -/

namespace Sys2Proof.Machine

open Sys2Proof

/-- One step. -/
def step (s : State) : Host.Outcome State Fault Refusal :=
  match s.move with
  | .next t => .next t.afterTurn
  | .fault f => .fault f
  | .refused r => .refused r

/-- An opcode-table word placed where the next step fetches its next instruction (log 22). -/
def State.withFetchWord (s : State) (nbits w : Nat) : State := s.placeFetch nbits w

end Sys2Proof.Machine
end

