-- ==== Sys2Proof/Machine/Reads.lean ====
section
/-! DEFINITION. What a read of a register outside the cores returns, to the management core and to the host through BAR0 (00_scope R9,
18_host R389, R391 and the field maps of the registers). -/

namespace Sys2Proof.Machine

open Sys2Proof

/-- The registers outside the cores: those that REGISTER_WRITE reaches, those whose writes are rows of their own, and those that are
only read. -/
inductive RReg where
  | plain (r : Reg)
  | lqsub (t : Tenant) (q : Fin 4)
  | fqhead (t : Tenant)
  | fqtail (t : Tenant)
  | sqhead (t : Tenant)
  | sqtail (t : Tenant)
  | owncmd | resume
  | ifreq (i : IslandId)
  | ipwr (i : IslandId)
  | ibal (i : IslandId)
  | istat (i : IslandId)
  deriving DecidableEq, Repr

/-- The kernel that a queue is to start gangs of: its head (15_dispatch R328, R333). -/
def State.queueHead (s : State) (t : Tenant) (q : Fin 4) : Option Kernel :=
  let ks := s.disp.kernels.filter (fun k => k.tenant == t && k.queue == q.val && k.pending)
  (oldestKernel (ks.filter (fun k => decide (0 < k.started)))).or (oldestKernel (ks.filter Kernel.ready))

/-- LQSTAT_n,q: REJ, OVF, SKIP of the head kernel, CNT (15_dispatch R328). -/
def State.lqstat (s : State) (t : Tenant) (q : Fin 4) : W64 :=
  let v := (s.tenant t).queues[q.val]
  let skip := ((s.queueHead t q).map Kernel.skip).getD 0
  BitVec.ofNat 64 (v.rej.toNat * 2 ^ 48 + v.ovf.toNat * 2 ^ 32 + skip % 256 * 2 ^ 16 + v.recs.length % 64)

/-- GSTAT: MSH, OH, GHALF, GSTOP (16_energy R351). -/
def Gov.gstat (g : Gov) : W64 :=
  BitVec.ofNat 64 (g.msh % 256 * 2 ^ 56 + g.oh % 65536 * 2 ^ 40 + g.ghalf.toNat * 2 ^ 16 + g.gstop.toNat)

/-- EVSTAT_j: DROP, SENT (12_sync R279). -/
def Stream.evstat (v : Stream) : W64 := BitVec.ofNat 64 (v.drop.toNat * 2 ^ 32 + v.sent.toNat)

/-- A doubleword of a mailbox area. -/
def areaWord (m : Mem) (n : Nat) : W64 := BitVec.ofNat 64 (leNat (m.readN (8 * n) 8))

/-- What a read of a register that REGISTER_WRITE reaches returns: write-only fields and reserved ones read as zero, the others as they
stand; the governor's policies read as last written (R9, 16_energy R348, R351). -/
def State.plainReg (s : State) : Reg → W64
  | .hstat => s.host.hstat
  | .hdb => setFld s.host.hdb 63 63 0
  | .hacc => s.host.hacc
  | .hwbase => s.host.hwbase
  | .herr => s.host.herr
  | .hseg j => s.host.hseg[j.val]
  | .request n => areaWord s.host.request n.val
  | .answer n => areaWord s.host.answer n.val
  | .lqstat t q => s.lqstat t q
  | .evcfg j => s.host.streams[j.val].cfg
  | .evstat j => s.host.streams[j.val].evstat
  | .troot t => (s.tenant t).troot
  | .fqbase t => (s.tenant t).fqbase
  | .sqbase t => (s.tenant t).sqbase
  | .svbase t => (s.tenant t).svbase
  | .tcfg t => (s.tenant t).tcfg
  | .tpwr t => (s.tenant t).tpwr
  | .ttrap t => (s.tenant t).ttrap
  | .tue t => (s.tenant t).tue.setWidth 64
  | .tterm t => BitVec.ofNat 64 ((s.tenant t).ttermCount.toNat * 2 ^ 32 + (s.tenant t).ttermLast.toNat)
  | .tene t => BitVec.ofNat 64 ((s.tenant t).tenePj / 1000)
  | .tovr t => (s.tenant t).tovr.setWidth 64
  | .mce c => s.mgmt.mce[c.val].setWidth 64
  | .fwue => s.mgmt.fwue.setWidth 64
  | .tinv => BitVec.ofNat 64 (bitCode s.mgmt.tinv.isSome)
  | .svcmd => BitVec.ofNat 64 (s.mgmt.svRes % 4 * 2 ^ 60)
  | .sva0 => s.mgmt.sva0
  | .sva1 => s.mgmt.sva1
  | .mrate => s.gov.mrateNext
  | .gpol0 => s.gov.gpol0Next
  | .gpol1 => s.gov.gpol1Next
  | .gstat => s.gov.gstat
  | .therm => s.gov.therm
  | .ipol i => (s.island i).ipol
  | .fthr i => (s.island i).fthr
  | .scrc c => s.fabric.drops[c.val].setWidth 64
  | .slnk p => s.host.slnk[p.val]
  | .readOnly => 0

/-- What a read by the management core returns (R9). -/
def State.readReg (s : State) : RReg → W64
  | .plain r => s.plainReg r
  | .lqsub _ _ => 0
  | .fqhead t => (s.tenant t).fqhead.setWidth 64
  | .fqtail t => (s.tenant t).fqTailReg
  | .sqhead t => (s.tenant t).sqhead.setWidth 64
  | .sqtail t => (s.tenant t).sqtail.setWidth 64
  | .owncmd => BitVec.ofNat 64 (bitCode s.mgmt.own.isSome)
  | .resume => BitVec.ofNat 64 (s.mgmt.resumeRes % 4 * 2 ^ 60)
  | .ifreq _ => 0
  | .ipwr i => (s.island i).clock.ipwr
  | .ibal i => BitVec.ofInt 64 (s.island i).bal
  | .istat i => (s.island i).istat

/-- An offset and a doubleword number within a block of BAR0. -/
def bar0Word (off base size : Nat) : Option Nat :=
  if base ≤ off ∧ off < base + size then some ((off - base) / 8) else none

/-- The register of the doubleword at a BAR0 offset; none where no row of R389 names one, or where it names a window that is only
written. -/
def bar0Reg (off : Nat) : Option RReg :=
  if off % 8 != 0 then none
  else
    match bar0Word off 0 40 with
    | some n =>
      some (.plain (if n == 0 then .hstat else if n == 1 then .hdb else if n == 2 then .hacc else if n == 3 then .hwbase else .herr))
    | none =>
      match bar0Word off 0x1000 512 with
      | some n => some (.plain (.hseg (finOf 64 n)))
      | none =>
        match bar0Word off 0x10000 4096 with
        | some n => some (.plain (.request (finOf 512 n)))
        | none =>
          match bar0Word off 0x11000 4096 with
          | some n => some (.plain (.answer (finOf 512 n)))
          | none =>
            match bar0Word off 0x100000 0xC000 with
            | some n =>
              let t : Tenant := finOf 12 (n / 512)
              let q : Fin 4 := finOf 4 (n / 2)
              if n % 512 < 8 then some (if n % 2 == 0 then .lqsub t q else .plain (.lqstat t q)) else none
            | none => none

/-- What a host read of a doubleword of BAR0 returns: zero where R389 names nothing, in the ingress windows, and for the queues of a
tenant that HACC does not open (18_host R389, R391). -/
def State.bar0Read (s : State) (off : Nat) : W64 :=
  match bar0Reg off with
  | some (.plain (.lqstat t q)) => if s.hostReaches t then s.lqstat t q else 0
  | some r => s.readReg r
  | none => 0

end Sys2Proof.Machine
end

