-- ==== Sys2Proof/Safety.lean ====
section
/-! DEFINITION. The terms in which the statements speak: what a step may not break, and what a word leaves unchanged. -/

namespace Sys2Proof.Machine

open Sys2Proof

/-! ### What no step breaks -/

/-- The step answers a next state. -/
def Completes (o : Out) : Prop := ∃ t, o = .next t

/-! ### Frames of the module -/

/-- Nothing but cores differs, and of the cores only `c`: memory, tenants, islands, slices, fabric, governor, dispatcher, host
link, management core, time and agenda are the same. -/
def OnlyCore (c : CoreId) (s t : State) : Prop := { t with cores := s.cores } = s ∧ ∀ d, d ≠ c → t.core d = s.core d

/-- Every byte of LPDDR6 and of the core's scratchpad reads as before. -/
def SameBytes (c : CoreId) (s t : State) : Prop :=
  (∀ a, t.mem.read a = s.mem.read a) ∧ ∀ a, (t.core c).pool.scratch.read a = (s.core c).pool.scratch.read a

/-! ### Words of X -/

/-- Of a core, only context `x` and the list of waiters differ. -/
def OnlyCtx (x : CtxId) (k l : Core) : Prop :=
  { l with seqs := { l.seqs with x := k.seqs.x }, sync := { l.sync with waiters := k.sync.waiters } } = k
    ∧ ∀ y, y ≠ x → l.ctx y = k.ctx y

/-- Of a context, only registers and the place of its next word differ, and nothing holds that word. -/
def XCtx.moved (v w : XCtx) : Prop :=
  { w with regs := v.regs, pc := v.pc, op := v.op, fault := v.fault, wait := v.wait, stall := v.stall } = v
    ∧ w.op = none ∧ w.fault = none ∧ w.wait = none ∧ w.stall = 0

/-- A word of context `x` of core `c` answers a state in which the context goes on at `pc`, register `d` holds `v` (s0 reads
as zero), and nothing else differs. -/
def XSets (c : CoreId) (x : CtxId) (s : State) (o : Out) (d : BitVec 5) (v pc : W64) : Prop :=
  ∃ t, o = .next t ∧ OnlyCore c s t ∧ SameBytes c s t ∧ OnlyCtx x (s.core c) (t.core c)
    ∧ ((s.core c).ctx x).moved ((t.core c).ctx x)
    ∧ ((t.core c).ctx x).pc = pc
    ∧ ∀ r, ((t.core c).ctx x).get r = if r = d ∧ d ≠ 0 then v else ((s.core c).ctx x).get r

/-- A word of X that writes no register and changes nothing but the place of the next word. -/
def XGoes (c : CoreId) (x : CtxId) (s : State) (o : Out) (pc : W64) : Prop := XSets c x s o 0 0 pc

/-- Of a core, only context `x`, the queues, the semaphores and the list of waiters differ. -/
def OnlyCtxSync (x : CtxId) (k l : Core) : Prop :=
  { l with
      seqs := { l.seqs with x := k.seqs.x }, queues := k.queues
      sync := { l.sync with waiters := k.sync.waiters, sems := k.sync.sems, sovf := k.sync.sovf } } = k
    ∧ ∀ y, y ≠ x → l.ctx y = k.ctx y

/-- The core after the L1 invalidation that an ordering makes. -/
def Core.ordered (k : Core) (o : Option Scope) : Core :=
  match o with
  | some sc => k.l1Acquire sc
  | none => k

/-- A word of context `x` of core `c` has retired: nothing but the core differs, the other contexts are the same, its registers
are the same, and it goes on at the next word. -/
def XRetires (c : CoreId) (x : CtxId) (s t : State) : Prop :=
  OnlyCore c s t ∧ (∀ y, y ≠ x → (t.core c).ctx y = (s.core c).ctx y)
    ∧ ((t.core c).ctx x).pc = ((s.core c).ctx x).pc + 4 ∧ (∀ r, ((t.core c).ctx x).get r = ((s.core c).ctx x).get r)
    ∧ ((t.core c).ctx x).op = none ∧ ((t.core c).ctx x).run = ((s.core c).ctx x).run

/-- The fabric is as before but for one message from core `c`, put into its outbox; everything outside core `c` and the fabric is
as before. -/
def Posts (c : CoreId) (dst : RouterId) (b : Body) (s t : State) : Prop :=
  t.fabric = (s.send (coreRouter c) dst (s.core c).pri b).fabric
    ∧ { t with cores := s.cores, fabric := s.fabric } = s ∧ ∀ d, d ≠ c → t.core d = s.core d

/-- A write of bytes from an address, byte by byte. -/
def Wrote (m m' : Mem) (a : Nat) (bs : List Byte) : Prop :=
  ∀ b, m'.read b = if a ≤ b ∧ b < a + bs.length then (bs[b - a]?).getD 0 else m.read b

/-! ### Words of L and S -/

/-- The agent of L, or of S. -/
def lsAgent (isS : Bool) : Agent := if isS then .s else .l

/-- A word of L or S of core `c` answers a state in which the sequencer stands at `pc` with the registers, loop counters and run
state of `q`, holding nothing back; memory, the scratchpad, the other sequencers and everything else but queues and semaphores are
as before. When no earlier word owes anything and the pushes have room, queues and semaphores are those of `kf`. -/
def LsRuns (c : CoreId) (isS : Bool) (s : State) (o : Out) (pushes : List (QName × Option W32)) (pc : W64) (q : LSeq) (kp kf : Core) :
    Prop :=
  let k := s.core c
  ∃ t, o = .next t ∧ OnlyCore c s t ∧ SameBytes c s t
    ∧ ((t.core c).ls isS).pc = pc ∧ ((t.core c).ls isS).popped = false
    ∧ { (t.core c).ls isS with pc := q.pc, popped := q.popped, pend := q.pend, fault := q.fault, wait := q.wait, stall := q.stall } = q
    ∧ (t.core c).ls (!isS) = k.ls (!isS) ∧ (t.core c).seqs.x = k.seqs.x ∧ (t.core c).seqs.c = k.seqs.c
    ∧ { t.core c with
          seqs := k.seqs, queues := k.queues
          sync := { (t.core c).sync with waiters := k.sync.waiters, sems := k.sync.sems, sovf := k.sync.sovf } } = k
    ∧ ((k.ls isS).pend = [] → kp.room pushes = true →
        (t.core c).queues = kf.queues ∧ (t.core c).sync.sems = kf.sync.sems ∧ (t.core c).sync.sovf = kf.sync.sovf
          ∧ ((t.core c).ls isS).pend = [])

/-- The same for a word that pops its token queues, pushes its bare tokens and does nothing else to queues. -/
def LsSteps (c : CoreId) (isS : Bool) (s : State) (o : Out) (t : Token) (pc : W64) (q : LSeq) : Prop :=
  let a := lsAgent isS
  let kp := (s.core c).popAll (tokPops a t)
  LsRuns c isS s o (tokPushes a t none) pc q kp (kp.pushAll (tokPushes a t none))

/-- L or S is in focus at a word whose token queues all hold a token. -/
def LsReady (c : CoreId) (isS : Bool) (s : State) (t : Token) : Prop :=
  s.focus = (c, lsAgent isS) ∧ ((s.core c).ls isS).popped = false ∧ (s.core c).canPop (tokPops (lsAgent isS) t) = true

/-! ### Words of C -/

/-- C is in focus at a word, every earlier word of C has retired, and no matrix word has still to write a register. -/
def CReady (c : CoreId) (s : State) : Prop :=
  s.focus = (c, .c) ∧ (s.core c).seqs.c.ret = [] ∧ (s.core c).seqs.c.popped = false ∧ (s.core c).awaitsAny = false

/-- Physical register `p` holds lanes that a read returns with no replay. -/
def Core.readable (k : Core) (p : Nat) : Prop := (k.regs.preg p).st ≠ .lost ∧ (k.regs.preg p).st ≠ .dropped

/-- Physical register `p` exists, and has a frame or can take one. -/
def Core.writable (k : Core) (p : Nat) : Prop :=
  p < k.regs.pregs.length ∧ ((k.regs.preg p).frame.isSome = true ∨ k.poweredFree.isSome = true)

/-- A word of C of core `c` has issued and retired: C stands at `pc` with nothing outstanding; memory, the other cores, the other
sequencers and everything of the core but the registers of C, its waiters and its activity counts are as before. -/
def CSteps (c : CoreId) (s t : State) (pc : W64) : Prop :=
  let k := s.core c
  let l := t.core c
  OnlyCore c s t ∧ SameBytes c s t
    ∧ l.seqs = { k.seqs with c := { k.seqs.c with pc := pc, popped := false, ret := [], fault := none, wait := none, stall := 0 } }
    ∧ { l with
          seqs := k.seqs, regs := k.regs, activity := k.activity, fill := k.fill, sync := { l.sync with waiters := k.sync.waiters } } = k

/-- The vector registers hold frames and read as before. -/
def SameVregs (k l : Core) : Prop :=
  ∀ q, (l.regs.preg q).read = (k.regs.preg q).read ∧ (l.regs.preg q).frame = (k.regs.preg q).frame

/-- A lone vector word: physical register `p` reads as `lanes`, every other register as before, FCS has `flags` added, and the
masks, patterns and loop registers are as before. -/
def CSets (c : CoreId) (s : State) (o : Out) (p : Nat) (lanes : List W32) (flags : Flags) : Prop :=
  let k := s.core c
  ∃ t, o = .next t ∧ CSteps c s t (k.seqs.c.pc + 4)
    ∧ ((t.core c).regs.preg p).st = .plain ∧ ((t.core c).regs.preg p).lanes = lanes
    ∧ ((t.core c).regs.preg p).frame = (if (k.regs.preg p).frame.isSome then (k.regs.preg p).frame else k.poweredFree)
    ∧ (∀ q, q ≠ p → ((t.core c).regs.preg q).read = (k.regs.preg q).read
        ∧ ((t.core c).regs.preg q).frame = (k.regs.preg q).frame)
    ∧ { (t.core c).regs with pregs := k.regs.pregs } = { k.regs with fcs := k.regs.fcs ||| flags.setWidth 32 }

/-- A lone word of C that leaves vector registers alone and gives its other registers the values of `r`. -/
def CGoes (c : CoreId) (s : State) (o : Out) (r : CRegs) : Prop :=
  ∃ t, o = .next t ∧ CSteps c s t ((s.core c).seqs.c.pc + 4) ∧ SameVregs (s.core c) (t.core c)
    ∧ { (t.core c).regs with pregs := (s.core c).regs.pregs } = { r with pregs := (s.core c).regs.pregs }

end Sys2Proof.Machine
end

