-- ==== Sys2Proof/Certificates/Slice0/Obligations.lean ====
section
/-! DEFINITION. The statements for the provers. -/

open Sys2Proof Sys2Proof.Machine

/-! ### X: integer words -/

/-- The words of R303 and the bit network (R305), in a context whose operands are ready: each writes the value of the table to s_d (s0
stays zero), goes on at the next word and changes nothing else. `clz`, `ctz` and `popc` (R303): the number that each writes is the place
of the first one bit from above or from below, 64 when there is none, and the number of one bits. -/
def Obligations.XIntegerWords : Prop :=
  (∀ (s : State) (c : CoreId) (x : CtxId) (d a b e : BitVec 5) (imm : BitVec 16) (n : BitVec 6) (p : BitVec 3),
     s.focus = (c, .x x) → ((s.core c).ctx x).ready [d, a, b, e] = true →
     let u := (s.core c).ctx x
     let va := u.get a
     let vb := u.get b
     let sh := vb.toNat % 64
     let simm : W64 := imm.signExtend 64
     let zimm : W64 := imm.setWidth 64
     let bit (t : Prop) [Decidable t] : W64 := if t then 1 else 0
     let sets (i : Instr) (v : W64) : Prop := XSets c x s (exec i s) d v (u.pc + 4)
     (sets (.xAdd d a b) (BitVec.ofNat 64 (va.toNat + vb.toNat)) ∧ sets (.xSub d a b) (BitVec.ofInt 64 (va.toNat - vb.toNat)))
     ∧ (sets (.xAnd d a b) (va &&& vb) ∧ sets (.xOr d a b) (va ||| vb) ∧ sets (.xXor d a b) (va ^^^ vb)
       ∧ sets (.xAndn d a b) (va &&& ~~~vb))
     ∧ (sets (.xSll d a b) (BitVec.ofNat 64 (va.toNat * 2 ^ sh)) ∧ sets (.xSrl d a b) (BitVec.ofNat 64 (va.toNat / 2 ^ sh))
       ∧ sets (.xSra d a b) (BitVec.ofInt 64 (va.toInt / 2 ^ sh)))
     ∧ (sets (.xSlt d a b) (bit (va.toInt < vb.toInt)) ∧ sets (.xSltu d a b) (bit (va.toNat < vb.toNat))
       ∧ sets (.xSeq d a b) (bit (va = vb)) ∧ sets (.xSne d a b) (bit (va ≠ vb)))
     ∧ (sets (.xMin d a b) (BitVec.ofInt 64 (min va.toInt vb.toInt)) ∧ sets (.xMax d a b) (BitVec.ofInt 64 (max va.toInt vb.toInt))
       ∧ sets (.xMinu d a b) (BitVec.ofNat 64 (min va.toNat vb.toNat))
       ∧ sets (.xMaxu d a b) (BitVec.ofNat 64 (max va.toNat vb.toNat)))
     ∧ sets (.xSel d a b e) (if va ≠ 0 then vb else u.get e)
     ∧ (sets (.xAddi d a imm) (BitVec.ofInt 64 (va.toInt + imm.toInt)) ∧ sets (.xAndi d a imm) (va &&& zimm)
       ∧ sets (.xOri d a imm) (va ||| zimm) ∧ sets (.xXori d a imm) (va ^^^ zimm)
       ∧ sets (.xSlti d a imm) (bit (va.toInt < imm.toInt)) ∧ sets (.xSltiu d a imm) (bit (va.toNat < simm.toNat))
       ∧ sets (.xLui d imm) (BitVec.ofInt 64 (imm.toInt * 2 ^ 16)))
     ∧ (sets (.xSlli d a n) (BitVec.ofNat 64 (va.toNat * 2 ^ n.toNat)) ∧ sets (.xSrli d a n) (BitVec.ofNat 64 (va.toNat / 2 ^ n.toNat))
       ∧ sets (.xSrai d a n) (BitVec.ofInt 64 (va.toInt / 2 ^ n.toNat)))
     ∧ ∃ y : W64, sets (.bxp d a p) y ∧ ∀ i, i < 64 →
         let ent := (((s.core c).regs.pats[p.toNat]'p.isLt)[i]?).getD 0
         y.getLsbD i = if ent.getLsbD 7 then false else (va.getLsbD (ent.toNat % 64) != ent.getLsbD 6))
  ∧ (∀ (s : State) (c : CoreId) (x : CtxId) (d a : BitVec 5),
       s.focus = (c, .x x) → ((s.core c).ctx x).ready [d, a] = true →
       let u := (s.core c).ctx x
       let va := u.get a
       let sets (i : Instr) (n : Nat) : Prop := XSets c x s (exec i s) d (BitVec.ofNat 64 n) (u.pc + 4)
       (∃ n, n ≤ 64 ∧ sets (.xClz d a) n ∧ (∀ i, i < n → va.getLsbD (63 - i) = false) ∧ (n < 64 → va.getLsbD (63 - n) = true))
       ∧ (∃ n, n ≤ 64 ∧ sets (.xCtz d a) n ∧ (∀ i, i < n → va.getLsbD i = false) ∧ (n < 64 → va.getLsbD n = true))
       ∧ sets (.xPopc d a) ((List.range 64).countP (fun i => va.getLsbD i)))

/-- The multiply and divide group (R304): op 0x01 and the fn of each word, its result with the corner results; no value traps. -/
def Obligations.XMultiplyDivide : Prop :=
  ∀ (s : State) (c : CoreId) (x : CtxId) (d a b : BitVec 5),
    (∀ p ∈ [(1, Instr.xMul d a b), (2, .xMulh d a b), (3, .xMulhu d a b), (4, .xDiv d a b), (5, .xDivu d a b), (6, .xRem d a b),
        (7, .xRemu d a b)],
      decodeWord .scalar (1 * 2 ^ 26 + d.toNat * 2 ^ 21 + a.toNat * 2 ^ 16 + b.toNat * 2 ^ 11 + p.1) = .ok (false, p.2)) ∧
    (s.focus = (c, .x x) → ((s.core c).ctx x).ready [d, a, b] = true →
    let u := (s.core c).ctx x
    let va := u.get a
    let vb := u.get b
    let sets (i : Instr) (v : W64) : Prop := XSets c x s (exec i s) d v (u.pc + 4)
    let q := va.toInt.tdiv vb.toInt
    sets (.xMul d a b) (BitVec.ofNat 64 (va.toNat * vb.toNat))
    ∧ sets (.xMulh d a b) (BitVec.ofInt 64 (va.toInt * vb.toInt / 2 ^ 64))
    ∧ sets (.xMulhu d a b) (BitVec.ofNat 64 (va.toNat * vb.toNat / 2 ^ 64))
    ∧ (vb = 0 → sets (.xDiv d a b) (-1) ∧ sets (.xDivu d a b) (-1) ∧ sets (.xRem d a b) va ∧ sets (.xRemu d a b) va)
    ∧ (vb ≠ 0 → sets (.xDiv d a b) (BitVec.ofInt 64 q) ∧ sets (.xDivu d a b) (BitVec.ofNat 64 (va.toNat / vb.toNat))
        ∧ sets (.xRem d a b) (BitVec.ofInt 64 (va.toInt - vb.toInt * q))
        ∧ sets (.xRemu d a b) (BitVec.ofNat 64 (va.toNat % vb.toNat)))
    ∧ (va.toInt = -2 ^ 63 → vb = -1 → sets (.xDiv d a b) va ∧ sets (.xRem d a b) 0))

/-! ### X: control flow -/

/-- Branches and jumps (R307), with their operands ready: where the context goes, what `call` and `callr` write, and that a
`jr` or `callr` target that is no multiple of 4 traps with no register written. -/
def Obligations.XControlFlow : Prop :=
  ∀ (s : State) (c : CoreId) (x : CtxId) (d a b : BitVec 5) (off : BitVec 16) (far : BitVec 26),
    s.focus = (c, .x x) → ((s.core c).ctx x).ready [d, a, b, 31] = true →
    let u := (s.core c).ctx x
    let va := u.get a
    let vb := u.get b
    let near : W64 := u.pc + BitVec.ofInt 64 (4 * off.toInt)
    let away : W64 := u.pc + BitVec.ofInt 64 (4 * far.toInt)
    let goes (i : Instr) (t : Prop) [Decidable t] : Prop := XGoes c x s (exec i s) (if t then near else u.pc + 4)
    let aim : W64 := va + BitVec.ofInt 64 (4 * off.toInt)
    goes (.xBeq a b off) (va = vb) ∧ goes (.xBne a b off) (va ≠ vb)
    ∧ goes (.xBlt a b off) (va.toInt < vb.toInt) ∧ goes (.xBge a b off) (vb.toInt ≤ va.toInt)
    ∧ goes (.xBltu a b off) (va.toNat < vb.toNat) ∧ goes (.xBgeu a b off) (vb.toNat ≤ va.toNat)
    ∧ XGoes c x s (exec (.xJ far) s) away
    ∧ XSets c x s (exec (.call far) s) 31 (u.pc + 4) away
    ∧ (if aim.toNat % 4 = 0 then XGoes c x s (exec (.jr a off) s) aim
        else exec (.jr a off) s = .next (s.raise c (.x x) causeMisaligned 0x01 0))
    ∧ (if va.toNat % 4 = 0 then XSets c x s (exec (.callr d a) s) d (u.pc + 4) va
        else exec (.callr d a) s = .next (s.raise c (.x x) causeMisaligned 0x01 0))

/-! ### X: memory -/

/-- The load words with their sizes and signs (R308). -/
def xLoads (o : XMem) : List (Instr × Nat × Bool) :=
  [(.ldD o, 8, false), (.ldW o, 4, true), (.ldWu o, 4, false), (.ldH o, 2, true), (.ldHu o, 2, false), (.ldB o, 1, true),
    (.ldBu o, 1, false)]

/-- The store words with their sizes (R308). -/
def xStores (o : XMem) : List (Instr × Nat) := [(.stD o, 8), (.stW o, 4), (.stH o, 2), (.stB o, 1)]

/-- A load from the local window (R308, R309), aligned, inside the scratchpad, and held by no footprint: s_d takes the value of
the bytes, extended as the word says, an acquire invalidates the L1 (R141), and nothing else differs. -/
def Obligations.XLocalLoads : Prop :=
  ∀ (s : State) (c : CoreId) (x : CtxId) (o : XMem),
    let k := s.core c
    let u := k.ctx x
    s.focus = (c, .x x) → u.ready [o.d, o.a] = true → u.acquiring = false → u.loads.length < 8 → u.op = none →
    ∀ p ∈ xLoads o,
      let ea := (xmEa o u p.2.1).toNat
      let off := ea - 0xFFFFFFE00000
      ea % p.2.1 = 0 → inLocalWindow ea = true → k.inScratch off p.2.1 = true → k.gate false off p.2.1 = .free →
      let v := k.pool.scratch.readLe off p.2.1
      XSets c x (s.modCore c (fun k => k.ordered o.ord)) (exec p.1 s) o.d
        (if p.2.2 then (BitVec.ofNat (8 * p.2.1) v).signExtend 64 else BitVec.ofNat 64 v) (u.pc + 4)

/-- A store to the local window (R308, R309), aligned, inside the scratchpad, held by no footprint, and with nothing to wait for
where it is a release: the low bytes of s_d stand at the offset, every other byte of the scratchpad and of memory is as
before; ring summaries that the write touches (R148) and recipe bindings that pin its bytes (R174) are all else that differs. -/
def Obligations.XLocalStores : Prop :=
  ∀ (s : State) (c : CoreId) (x : CtxId) (o : XMem),
    let k := s.core c
    let u := k.ctx x
    s.focus = (c, .x x) → u.ready [o.d, o.a] = true → u.acquiring = false → u.stores.length < 16 →
    (o.ord = none ∨ (u.quiet = true ∧ u.hostStore = none)) →
    ∀ p ∈ xStores o,
      let ea := (xmEa o u p.2).toNat
      let off := ea - 0xFFFFFFE00000
      let bs := leBytes p.2 (u.get o.d).toNat
      ea % p.2 = 0 → inLocalWindow ea = true → k.inScratch off p.2 = true → k.gate true off p.2 = .free →
      ∃ t, exec p.1 s = .next t ∧ XRetires c x s t ∧ t.mem = s.mem
        ∧ Wrote k.pool.scratch (t.core c).pool.scratch off bs
        ∧ (t.core c).tables = { k.tables with rings := k.tables.rings.map (fun r => r.touch off (off + p.2)) }
        ∧ (∀ q, ((t.core c).regs.preg q).frame = (k.regs.preg q).frame ∧ ((t.core c).regs.preg q).lanes = (k.regs.preg q).lanes)
        ∧ { t.core c with
              seqs := k.seqs, sync := { (t.core c).sync with waiters := k.sync.waiters }
              pool := { (t.core c).pool with scratch := k.pool.scratch }, tables := k.tables
              regs := { (t.core c).regs with pregs := k.regs.pregs } } = k

/-- A load from a translated page (R139, R141, R302, R309). One of a local or peer page that no L1 sector serves, and no fill is bringing,
leaves for its slice: its read message goes out, of its bytes or, where the L1 takes what it brings, of its sector, with the reads of the
line's other sectors before it when it fills the line; the context goes on at the next word with its registers as they were and one more
load in flight, for s_d and the translated address. One that hits the L1 takes the bytes of the line into s_d, the line's hint and
recency are renewed, and nothing else differs. One of the host aperture sends one read of its bytes and holds the context at its word until the answer
is there, which then reaches s_d. That an acquire brings one sector into the L1 is the model's choice (log 97). -/
def Obligations.XLoadsLeave : Prop :=
  ∀ (s s1 : State) (c : CoreId) (x : CtxId) (o : XMem) (pa pm n : Nat) (l : L1Line) (bs : List Byte),
    let u := (s.core c).ctx x
    let value (p : Instr × Nat × Bool) (v : Nat) : W64 :=
      if p.2.2 then (BitVec.ofNat (8 * p.2.1) v).signExtend 64 else BitVec.ofNat 64 v
    s.focus = (c, .x x) → u.ready [o.d, o.a] = true → u.acquiring = false → u.loads.length < 8 →
    ∀ p ∈ xLoads o,
      let place (host : Bool) : Prop :=
        u.op = none ∧ s.xPlace (xmEa o u p.2.1) p.2.1 false = (s1, .mem pa pm host) ∧ s1.focus = s.focus ∧ u.sectorBusy pa pm = false
      let l0 := s1.core c
      let u0 := l0.ctx x
      let va := (xmEa o u p.2.1).toNat
      let room := pm = 0 ∧ l0.l1Sets ≠ 0
      let whole := room ∧ (o.ord.isSome = true ∨ o.hint ≠ .bypass)
      let line := room ∧ o.ord = none ∧ o.hint ≠ .bypass
      let who : Who := .load c x u0.nextId
      let own : Body := if whole then .read (sectorOf pa * 32) 32 pm s1.ftenant o.hint true who
        else .read pa p.2.1 pm s1.ftenant o.hint true who
      let others : List Nat := if line then (List.range 4).filter (fun i => !(decide (sectorIn pa ≤ i) && decide (32 * i < pa % 128 + p.2.1))) else []
      let fill (s : State) (i : Nat) : State :=
        s.sendSlice c (lineOf pa * 128) (.read (lineOf pa * 128 + 32 * i) 32 0 s1.ftenant o.hint true (.fill c l0.nextFill va 0))
      (place false → l0.l1Coming pa pm p.2.1 = false →
        (o.ord.isSome = true ∨ o.hint = .bypass ∨ pm ≠ 0 ∨ l0.l1Hit s1.ftenant pa = none) →
        ∃ t, exec p.1 s = .next t
          ∧ t.fabric = ((others.foldl fill s1).sendSlice c pa own).fabric ∧ { t with cores := s1.cores, fabric := s1.fabric } = s1
          ∧ (∀ d, d ≠ c → t.core d = s1.core d) ∧ (∀ y, y ≠ x → (t.core c).ctx y = l0.ctx y)
          ∧ ((t.core c).ctx x).pc = u0.pc + 4
          ∧ (∀ r, ((t.core c).ctx x).get r = u0.get r)
          ∧ ((t.core c).ctx x).loads = u0.loads
              ++ [{ id := u0.nextId, d := o.d, pa := pa, pm := pm, size := p.2.1, signed := p.2.2, acq := o.ord
                    hint := o.hint, va := va, fill := if whole then some l0.nextFill else none }]
          ∧ (t.core c).l1 = (if line then (l0.l1Touch (lineOf pa) o.hint).l1 else (l0.ordered o.ord).l1)
          ∧ { t.core c with
                seqs := { (t.core c).seqs with x := l0.seqs.x }, l1 := l0.l1, l1fills := l0.l1fills, nextFill := l0.nextFill
                sync := { (t.core c).sync with waiters := l0.sync.waiters } } = l0)
      ∧ (place false → o.ord = none → o.hint ≠ .bypass → pm = 0 → l0.l1Hit s1.ftenant pa = some l →
        XSets c x (s1.modCore c (fun k => k.l1Touch (lineOf pa) o.hint)) (exec p.1 s) o.d
          (value p (leNat ((l.bytes.drop (pa % 128)).take p.2.1))) (u0.pc + 4))
      ∧ (place true →
        ∃ t, exec p.1 s = .next t ∧ Posts c (sliceRouter (sliceFor pa)) (.read pa p.2.1 pm s1.ftenant o.hint true who) s1 t
          ∧ t.core c = (l0.ordered o.ord).setCtx x
              { u0 with op := some (.host u0.nextId none), nextId := u0.nextId + 1, wait := some .other })
      ∧ (u.op = some (.host n (some (bs, 0))) →
        XSets c x (s.modCore c (fun k => k.ordered o.ord)) (exec p.1 s) o.d (value p (leNat (bs.take p.2.1))) (u.pc + 4))

/-- A store to a translated page leaves for its slice or for the host (R309, R140): the context goes on at the next word with its
registers as they were and one more store in flight, and one write message carries the low bytes of s_d. -/
def Obligations.XStoresLeave : Prop :=
  ∀ (s s1 : State) (c : CoreId) (x : CtxId) (o : XMem) (pa pm : Nat) (host : Bool),
    let u := (s.core c).ctx x
    s.focus = (c, .x x) → u.ready [o.d, o.a] = true → u.acquiring = false → u.stores.length < 16 → o.ord = none →
    u.sectorBusy pa pm = false →
    ∀ p ∈ xStores o,
      s.xPlace (xmEa o u p.2) p.2 true = (s1, .mem pa pm host) → s1.focus = s.focus →
      ∃ t, exec p.1 s = .next t
        ∧ Posts c (sliceRouter (sliceFor pa))
            (.write pa (leBytes p.2 (u.get o.d).toNat) pm s1.ftenant o.hint (.store c x ((s1.core c).ctx x).nextId)) s1 t
        ∧ (∀ y, y ≠ x → (t.core c).ctx y = (s1.core c).ctx y)
        ∧ ((t.core c).ctx x).pc = ((s1.core c).ctx x).pc + 4
        ∧ (∀ r, ((t.core c).ctx x).get r = ((s1.core c).ctx x).get r)
        ∧ ((t.core c).ctx x).stores = ((s1.core c).ctx x).stores
            ++ [{ id := ((s1.core c).ctx x).nextId, pa := pa, pm := pm, va := (xmEa o u p.2).toNat }]
        ∧ (t.core c).pool = (s1.core c).pool ∧ (t.core c).queues = (s1.core c).queues

/-- The alignment and range cases of R310 for loads and stores: an address that is no multiple of the size traps with detail 0x40
and the address in `tval`; one of the local window beyond the scratchpad traps with detail 0x02. -/
def Obligations.XMemoryTraps : Prop :=
  ∀ (s : State) (c : CoreId) (x : CtxId) (o : XMem),
    let k := s.core c
    let u := k.ctx x
    s.focus = (c, .x x) → u.ready [o.d, o.a] = true → u.acquiring = false → u.loads.length < 8 → u.stores.length < 16 →
    u.op = none → o.ord = none →
    ∀ p ∈ (xLoads o).map (fun p => (p.1, p.2.1)) ++ xStores o,
      let ea := xmEa o u p.2
      (ea.toNat % p.2 ≠ 0 → exec p.1 s = .next (s.raise c (.x x) causeMisaligned 0x40 ea))
      ∧ (ea.toNat % p.2 = 0 → inLocalWindow ea.toNat = true → k.inScratch (ea.toNat - 0xFFFFFFE00000) p.2 = false →
          exec p.1 s = .next (s.raise c (.x x) causeMisaligned 0x02 0))

/-- FENCE (R285) with every earlier access of its context performed, and at system scope no host store since the last release:
the L1 loses its lines that are not sticky (at core scope none, at system scope all, R141), and the context goes on. -/
def Obligations.XFence : Prop :=
  ∀ (s : State) (c : CoreId) (x : CtxId) (sc : Scope),
    let u := (s.core c).ctx x
    s.focus = (c, .x x) → u.quiet = true → (sc = .system → u.hostStore = none) →
    XGoes c x (s.modCore c (fun k =>
      match sc with
      | .core => k
      | .island => { k with l1 := k.l1.filter (fun l => l.hint == .sticky), l1fills := k.l1fills.filter (fun f => f.hint == .sticky) }
      | .device => { k with l1 := k.l1.filter (fun l => l.hint == .sticky), l1fills := k.l1fills.filter (fun f => f.hint == .sticky) }
      | .system => { k with l1 := [], l1fills := [] })) (exec (.fence sc) s) (u.pc + 4)

/-! ### X: queues, semaphores, barriers, messages -/

/-- `push`, `pop`, `sema` and `semv` of X (R311, R312, R254 to R256) when nothing holds them: what enters or leaves the queue, what
register takes the token's value, how a count changes, and that nothing else does. -/
def Obligations.XQueueWords : Prop :=
  ∀ (s : State) (c : CoreId) (x : CtxId) (d a : BitVec 5) (p : Peer) (i : BitVec 6) (n : BitVec 10),
    let k := s.core c
    let u := k.ctx x
    let goes (j : Instr) (post : Core → Prop) : Prop :=
      ∃ t, exec j s = .next t ∧ OnlyCore c s t ∧ OnlyCtxSync x k (t.core c) ∧ u.moved ((t.core c).ctx x)
        ∧ ((t.core c).ctx x).pc = u.pc + 4 ∧ post (t.core c)
    let sameRegs (l : Core) : Prop := ∀ r, (l.ctx x).get r = u.get r
    let sameSync (l : Core) : Prop := l.sync.sems = k.sync.sems ∧ l.sync.sovf = k.sync.sovf
    let pushes (v : Option W32) (l : Core) : Prop := sameRegs l ∧ sameSync l ∧ ∀ q,
      l.queue q = k.queue q ++ (if q = pushQ (.x x) p then [v] else [])
    s.focus = (c, .x x) →
    (u.quiet = true → k.queueFull (pushQ (.x x) p) = false →
      (u.ready [a] = true → goes (.xPushValue a p) (pushes (some ((u.get a).setWidth 32)))) ∧ goes (.xPushBare p) (pushes none))
    ∧ (∀ v rest, k.queue (popQ (.x x) p) = v :: rest → k.firstWaiter (.x x) (WaitFor.onQueue (popQ (.x x) p)) = true →
      let pops (l : Core) : Prop := sameSync l ∧ ∀ q, l.queue q = if q = popQ (.x x) p then rest else k.queue q
      (u.ready [d] = true → goes (.xPopValue d p) (fun l => pops l ∧
        ∀ r, (l.ctx x).get r = if r = d ∧ d ≠ 0 then (v.getD 0).setWidth 64 else u.get r))
      ∧ goes (.xPopBare p) (fun l => pops l ∧ sameRegs l))
    ∧ (k.firstWaiter (.x x) (WaitFor.onSem i) = true → n.toNat ≤ (k.sem i).toNat →
      goes (.xSema i n) (fun l => sameRegs l ∧ l.queues = k.queues ∧ l.sync.sovf = k.sync.sovf
        ∧ ∀ j, (l.sem j).toNat = if j = i then (k.sem i).toNat - n.toNat else (k.sem j).toNat))
    ∧ (u.quiet = true →
      goes (.xSemv i n) (fun l => sameRegs l ∧ l.queues = k.queues
        ∧ (∀ j, (l.sem j).toNat = if j = i then min 65535 ((k.sem i).toNat + n.toNat) else (k.sem j).toNat)
        ∧ ∀ b, b < 64 → l.sync.sovf.getLsbD b
            = (k.sync.sovf.getLsbD b || (b == i.toNat && decide (65535 < (k.sem i).toNat + n.toNat)))))

/-- The barrier words (R269 to R273) on an object of the tenant, with nothing to wait for: one barrier message leaves for the
slice of the object, the context stays at the word until its answer, and `bwait` takes a registration entry. -/
def Obligations.XBarrierWords : Prop :=
  ∀ (s s1 : State) (c : CoreId) (x : CtxId) (a b : BitVec 5) (i : BitVec 6) (pa : Nat),
    let k := s.core c
    let u := k.ctx x
    let va := (u.get a).toNat
    let l0 := s1.core c
    let sends (j : Instr) (op : BarOp) (entry : Option Nat) (post : Core → Prop) : Prop :=
      ∃ t, exec j s = .next t ∧ Posts c (sliceRouter (sliceFor pa)) (.barrier pa s1.ftenant op (.barrier c x)) s1 t
        ∧ (t.core c).ctx x = { l0.ctx x with op := some (.barrier va entry), nextId := (l0.ctx x).nextId + 1, wait := some .other }
        ∧ (∀ y, y ≠ x → (t.core c).ctx y = l0.ctx y)
        ∧ { t.core c with seqs := { (t.core c).seqs with x := l0.seqs.x }, sync := l0.sync } = l0 ∧ post (t.core c)
    s.focus = (c, .x x) → u.ready [a, b] = true → u.quiet = true → u.op = none → va % 64 = 0 → XFault.at_ u.fault va = none →
    s.xlate c (.x x) (.word c (.x x)) va true = (s1, .ok pa 0 false) → s1.focus = s.focus → s1.core c = { k with tlbs := l0.tlbs } →
    s1.ownerTag (granOf pa) = s1.ftenant.val →
    sends (.barr a) .arrive none (fun l => l.sync = l0.sync)
    ∧ sends (.bexp a b) (.declare ((u.get b).setWidth 32)) none (fun l => l.sync = l0.sync)
    ∧ (k.sync.entries.length < 8 →
      sends (.bwait a b i) (.register ((u.get b).setWidth 31) i) (some k.sync.nextEntry) (fun l => l.sync =
        { l0.sync with
            entries := l0.sync.entries ++ [{ id := l0.sync.nextEntry, pa := pa, phase := (u.get b).setWidth 31, sem := i }]
            nextEntry := l0.sync.nextEntry + 1 }))

/-- `msend` (R275) to a member that runs, with legal operands, and `hend` (R277) in a context other than X0: the 64 bytes leave as
one message with the sender's word and the handler word, and the context waits for the answer; `hend` makes it dormant. -/
def Obligations.XMessageWords : Prop :=
  ∀ (s : State) (c dst : CoreId) (x : CtxId) (d a b : BitVec 5) (task : Task),
    let k := s.core c
    let u := k.ctx x
    let m := (u.get d).toNat
    let off := (u.get a).toNat
    s.focus = (c, .x x) →
    (u.ready [d, a, b] = true → u.quiet = true → u.op = none → k.task = some task → m < task.size → m < 16 → off % 64 = 0 →
      (u.get b).toNat % 4 = 0 → k.inScratch off 64 = true → k.gate false off 64 = .free → s.memberCore c m = some dst →
      ∃ t msg, exec (.msend d a b) s = .next t ∧ Posts c (coreRouter dst) (.mail dst msg (.gang k.gangNo) (.msg c x)) s t
        ∧ msg.dw = (List.range 8).map (fun i => BitVec.ofNat 64 (k.pool.scratch.readLe (off + 8 * i) 8))
        ∧ msg.src = BitVec.ofNat 64 (c.val * 256 + task.member) ∧ msg.hnd = u.get b
        ∧ t.core c = k.setCtx x { u with op := some (.mail dst msg none), wait := some .other })
    ∧ (x ≠ 0 → u.loads = [] →
      ∃ t, exec .hend s = .next t ∧ OnlyCore c s t ∧ OnlyCtx x k (t.core c) ∧ ((t.core c).ctx x).run = .dormant
        ∧ ((t.core c).ctx x).regs = u.regs)

/-! ### X: blocks, system registers, service, end -/

/-- `bxl` and `launch` (R306, R318) once their 64 bytes are there, whether in the scratchpad or from memory: the pattern is
replaced; the record enters the tenant's queue. -/
def Obligations.XBlockWords : Prop :=
  ∀ (s : State) (c : CoreId) (x : CtxId) (a : BitVec 5) (i : BitVec 3) (q : BitVec 2) (bs : List Byte),
    let k := s.core c
    let u := k.ctx x
    let va := u.get a
    let off := va.toNat - 0xFFFFFFE00000
    s.focus = (c, .x x) → u.ready [a] = true → u.quiet = true → va.toNat % 64 = 0 →
    ((∃ w n f e, u.op = some (.block w n f (some (bs, e))) ∧ (e = 0 ∨ e = 0x30))
      ∨ (u.op = none ∧ inLocalWindow va.toNat = true ∧ k.inScratch off 64 = true ∧ k.gate false off 64 = .free
          ∧ bs = k.pool.scratch.readN off 64)) →
    (∃ t, exec (.bxl a i) s = .next t ∧ XRetires c x s t ∧ t.mem = s.mem
      ∧ (∀ j : Fin 8, (t.core c).regs.pats[j] = if j.val = i.toNat then bs else k.regs.pats[j])
      ∧ { t.core c with
            seqs := k.seqs, sync := { (t.core c).sync with waiters := k.sync.waiters }
            regs := { (t.core c).regs with pats := k.regs.pats } } = k)
    ∧ (s.launchFull s.ftenant q.toFin = false →
      ∃ t, exec (.launch a q) s = .next t ∧ t.mem = s.mem
        ∧ ((t.core c).ctx x).pc = u.pc + 4 ∧ (∀ r, ((t.core c).ctx x).get r = u.get r)
        ∧ (∀ d, d ≠ c → t.core d = s.core d)
        ∧ ((t.tenant s.ftenant).queues[q.toFin]).recs
            = ((s.tenant s.ftenant).queues[q.toFin]).recs
              ++ [{ bytes := bs, serial := (s.tenant s.ftenant).serial, kernel := none, origin := none }]
        ∧ (t.tenant s.ftenant).serial = (s.tenant s.ftenant).serial + 1)

/-- RSYS (R313 to R317): each register of the map reads as the state holds it; a number outside the map traps. WSYS to a register with
RW fields or W1C bits completes and goes on. That `jtask` has the memory charges of the open tick in it is the model's choice (log 98). -/
def Obligations.XReadsSystemRegisters : Prop :=
  ∀ (s : State) (c : CoreId) (x : CtxId) (d : BitVec 5),
    let k := s.core c
    let isl := s.island (islandOf c)
    s.focus = (c, .x x) →
    (((k.ctx x).ready [d] = true) →
      (∀ p ∈ ([(0x00, s.cid c), (0x01, k.sys.gng), (0x02, k.sys.kvar), (0x03, k.sys.pblk), (0x04, k.sys.lkind),
          (0x08, k.sys.lvl[0]), (0x09, k.sys.lvl[1]), (0x0A, k.sys.lvl[2]), (0x0B, k.sys.lvl[3]), (0x0C, k.sys.lvl[4]),
          (0x0D, k.sys.lvl[5]), (0x20, BitVec.ofNat 64 ((k.sys.jtaskPj + k.sys.memPj) / 1000)), (0x21, BitVec.ofInt 64 isl.bal),
          (0x22, k.sys.eres), (0x23, isl.clock.iclk), (0x24, isl.istat), (0x28, k.sys.cyc), (0x29, BitVec.ofNat 64 s.time),
          (0x40, k.regs.stg.setWidth 64), (0x42, k.matrix.mxcnt), (0x43, k.sync.sovf), (0x50, k.sys.dkey), (0x51, k.sys.dctr),
          (0x80, k.sys.tcause), (0x81, k.sys.tepc), (0x82, k.sys.tval), (0x83, k.sys.txpc), (0x84, k.sys.tscr0),
          (0x85, k.sys.tscr1),
          (0x10, BitVec.ofNat 64 (k.pool.l1b * 2 ^ 32 + k.pool.spb * 2 ^ 16 + k.pool.rfb)),
          (0x41, BitVec.ofNat 64 (k.regs.rrb * 2 ^ 48 + k.regs.epi.toNat * 2 ^ 32 + k.regs.cnt.toNat))] : List (BitVec 16 × W64)),
        XSets c x s (exec (.rsys d p.1) s) d p.2 ((k.ctx x).pc + 4))
      ∧ (∀ j : Fin 4, XSets c x s (exec (.rsys d (BitVec.ofNat 16 (0x48 + j.val))) s) d ((k.sys.am[j]).setWidth 64) ((k.ctx x).pc + 4))
      ∧ (∀ j : Fin 8, XSets c x s (exec (.rsys d (BitVec.ofNat 16 (0x60 + j.val))) s) d k.tables.rings[j].cfg ((k.ctx x).pc + 4)
          ∧ XSets c x s (exec (.rsys d (BitVec.ofNat 16 (0x68 + j.val))) s) d k.tables.rings[j].stateReg ((k.ctx x).pc + 4)))
    ∧ (∀ n, SysReg.ofNum n.toNat = none → exec (.rsys d n) s = .next (s.raise c (.x x) causeIllegal 0 0))
    ∧ ((k.ctx x).ready [d] = true →
        ∀ n ∈ ([0x40, 0x41, 0x43, 0x48, 0x49, 0x4A, 0x4B, 0x50, 0x51, 0x83, 0x84, 0x85] : List (BitVec 16)),
          ∃ t, exec (.wsys d n) s = .next t ∧ XRetires c x s t)

/-- WSYS (R313): the RW fields and the W1C bits are all that a write reaches; a register with neither traps as privileged, a
number outside the map as illegal. -/
def Obligations.XWritesSystemRegisters : Prop :=
  ∀ (s : State) (c : CoreId) (x : CtxId) (a : BitVec 5),
    let k := s.core c
    let u := k.ctx x
    let v := u.get a
    let writes (n : BitVec 16) (l : Core) : Prop :=
      ∃ t, exec (.wsys a n) s = .next t ∧ XRetires c x s t
        ∧ { t.core c with seqs := k.seqs, sync := { (t.core c).sync with waiters := k.sync.waiters } }
            = { l with seqs := k.seqs, sync := { l.sync with waiters := k.sync.waiters } }
    s.focus = (c, .x x) → u.ready [a] = true →
    writes 0x40 { k with regs := { k.regs with stg := v.setWidth 8 } }
    ∧ writes 0x41 { k with regs := { k.regs with
        rrb := v.toNat / 2 ^ 48 % 2 ^ 9 % nrOf k.pool.rfb, epi := v.extractLsb' 32 8, cnt := v.setWidth 32 } }
    ∧ writes 0x43 { k with sync := { k.sync with sovf := k.sync.sovf &&& ~~~v } }
    ∧ (∀ j : Fin 4, writes (BitVec.ofNat 16 (0x48 + j.val)) { k with sys := { k.sys with am := k.sys.am.set j (v.setWidth 32) } })
    ∧ writes 0x50 { k with sys := { k.sys with dkey := v } } ∧ writes 0x51 { k with sys := { k.sys with dctr := v } }
    ∧ writes 0x83 { k with sys := { k.sys with txpc := v &&& 0xFFFFFFFC } }
    ∧ writes 0x84 { k with sys := { k.sys with tscr0 := v } } ∧ writes 0x85 { k with sys := { k.sys with tscr1 := v } }
    ∧ (∀ n ∈ ([0x00, 0x01, 0x02, 0x03, 0x04, 0x08, 0x09, 0x0A, 0x0B, 0x0C, 0x0D, 0x10, 0x20, 0x21, 0x22, 0x23, 0x24, 0x28, 0x29, 0x42,
          0x60, 0x61, 0x62, 0x63, 0x64, 0x65, 0x66, 0x67, 0x68, 0x69, 0x6A, 0x6B, 0x6C, 0x6D, 0x6E, 0x6F, 0x80, 0x81,
          0x82] : List (BitVec 16)), exec (.wsys a n) s = .next (s.raise c (.x x) causePrivileged 0 0))
    ∧ ∀ n, SysReg.ofNum n.toNat = none → exec (.wsys a n) s = .next (s.raise c (.x x) causeIllegal 0 0)

/-- `sys`, `end` and `nop` of X (R319, R322): the request that `sys` posts and the wait that it begins; X0 ends; `nop` only goes
on. Outside X0 `end` traps. -/
def Obligations.XEndWords : Prop :=
  ∀ (s : State) (c : CoreId) (x : CtxId) (n : BitVec 16),
    let k := s.core c
    let u := k.ctx x
    s.focus = (c, .x x) →
    (u.ready [1, 2, 3, 4, 5, 6] = true → u.quiet = true → u.op = none →
      let req : List W64 :=
        [BitVec.ofNat 64 (s.ftenant.val * 2 ^ 32 + c.val * 2 ^ 24 + x.val * 2 ^ 16 + n.toNat), u.get 1, u.get 2, u.get 3, u.get 4,
          u.get 5, u.get 6, 0]
      let bytes := req.flatMap (fun w => leBytes 8 w.toNat)
      ∃ t, exec (.sys n) s = .next t
        ∧ (t.core c).ctx x = { u with op := some (.service none), service := req, wait := some .other }
        ∧ (∀ y, y ≠ x → (t.core c).ctx y = k.ctx y) ∧ (∀ d, d ≠ c → t.core d = s.core d)
        ∧ (if (s.tenant s.ftenant).sqFree && (s.tenant s.ftenant).sqheld.isEmpty then
            (t.tenant s.ftenant).sqtail = (s.tenant s.ftenant).sqtail + 1
              ∧ Wrote s.mem t.mem (fld (s.tenant s.ftenant).sqbase 39 12 * 2 ^ 12
                  + 64 * ((s.tenant s.ftenant).sqtail.toNat % (s.tenant s.ftenant).sqSize.getD 1)) bytes
          else (t.tenant s.ftenant).sqheld = (s.tenant s.ftenant).sqheld ++ [bytes] ∧ t.mem = s.mem))
    ∧ (x = 0 → k.trap.hmode = false → u.loads = [] →
      ∃ t, exec .xEnd s = .next t ∧ OnlyCore c s t ∧ OnlyCtx x k (t.core c) ∧ ((t.core c).ctx x).run = .ended
        ∧ ((t.core c).ctx x).regs = u.regs ∧ ((t.core c).ctx x).stores = u.stores)
    ∧ (x ≠ 0 → exec .xEnd s = .next (s.raise c (.x x) causeIllegal 0 0))
    ∧ XGoes c x s (exec .xNop s) (u.pc + 4)

/-! ### L and S: address, loop, branch, queue and semaphore words -/

/-- The address words (R98): each writes its value to a_d, pops and pushes as its token field says, goes on at the next word and changes
nothing else. HSET (R103): the 64-bit word k of handle h takes a_a; every other handle word and everything else is as before. -/
def Obligations.LsAddressWords : Prop :=
  (∀ (s : State) (c : CoreId) (isS : Bool) (d a b : BitVec 4) (imm : BitVec 12) (big : BitVec 16) (n : BitVec 6) (t : Token),
     LsReady c isS s t →
     let q := (s.core c).ls isS
     let va := q.get a
     let vb := q.get b
     let sets (i : Instr) (v : W64) : Prop := LsSteps c isS s (exec i s) t (q.pc + 4) (q.set d v)
     sets (.lsAddi d a imm t) (BitVec.ofInt 64 (va.toInt + imm.toInt))
     ∧ sets (.lsAdd d a b t) (BitVec.ofNat 64 (va.toNat + vb.toNat)) ∧ sets (.lsSub d a b t) (BitVec.ofInt 64 (va.toNat - vb.toNat))
     ∧ sets (.lsMul d a b t) (BitVec.ofNat 64 (va.toNat * vb.toNat))
     ∧ sets (.lsAnd d a b t) (va &&& vb) ∧ sets (.lsOr d a b t) (va ||| vb) ∧ sets (.lsXor d a b t) (va ^^^ vb)
     ∧ sets (.lsSll d a b t) (BitVec.ofNat 64 (va.toNat * 2 ^ (vb.toNat % 64)))
     ∧ sets (.lsSrl d a b t) (BitVec.ofNat 64 (va.toNat / 2 ^ (vb.toNat % 64)))
     ∧ sets (.li d big t) (BitVec.ofInt 64 big.toInt)
     ∧ sets (.lih d big t) (BitVec.ofNat 64 ((q.get d).toNat * 2 ^ 16 + big.toNat))
     ∧ sets (.shli d a n t) (BitVec.ofNat 64 (va.toNat * 2 ^ n.toNat)) ∧ sets (.shri d a n t) (BitVec.ofNat 64 (va.toNat / 2 ^ n.toNat)))
  ∧ (∀ (s : State) (c : CoreId) (isS : Bool) (h : BitVec 6) (a : BitVec 4) (w : BitVec 2) (t : Token),
       LsReady c isS s t →
       let k := s.core c
       let q := k.ls isS
       ∃ hs : Vector W256 64,
         (∀ (g : BitVec 6) (j : Nat), j < 4 → (hs[g.toNat]'g.isLt).extractLsb' (64 * j) 64
           = if g = h ∧ j = w.toNat then q.get a else (k.handle g).extractLsb' (64 * j) 64)
         ∧ LsSteps c isS (s.modCore c (fun k => { k with tables := { k.tables with handles := hs } })) (exec (.hset h a w t) s) t
             (q.pc + 4) q)

/-- The loop and branch words (R99) with `nop` and `end` (R49, R101): the loop counter that each writes and where the sequencer
goes. Every address word (R98) and `hset` (R103) completes on the same condition, and the sequencer goes on at the next word. -/
def Obligations.LsLoopWords : Prop :=
  ∀ (s : State) (c : CoreId) (isS : Bool) (a : BitVec 4) (k : BitVec 2) (off : BitVec 12) (far : BitVec 20) (t : Token)
    (d b : BitVec 4) (imm : BitVec 16) (n h : BitVec 6),
    LsReady c isS s t →
    let q := (s.core c).ls isS
    let va := q.get a
    let near : W64 := q.pc + BitVec.ofInt 64 (4 * off.toInt)
    LsSteps c isS s (exec (.lset a k t) s) t (q.pc + 4) (q.setLoop k (va.setWidth 32))
    ∧ LsSteps c isS s (exec (.lnext k off t) s) t (if 1 < (q.loop k).toNat then near else q.pc + 4)
        (q.setLoop k (BitVec.ofNat 32 ((q.loop k).toNat - 1)))
    ∧ LsSteps c isS s (exec (.bz a off t) s) t (if va = 0 then near else q.pc + 4) q
    ∧ LsSteps c isS s (exec (.bnz a off t) s) t (if va ≠ 0 then near else q.pc + 4) q
    ∧ LsSteps c isS s (exec (.lsJ far t) s) t (q.pc + BitVec.ofInt 64 (4 * far.toInt)) q
    ∧ LsSteps c isS s (exec (.lsNop t) s) t (q.pc + 4) q
    ∧ LsSteps c isS s (exec (.lsEnd t) s) t (q.pc + 4) { q with ended := true }
    ∧ ∀ i ∈ ([.lsAddi d a off t, .lsAdd d a b t, .lsSub d a b t, .lsMul d a b t, .lsAnd d a b t, .lsOr d a b t, .lsXor d a b t,
          .lsSll d a b t, .lsSrl d a b t, .li d imm t, .lih d imm t, .shli d a n t, .shri d a n t, .hset h a k t] : List Instr),
        ∃ u, exec i s = .next u ∧ OnlyCore c s u ∧ ((u.core c).ls isS).pc = q.pc + 4 ∧ ((u.core c).ls isS).ended = q.ended

/-- The queue and semaphore words of L and S (R100, R254 to R256) when nothing holds them: `qpop` takes the oldest token of the
named queue after the token pops, `qpush` pushes its own token before the bare ones, `sema` takes its count, and `semv` adds when
the words before it owe nothing. The atomics of S (R258) with legal operands, an ungated result block and no acquire before them complete. -/
def Obligations.LsQueueWords : Prop :=
  ∀ (s : State) (c : CoreId) (isS : Bool) (d a : BitVec 4) (p : Peer) (i : BitVec 6) (n : BitVec 14) (t : Token)
    (o : Atom),
    LsReady c isS s t →
    let k := s.core c
    let g := lsAgent isS
    let q := k.ls isS
    let kp := k.popAll (tokPops g t)
    let bare := tokPushes g t none
    let own (v : Option W32) : List (QName × Option W32) := (pushQ g p, v) :: bare
    (∀ v rest, kp.queue (popQ g p) = v :: rest →
      let kq := kp.setQueue (popQ g p) rest
      LsRuns c isS s (exec (.qpopValue d p t) s) bare (q.pc + 4) (q.set d ((v.getD 0).setWidth 64)) kq (kq.pushAll bare)
      ∧ LsRuns c isS s (exec (.qpopBare p t) s) bare (q.pc + 4) q kq (kq.pushAll bare))
    ∧ LsRuns c isS s (exec (.qpushValue a p t) s) (own (some ((q.get a).setWidth 32))) (q.pc + 4) q kp
        (kp.pushAll (own (some ((q.get a).setWidth 32))))
    ∧ LsRuns c isS s (exec (.qpushBare p t) s) (own none) (q.pc + 4) q kp (kp.pushAll (own none))
    ∧ (k.firstWaiter g (WaitFor.onSem i) = true → n.toNat ≤ (k.sem i).toNat →
        LsRuns c isS s (exec (.lsSema i n t) s) bare (q.pc + 4) q kp
          ((kp.setSem i (BitVec.ofNat 16 ((k.sem i).toNat - n.toNat))).pushAll bare))
    ∧ LsRuns c isS s (exec (.lsSemv i n t) s) bare (q.pc + 4) q kp ((kp.pushAll bare).semAdd i n.toNat)
    ∧ (isS = true → o.t = t → (o.op = .cas → o.v.toNat % 2 = 0) → (o.u = true → o.op = .min ∨ o.op = .max) →
        let off := (q.get o.res).toNat
        off % 16 = 0 → k.inScratch off 16 = true → k.gate true off 16 = .free → k.sAcquiring = false →
        ∀ i ∈ ([.atom32 o, .atom64 o] : List Instr),
          ∃ u, exec i s = .next u ∧ OnlyCore c s u ∧ SameBytes c s u ∧ (u.core c).seqs.s.pc = q.pc + 4)

/-! ### L and S: watermarks, windows, copies, atomics -/

/-- `wwait`, `wget` and `wreset` (R111): a target that COUNT has reached lets the word go on, on an abandoned register it traps when
it has not, its tokens popped (the model's reading, log 76); `wget` reads bits [63:0]; `wreset` of a register with no live copy and no window clears it. `open` (R119) of a window that can be granted
and `close` (R120) complete. -/
def Obligations.LsWatermarkWords : Prop :=
  ∀ (s : State) (c : CoreId) (isS : Bool) (a w : BitVec 4) (t : Token),
    LsReady c isS s t →
    let k := s.core c
    let q := k.ls isS
    let m := k.wm w
    let target : W32 := (q.get a).setWidth 32
    let kp := k.popAll (tokPops (lsAgent isS) t)
    ((m.count - target).toNat < 2 ^ 31 → LsSteps c isS s (exec (.wwait a w t) s) t (q.pc + 4) q)
    ∧ (2 ^ 31 ≤ (m.count - target).toNat → m.st = 3 →
        exec (.wwait a w t) s = .next ((s.modCore c (fun _ => kp.setLs isS { q with popped := true })).raise c (lsAgent isS)
          causeAbandoned w.toNat 0))
    ∧ LsSteps c isS s (exec (.wget a w t) s) t (q.pc + 4)
        (q.set a (BitVec.ofNat 64 (m.st.toNat * 2 ^ 61 + bitCode m.gix * 2 ^ 60 + bitCode m.dup * 2 ^ 59 + bitCode m.bnd * 2 ^ 58
          + m.total.toNat * 2 ^ 32 + m.count.toNat)))
    ∧ (k.window w = none → k.bound w = [] →
        ∃ u, exec (.wreset w t) s = .next u ∧ OnlyCore c s u ∧ SameBytes c s u
          ∧ ((u.core c).ls isS).pc = q.pc + 4 ∧ (∀ r, ((u.core c).ls isS).get r = q.get r)
          ∧ (∀ v, (u.core c).wm v = if v = w then Wmark.reset else k.wm v)
          ∧ (u.core c).land.windows = k.land.windows ∧ (u.core c).seqs.x = k.seqs.x ∧ (u.core c).seqs.c = k.seqs.c
          ∧ (q.pend = [] → kp.room (tokPushes (lsAgent isS) t none) = true →
              (u.core c).queues = (kp.pushAll (tokPushes (lsAgent isS) t none)).queues))
    ∧ (isS = false →
        (∀ hint, k.checkOpen w (q.get a) (q.get (a + 1)) = none → k.bound w = [] →
          k.canShare ((q.get (a + 1)).toNat / 2 ^ 32 % 256 + 1) = true →
          ∃ u, exec (.lOpen w a hint t) s = .next u ∧ OnlyCore c s u ∧ (u.core c).seqs.l.pc = q.pc + 4)
        ∧ ∃ u, exec (.lClose w t) s = .next u ∧ OnlyCore c s u ∧ (u.core c).seqs.l.pc = q.pc + 4)

/-- `open` and `close` (R119, R120): a legal window on a register with no live copy, whose share can be granted, opens over its
bytes with COUNT zero; closing ends it, sets STATE to 0 and leaves COUNT and TOTAL. -/
def Obligations.LWindowWords : Prop :=
  ∀ (s : State) (c : CoreId) (w a : BitVec 4) (hint : Hint) (t : Token),
    LsReady c false s t →
    let k := s.core c
    let q := k.seqs.l
    let off := (q.get a).toNat
    let aux := q.get (a + 1)
    let size := aux.toNat % 2 ^ 32
    let share := aux.toNat / 2 ^ 32 % 256 + 1
    let goes (j : Instr) (post : Core → Prop) : Prop :=
      ∃ u, exec j s = .next u ∧ OnlyCore c s u ∧ SameBytes c s u ∧ (u.core c).seqs.l.pc = q.pc + 4
        ∧ (∀ r, (u.core c).seqs.l.get r = q.get r) ∧ (u.core c).seqs.x = k.seqs.x ∧ (u.core c).seqs.c = k.seqs.c
        ∧ (u.core c).land.copies = k.land.copies ∧ post (u.core c)
    (k.checkOpen w (q.get a) aux = none → k.bound w = [] → k.canShare share = true →
      goes (.lOpen w a hint t) (fun l =>
        l.land.windows = k.land.windows ++
          [{ id := k.land.nextId, w := w, off := off, n := size / 32, share := share, aux := aux, hint := hint, held := [] }]
        ∧ (l.wm w).count = 0 ∧ (l.wm w).st = 4 ∧ (l.wm w).total = BitVec.ofNat 16 (size / 32)
        ∧ (l.wm w).fbase = BitVec.ofNat 16 (off / 32) ∧ ∀ v, v ≠ w → l.wm v = k.wm v))
    ∧ goes (.lClose w t) (fun l =>
        l.window w = none ∧ (∀ v, v ≠ w → l.window v = k.window v ∧ l.wm v = k.wm v)
        ∧ (l.wm w).count = (k.wm w).count ∧ (l.wm w).total = (k.wm w).total
        ∧ (k.window w ≠ none → (l.wm w).st = 0)
        ∧ (k.window w = none → l.land = k.land))

/-- What a copy-family word names: kind, handle, place, second operand, register, hint, binding, interleave code, accumulation and
token field (R104 to R121). -/
def copyForm (i : Instr) (k : Core) (q : LSeq) :
    Option (CopyOp × W256 × W64 × W64 × BitVec 4 × Hint × Bool × Nat × AccOp × AccFmt × Token) :=
  match i with
  | .lCopy o => some (.copy, k.handle o.h, q.get o.a, q.get (o.a + 1), o.w, o.hint, o.bar, 0, .add, .f32, o.t)
  | .copyO h w r hint bar t => some (.copyO, k.handle h, r.setWidth 64, q.get ((r ++ 0#1) + 1), w, hint, bar, 0, .add, .f32, t)
  | .copyPk o n => some (.pk, k.handle o.h, q.get o.a, q.get (o.a + 1), o.w, o.hint, o.bar, n.toNat, .add, .f32, o.t)
  | .copyUk o n => some (.uk, k.handle o.h, q.get o.a, q.get (o.a + 1), o.w, o.hint, o.bar, n.toNat, .add, .f32, o.t)
  | .gather o => some (.gather, k.handle o.h, q.get o.a, q.get (o.a + 1), o.w, o.hint, o.bar, 0, .add, .f32, o.t)
  | .wcopy o => some (.wcopy, k.handle o.h, q.get o.a, q.get (o.a + 1), o.w, o.hint, o.bar, 0, .add, .f32, o.t)
  | .scatter o => some (.scatter, k.handle o.h, q.get o.a, q.get (o.a + 1), o.w, o.hint, o.bar, 0, .add, .f32, o.t)
  | .put h w a hint t => some (.put, k.handle h, q.get a, 0, w, hint, false, 0, .add, .f32, t)
  | .acopy h w a hint op fmt t => some (.acopy, k.handle h, q.get a, 0, w, hint, false, 0, op, fmt, t)
  | _ => none

/-- The copy-family words (R107) with legal operands and room on their register: the word becomes the youngest copy of its core, with
its number of sectors (R104, R115), its START behind the copies of its register and nothing landed; the sequencer takes its next serial
and goes on, unless the word reads its source in the scratchpad first; a `copy.o` claims its tiles (R144). No byte of memory or
scratchpad and no register of another sequencer changes. `prefetch` (R117): a usable handle's requests are left to go out; no register
and no serial is taken. The model's readings: the sequencer stays at a word with source reads until they are made (log 71), and START adds
up numbers of sectors (log 18). -/
def Obligations.LsCopyWords : Prop :=
  (∀ (s : State) (c : CoreId) (i : Instr) (op : CopyOp) (h : W256) (opnd aux : W64) (w : BitVec 4) (hint : Hint) (bar : Bool) (il : Nat)
     (acc : AccOp) (fmt : AccFmt) (t : Token),
     let k := s.core c
     let isS := op.isS
     let q := k.ls isS
     let cw : CopyWord := { op := op, h := h, opnd := opnd, aux := aux, il := il }
     let dead := k.land.copies.any (fun d => d.w == w && d.st == .abandoned)
     let reads := (isS || op == .gather) && !dead
     let r : BitVec 3 := opnd.setWidth 3
     copyForm i k q = some (op, h, opnd, aux, w, hint, bar, il, acc, fmt, t) →
     LsReady c isS s t → q.reading = none → q.handle = none → cw.check k = none → (isS = true → k.sAcquiring = false) →
     (k.bound w).length < 4 → k.window w = none →
     ∃ u v, exec i s = .next u ∧ OnlyCore c s u ∧ SameBytes c s u
       ∧ (u.core c).land.copies = k.land.copies ++ [v]
       ∧ v.id = k.land.nextId ∧ v.op = op ∧ v.h = h ∧ v.opnd = opnd ∧ v.aux = aux ∧ v.w = w ∧ v.hint = hint ∧ v.bar = bar ∧ v.il = il
       ∧ v.acc = acc ∧ v.accFmt = fmt ∧ v.n = copyCount op h (2 ^ il) ∧ v.start = k.startFor w ∧ v.done = 0 ∧ v.next = 0
       ∧ v.st = (if dead then .abandoned else .active)
       ∧ ((u.core c).ls isS).serial = q.serial + 1 ∧ (∀ r, ((u.core c).ls isS).get r = q.get r)
       ∧ ((u.core c).ls isS).reading = (if reads then some v.id else none)
       ∧ ((u.core c).ls isS).pc = (if reads then q.pc else q.pc + 4)
       ∧ (∀ g, ((u.core c).ring g).itail = if op = .copyO ∧ g = r then (k.ring r).itail + v.n / (k.ring r).tsz else (k.ring g).itail)
       ∧ (u.core c).ls (!isS) = k.ls (!isS) ∧ (u.core c).seqs.x = k.seqs.x ∧ (u.core c).seqs.c = k.seqs.c
       ∧ (u.core c).tables.handles = k.tables.handles ∧ (u.core c).matrix = k.matrix ∧ (u.core c).atoms = k.atoms
       ∧ ∀ p, ((u.core c).regs.preg p).frame = (k.regs.preg p).frame ∧ ((u.core c).regs.preg p).lanes = (k.regs.preg p).lanes)
  ∧ (∀ (s : State) (c : CoreId) (isS : Bool) (h : BitVec 6) (a : BitVec 4) (hint : Hint) (t : Token),
       LsReady c isS s t →
       let k := s.core c
       let q := k.ls isS
       let v := k.handle h
       hdKind v = 0 → hdDim0 v ≠ 0 → hdDim1 v ≠ 0 → hdDim2 v ≠ 0 → hdDim3 v ≠ 0 → (hdLp v ≠ 0 → hdDim0 v ≤ hdPitch v) →
       ∃ u, exec (.prefetch h a hint t) s = .next u ∧ OnlyCore c s u ∧ SameBytes c s u
         ∧ ((u.core c).ls isS).pc = q.pc + 4 ∧ ((u.core c).ls isS).serial = q.serial ∧ (∀ r, ((u.core c).ls isS).get r = q.get r)
         ∧ (u.core c).land = { k.land with
               fetches := k.land.fetches
                 ++ [{ id := k.land.nextId, h := v, hint := hint, next := 0, n := hdDim0 v * hdDim1 v * hdDim2 v * hdDim3 v }]
               nextId := k.land.nextId + 1 }
         ∧ (u.core c).ls (!isS) = k.ls (!isS) ∧ (u.core c).seqs.x = k.seqs.x ∧ (u.core c).seqs.c = k.seqs.c)

/-- The atomics of S (R258, R259) with a legal, ungated result block: the operation is under way with its operands as read at issue, the
next serial is taken, and the sequencer goes on; nothing is stored yet. What an atomic does to the value it meets (R259): the new value
of `w` bits and CF; a `cas` that does not match writes nothing. -/
def Obligations.SAtomicWords : Prop :=
  (∀ (s : State) (c : CoreId) (o : Atom),
     LsReady c true s o.t →
     let k := s.core c
     let q := k.seqs.s
     let off := (q.get o.res).toNat
     let goes (i : Instr) (width : Nat) : Prop :=
       ∃ u f, exec i s = .next u ∧ OnlyCore c s u ∧ SameBytes c s u
         ∧ (u.core c).atoms = k.atoms ++ [f] ∧ f.id = k.nextAtom ∧ (u.core c).nextAtom = k.nextAtom + 1
         ∧ f.va = (q.get o.a).toNat ∧ f.off = off ∧ f.w = width ∧ f.ord = o.ord ∧ f.scope = o.scope ∧ f.sent = false
         ∧ f.req = { w := width, op := o.op, u := o.u, x := q.get o.v, y := q.get (o.v + 1) }
         ∧ (u.core c).seqs.s.serial = q.serial + 1 ∧ (u.core c).seqs.s.pc = q.pc + 4 ∧ (∀ r, (u.core c).seqs.s.get r = q.get r)
         ∧ (u.core c).seqs.l = k.seqs.l ∧ (u.core c).seqs.x = k.seqs.x ∧ (u.core c).seqs.c = k.seqs.c ∧ (u.core c).land = k.land
     (o.op = .cas → o.v.toNat % 2 = 0) → (o.u = true → o.op = .min ∨ o.op = .max) → off % 16 = 0 → k.inScratch off 16 = true →
     k.gate true off 16 = .free → k.sAcquiring = false →
     goes (.atom32 o) 32 ∧ goes (.atom64 o) 64)
  ∧ (∀ (r : AtomReq) (old : Nat), (r.w = 32 ∨ r.w = 64) → old < 2 ^ r.w →
       let x := r.x.toNat % 2 ^ r.w
       let y := r.y.toNat % 2 ^ r.w
       let s (v : Nat) : Int := if 2 ^ (r.w - 1) ≤ v then (v : Int) - 2 ^ r.w else v
       (r.op = .add → r.result old = (some ((old + x) % 2 ^ r.w), false))
       ∧ (r.op = .min → r.u = false → ∃ n, r.result old = (some n, false) ∧ s n = min (s old) (s x))
       ∧ (r.op = .max → r.u = false → ∃ n, r.result old = (some n, false) ∧ s n = max (s old) (s x))
       ∧ (r.op = .min → r.u = true → r.result old = (some (min old x), false))
       ∧ (r.op = .max → r.u = true → r.result old = (some (max old x), false))
       ∧ (r.op = .and → r.result old = (some (old &&& x), false)) ∧ (r.op = .or → r.result old = (some (old ||| x), false))
       ∧ (r.op = .xor → r.result old = (some (old ^^^ x), false)) ∧ (r.op = .swap → r.result old = (some x, false))
       ∧ (r.op = .cas → r.result old = if old = x then (some y, false) else (none, true)))

/-! ### C: vector words -/

/-- The vector words that write a register: destination, sources, whether v_b is a source, whether v_d is one, mod field, and what
they compute (R203 to R221). -/
def cVecForm (i : Instr) (k : Core) : Option (BitVec 7 × BitVec 7 × BitVec 7 × Bool × Bool × VMod × VecFn) :=
  match i with
  | .fadd o | .fsub o | .fmul o | .fdiv o | .fmin o | .fmax o | .cAdd o | .cSub o | .cMul o | .cMulh o | .cMin o | .cMax o | .cAnd o
  | .cOr o | .cXor o | .cShl o | .cShr o => (vecOf i).map (fun f => (o.d, o.a, o.b, true, false, o.m, f))
  | .fma o | .fms o | .fnma o | .fnms o => (vecOf i).map (fun f => (o.d, o.a, o.b, true, true, o.m, f))
  | .fabs o | .fneg o | .fsqrt o | .frcp o | .frsqrt o | .fexp2 o | .flog2 o | .ftanh o | .cAbs o | .cNeg o | .cNot o | .cClz o
  | .cPopc o | .cMov o | .cvt o _ _ | .rot o _ _ | .bcast o _ _ | .red o _ _ | .xpose o =>
    (vecOf i).map (fun f => (o.d, o.a, o.a, false, false, o.m, f))
  | .cSel d a b j => some (d, a, b, true, false, .plain, vecSel (k.mask j))
  | .vbx o j => some (o.d, o.a, o.a, false, false, o.m, vecBx (k.pat j))
  | _ => none

/-- A vector word and its form. -/
structure VecWord where
  i : Instr
  d : BitVec 7
  a : BitVec 7
  b : BitVec 7
  useB : Bool
  addend : Bool
  m : VMod
  f : VecFn

/-- The form as `cVecForm` gives it. -/
def VecWord.form (w : VecWord) : BitVec 7 × BitVec 7 × BitVec 7 × Bool × Bool × VMod × VecFn :=
  (w.d, w.a, w.b, w.useB, w.addend, w.m, w.f)

/-- A lone vector word (R203 to R207) whose sources are readable and whose destination has or can take a frame: the lanes that its
function computes stand in v_d, every other register reads as before, its flags are added to FCS, and C goes on at the next word. With
its stage bit clear it only goes on. When a flag that it raises is enabled it traps, with FCS as it was (R195). The words of a
bundle read all their sources before any of them writes (R43): each of two or three vector words computes from the registers as they
stand before the bundle, be its source another word's destination; their flags are added together, and C goes on behind the last. -/
def Obligations.CVectorWords : Prop :=
  ∀ (s : State) (c : CoreId) (v : VecWord) (vs : List VecWord),
    let k := s.core c
    let value (w : VecWord) : List W32 × Flags := w.f (k.vin (k.phys w.d) (k.phys w.a) (k.phys w.b) (k.selOf w.m))
    let sources (w : VecWord) : Prop := k.readable (k.phys w.a) ∧ (w.useB = true → k.readable (k.phys w.b))
      ∧ (w.addend = true ∨ k.fullWrite w.m = false → k.readable (k.phys w.d))
    CReady c s →
    (cVecForm v.i k = some v.form →
      (k.guardOff (modGuard v.m) = true → CGoes c s (exec v.i s) k.regs)
      ∧ (k.guardOff (modGuard v.m) = false → sources v → k.writable (k.phys v.d) →
          (fcsEn k.regs.fcs &&& (value v).2 = 0 → CSets c s (exec v.i s) (k.phys v.d) (value v).1 (value v).2)
          ∧ (fcsEn k.regs.fcs &&& (value v).2 ≠ 0 → exec v.i s
              = .next ((s.modCore c (fun k => k.setC { k.seqs.c with popped := true })).raise c .c causeFp (value v).2.toNat 0))))
    ∧ (vs.length = 2 ∨ vs.length = 3 → (vs.map (fun w => k.phys w.d)).Nodup →
      (∀ w ∈ vs, cVecForm w.i k = some w.form ∧ k.guardOff (modGuard w.m) = false ∧ sources w ∧ k.phys w.d < k.regs.pregs.length
        ∧ (k.regs.preg (k.phys w.d)).frame.isSome = true ∧ fcsEn k.regs.fcs &&& (value w).2 = 0) →
      let t := s.cBundle (vs.filterMap (fun w => planOf w.i))
      CSteps c s t (k.seqs.c.pc + BitVec.ofNat 64 (4 * vs.length))
        ∧ (∀ w ∈ vs, ((t.core c).regs.preg (k.phys w.d)).read = (value w).1)
        ∧ (∀ q, q ∉ vs.map (fun w => k.phys w.d) → ((t.core c).regs.preg q).read = (k.regs.preg q).read)
        ∧ { (t.core c).regs with pregs := k.regs.pregs } = { k.regs with
            fcs := vs.foldl (fun fcs w => fcs ||| (value w).2.setWidth 32) k.regs.fcs })

/-- `cvta` (R215, R216, R197): as a vector word, and at its retirement am_j takes the magnitudes of the lanes it converts. -/
def Obligations.CConvertWithMagnitude : Prop :=
  ∀ (s : State) (c : CoreId) (o : V2) (fmt : Fmt) (j : BitVec 2) (sat : Bool),
    let k := s.core c
    let r := vecCvt fmt .dyn sat (k.vin (k.phys o.d) (k.phys o.a) (k.phys o.a) (k.selOf o.m))
    let am := vecAm fmt (k.vin (k.phys o.a) (k.phys o.a) (k.phys o.a) (k.selOf o.m))
    let joined := k.sys.am.set j.toNat (amJoin (k.sys.am[j.toNat]'j.isLt) am) j.isLt
    let s' := s.modCore c (fun k => { k with sys := { k.sys with am := joined } })
    CReady c s → k.guardOff (modGuard o.m) = false → k.readable (k.phys o.a) → (k.fullWrite o.m = false → k.readable (k.phys o.d)) →
    k.writable (k.phys o.d) → fcsEn k.regs.fcs &&& r.2 = 0 → CSets c s' (exec (.cvta o fmt j sat) s) (k.phys o.d) r.1 r.2

/-- The floating-point and bitwise words compute each active, selected lane by itself, and keep every other lane of v_d (R162, R203,
R208 to R212); so does a conversion to a lane's width, and one to narrower elements packs the converted lanes of its active row and
writes zeros behind them (R215, R216). The axis words move lanes within the active shape (R217, R219), and `red` gives each active,
selected lane the reduction of its active row or column (R218), in the order of R199. A magnitude is rounded to an integer as its mode
says (R184), a value that FP32 holds is delivered as it is with no flag, and one of 2^128 or more overflows (R185). A NaN operand is
delivered quieted, the first in the word's order, and an invalid operation with none gives 0x7FC00000 (R187); the special cases of
`fsqrt`, `frsqrt`, `frcp`, `fdiv`, `flog2`, `fexp2` and `ftanh` are those of R189. -/
def Obligations.CLanesAreIndependent : Prop :=
  (∀ (o : V3) (p : V2) (v : VIn) (n : Nat), v.a.length = 1024 → v.b.length = 1024 → v.d.length = 1024 → n < 1024 →
     let a := (v.a[n]?).getD 0
     let b := (v.b[n]?).getD 0
     let d := (v.d[n]?).getD 0
     let active := n / 64 < v.rows ∧ n % 64 < v.cols ∧ v.sel n = true
     let computes (i : Instr) (x : W32) : Prop :=
       ∃ f, vecOf i = some f ∧ (active → (f v).1[n]? = some x) ∧ (¬ active → (f v).1[n]? = some d) ∧ (f v).1.length = 1024
     computes (.fadd o) (fpAdd v.rm a b).1 ∧ computes (.fsub o) (fpSub v.rm a b).1 ∧ computes (.fmul o) (fpMul v.rm a b).1
     ∧ computes (.fdiv o) (fpDiv v.rm a b).1 ∧ computes (.fmin o) (fpMinMax false a b).1 ∧ computes (.fmax o) (fpMinMax true a b).1
     ∧ computes (.fma o) (fpFma v.rm false false a b d).1 ∧ computes (.fms o) (fpFma v.rm false true a b d).1
     ∧ computes (.fnma o) (fpFma v.rm true false a b d).1 ∧ computes (.fnms o) (fpFma v.rm true true a b d).1
     ∧ computes (.cAnd o) (a &&& b) ∧ computes (.cOr o) (a ||| b) ∧ computes (.cXor o) (a ^^^ b)
     ∧ computes (.fabs p) (a &&& 0x7FFFFFFF) ∧ computes (.fneg p) (a ^^^ 0x80000000) ∧ computes (.cNot p) (~~~a)
     ∧ computes (.cMov p) a ∧ computes (.fsqrt p) (fpSqrt v.rm a).1 ∧ computes (.frcp p) (fpRcp v.rm a).1
     ∧ computes (.frsqrt p) (fpRsqrt v.rm a).1 ∧ computes (.fexp2 p) (fpExp2 v.rm a).1 ∧ computes (.flog2 p) (fpLog2 v.rm a).1
     ∧ computes (.ftanh p) (fpTanh v.rm a).1
     ∧ ∀ (rnd : Rnd), let rm := if rnd = .dyn then v.rm else rnd
         computes (.cvt p .f32 rnd) (BitVec.ofNat 32 (convert .f32 rm false (.fin (a.getLsbD 31) a.toInt.natAbs 0)).1)
         ∧ computes (.cvt p .i32 rnd) (BitVec.ofNat 32 (convert .i32 rm false (val32 a)).1))
  ∧ (∀ (p : V2) (v : VIn) (m : BitVec 6) (r c : Nat), v.a.length = 1024 → v.d.length = 1024 → v.rows ≤ 16 → v.cols ≤ 64 →
       r < v.rows → c < v.cols → (∀ n, v.sel n = true) →
       let moves (i : Instr) (dst : Nat × Nat) (fr : Nat × Nat) : Prop :=
         ∃ f, vecOf i = some f ∧ (f v).1[64 * dst.1 + dst.2]? = some ((v.a[64 * fr.1 + fr.2]?).getD 0) ∧ (f v).2 = 0
       moves (.rot p .row m) (r, (c + m.toNat) % v.cols) (r, c)
       ∧ moves (.rot p .col m) ((r + m.toNat) % v.rows, c) (r, c)
       ∧ moves (.bcast p .row m) (r, c) (r, m.toNat % v.cols) ∧ moves (.bcast p .col m) (r, c) (m.toNat % v.rows, c)
       ∧ moves (.xpose p) (r, c) (c % 16, 16 * (c / 16) + r))
  ∧ (∀ (p : V2) (v : VIn) (fmt : Fmt) (rnd : Rnd) (r c e : Nat), v.a.length = 1024 → v.d.length = 1024 → v.rows ≤ 16 → v.cols ≤ 64 →
       r < v.rows → c < v.cols → fmtBits fmt < 32 → e < 32 / fmtBits fmt →
       let w := fmtBits fmt
       let from_ := 32 / w * c + e
       let rm := if rnd = .dyn then v.rm else rnd
       ∃ f x, vecOf (.cvt p fmt rnd) = some f ∧ (f v).1[64 * r + c]? = some x
         ∧ x.toNat / 2 ^ (w * e) % 2 ^ w
             = if from_ < v.cols then (convert fmt rm false (val32 ((v.a[64 * r + from_]?).getD 0))).1 % 2 ^ w else 0)
  ∧ (∀ (p : V2) (v : VIn) (ax : Axis) (op : RedOp) (r c : Nat), v.a.length = 1024 → v.d.length = 1024 → v.rows ≤ 16 →
       v.cols ≤ 64 → r < v.rows → c < v.cols → v.sel (64 * r + c) = true →
       let line : List W32 := match ax with
         | .row => (List.range v.cols).map (fun j => (v.a[64 * r + j]?).getD 0)
         | .col => (List.range v.rows).map (fun j => (v.a[64 * j + c]?).getD 0)
       ∃ f, vecOf (.red p ax op) = some f ∧ (f v).1[64 * r + c]? = some (redTree (redStep op v.rm v.fmt) 6 line).1)
  ∧ (∀ (g : W32 → W32 → W32 × Flags) (n : Nat) (xs : List W32), 2 ≤ xs.length →
       let h := (xs.length + 1) / 2
       ∃ ys : List W32, (redTree g (n + 1) xs).1 = (redTree g n ys).1 ∧ ys.length = h
         ∧ (∀ i, i < xs.length - h → ys[i]? = some (g ((xs[i]?).getD 0) ((xs[i + h]?).getD 0)).1)
         ∧ ∀ i, xs.length - h ≤ i → i < h → ys[i]? = xs[i]?)
  ∧ (∀ (g : W32 → W32 → W32 × Flags) (n : Nat) (x : W32), redTree g n [x] = (x, 0))
  ∧ (∀ (rm : Rnd) (neg : Bool) (m sh : Nat),
       let r := roundShift rm neg m sh
       let up := r.1 = m / 2 ^ sh + 1
       (m % 2 ^ sh = 0 → r = (m / 2 ^ sh, false))
       ∧ (m % 2 ^ sh ≠ 0 → r.2 = true ∧ (r.1 = m / 2 ^ sh ∨ up)
         ∧ (rm = .rtz → ¬ up) ∧ (rm = .rup → (up ↔ neg = false)) ∧ (rm = .rdn → (up ↔ neg = true)) ∧ (rm = .rod → r.1 % 2 = 1)
         ∧ (rm = .rne → 2 * (r.1 * 2 ^ sh) ≤ 2 * m + 2 ^ sh ∧ 2 * m ≤ 2 * (r.1 * 2 ^ sh) + 2 ^ sh
             ∧ (2 * (m % 2 ^ sh) = 2 ^ sh → r.1 % 2 = 0))))
  ∧ (∀ (rm : Rnd) (neg : Bool) (m : Nat) (e : Int) (w : W32),
       (val32 w = .fin neg m e → round32 rm neg m e = (w, 0))
       ∧ (m ≠ 0 → 128 ≤ e + Nat.log2 m →
           (round32 rm neg m e).2 = flagOF ||| flagNX
           ∧ (rm = .rne ∨ (rm = .rup ∧ neg = false) ∨ (rm = .rdn ∧ neg = true) → (round32 rm neg m e).1 = inf32 neg)
           ∧ (rm = .rtz ∨ rm = .rod ∨ (rm = .rup ∧ neg = true) ∨ (rm = .rdn ∧ neg = false) →
               (round32 rm neg m e).1 = if neg then 0xFF7FFFFF else 0x7F7FFFFF)))
  ∧ (∀ (rm : Rnd) (np nz : Bool) (a b z : W32),
       let nan (x : W32) : Prop := (val32 x).isNan = true
       let quieted (x : W32) (ops : List W32) : W32 × Flags := (x ||| 0x00400000, flagIf (ops.any (fun y => (val32 y).signalling)) flagNV)
       let two (g : W32 → W32 → W32 × Flags) : Prop := (nan a → g a b = quieted a [a, b]) ∧ (¬ nan a → nan b → g a b = quieted b [a, b])
       let one (g : W32 → W32 × Flags) : Prop := nan a → g a = quieted a [a]
       let zero (x : W32) : Prop := x = 0 ∨ x = 0x80000000
       let negative : Prop := ¬ nan a ∧ a.getLsbD 31 = true ∧ a ≠ 0x80000000
       two (fpAdd rm) ∧ two (fpSub rm) ∧ two (fpMul rm) ∧ two (fpDiv rm)
       ∧ one (fpSqrt rm) ∧ one (fpRcp rm) ∧ one (fpRsqrt rm) ∧ one (fpExp2 rm) ∧ one (fpLog2 rm) ∧ one (fpTanh rm)
       ∧ (nan z → fpFma rm np nz a b z = quieted z [z, a, b]) ∧ (¬ nan z → nan a → fpFma rm np nz a b z = quieted a [z, a, b])
       ∧ (¬ nan z → ¬ nan a → nan b → fpFma rm np nz a b z = quieted b [z, a, b])
       ∧ fpAdd rm 0x7F800000 0xFF800000 = (nan32, flagNV)
       ∧ (zero a → fpMul rm a 0x7F800000 = (nan32, flagNV) ∧ fpSqrt rm a = (a, flagNRT)
           ∧ fpRsqrt rm a = (a ||| 0x7F800000, flagDZ ||| flagNRT) ∧ fpRcp rm a = (a ||| 0x7F800000, flagDZ)
           ∧ fpLog2 rm a = (0xFF800000, flagDZ) ∧ fpDiv rm a a = (nan32, flagNV))
       ∧ (negative → fpSqrt rm a = (nan32, flagNV ||| flagNRT) ∧ fpRsqrt rm a = (nan32, flagNV ||| flagNRT)
           ∧ fpLog2 rm a = (nan32, flagNV))
       ∧ (∀ neg m e, val32 b = .fin neg m e → m ≠ 0 → zero a →
           fpDiv rm b a = (((a ^^^ b) &&& 0x80000000) ||| 0x7F800000, flagDZ))
       ∧ fpRsqrt rm 0x7F800000 = (0, 0) ∧ fpLog2 rm 0x3F800000 = (0, 0) ∧ fpExp2 rm 0xFF800000 = (0, 0)
       ∧ fpExp2 rm 0x7F800000 = (0x7F800000, 0) ∧ fpTanh rm 0x7F800000 = (0x3F800000, 0) ∧ fpTanh rm 0xFF800000 = (0xBF800000, 0))

/-- The integer words (R212): a lone one with readable sources writes its lanes, traps on no value and raises no flag; it acts element
by element in the width of SHP.FMT, modulo 2^w, signed for signed formats. -/
def Obligations.CIntegerElements : Prop :=
  (∀ (s : State) (c : CoreId) (o : V3) (p : V2),
    let k := s.core c
    let runs (i : Instr) (d a b : BitVec 7) (m : VMod) : Prop :=
      k.guardOff (modGuard m) = false → k.readable (k.phys a) → k.readable (k.phys b) → (k.fullWrite m = false → k.readable (k.phys d)) →
      k.writable (k.phys d) →
      ∃ f, vecOf i = some f
        ∧ CSets c s (exec i s) (k.phys d) (f (k.vin (k.phys d) (k.phys a) (k.phys b) (k.selOf m))).1 0
    CReady c s →
    (∀ i ∈ [Instr.cAdd o, .cSub o, .cMul o, .cMulh o, .cMin o, .cMax o, .cAnd o, .cOr o, .cXor o, .cShl o, .cShr o],
      runs i o.d o.a o.b o.m)
    ∧ ∀ i ∈ [Instr.cAbs p, .cNeg p, .cNot p, .cClz p, .cPopc p], runs i p.d p.a p.a p.m)
  ∧ (∀ (o : V3) (p : V2) (v : VIn) (n e : Nat), v.a.length = 1024 → v.b.length = 1024 → v.d.length = 1024 → n < 1024 →
    v.fmt ∈ ([.i32, .i8, .i4, .n8, .n4, .f32] : List Fmt) → n / 64 < v.rows → n % 64 < v.cols → v.sel n = true →
    let w := elemWidth v.fmt
    let signed := v.fmt ∈ ([.i32, .i8, .i4, .f32] : List Fmt)
    let bits (x : W32) : Nat := x.toNat / 2 ^ (w * e) % 2 ^ w
    let int (x : W32) : Int := if signed ∧ 2 ^ (w - 1) ≤ bits x then (bits x : Int) - 2 ^ w else bits x
    let a := int ((v.a[n]?).getD 0)
    let b := int ((v.b[n]?).getD 0)
    let ua := bits ((v.a[n]?).getD 0)
    let ub := bits ((v.b[n]?).getD 0)
    let sh := ub
    let computes (i : Instr) (x : Int) : Prop :=
      ∃ f y, vecOf i = some f ∧ (f v).1[n]? = some y ∧ (bits y : Int) = x % 2 ^ w ∧ (f v).2 = 0
    e < 32 / w →
    computes (.cAdd o) (a + b) ∧ computes (.cSub o) (a - b) ∧ computes (.cMul o) (a * b)
    ∧ computes (.cMulh o) (a * b / 2 ^ w) ∧ computes (.cMin o) (min a b) ∧ computes (.cMax o) (max a b)
    ∧ computes (.cShl o) (if sh < w then a * 2 ^ sh else 0)
    ∧ computes (.cShr o) (if sh < w then a / 2 ^ sh else if a < 0 then -1 else 0)
    ∧ computes (.cAbs p) (if a < 0 then -a else a) ∧ computes (.cNeg p) (-a)
    ∧ computes (.cAnd o) (ua &&& ub : Nat) ∧ computes (.cOr o) (ua ||| ub : Nat) ∧ computes (.cXor o) (ua ^^^ ub : Nat)
    ∧ computes (.cNot p) (2 ^ w - 1 - ua)
    ∧ (∃ z : Nat, computes (.cClz p) z ∧ z ≤ w ∧ (∀ j, j < z → ua.testBit (w - 1 - j) = false)
        ∧ (z < w → ua.testBit (w - 1 - z) = true))
    ∧ computes (.cPopc p) ((List.range w).countP (fun j => ua.testBit j)))

/-- `cmp`, `treemask` and `vbxl` (R213, R221, R222): the mask or pattern that each writes; masks keep their other bits; every other
register is as before. -/
def Obligations.CMaskWords : Prop :=
  ∀ (s : State) (c : CoreId) (cond : Cond) (j : BitVec 3) (a b : BitVec 7) (g : Guard),
    let k := s.core c
    let va := k.vread (k.phys a)
    let vb := k.vread (k.phys b)
    let shp := k.regs.shp
    let lane (l : List W32) (n : Nat) : W32 := (l[n]?).getD 0
    let truth (n : Nat) : Bool × Flags := cmpLane cond (shpFmt shp) (lane va n) (lane vb n)
    let active (n : Nat) : Bool := decide (n / 64 < shpRows shp) && decide (n % 64 < shpCols shp)
    let flags : Flags := ((List.range 1024).filter active).foldl (fun f n => f ||| (truth n).2) 0
    let mask (m : BitVec 1024) : Prop := ∀ n, n < 1024 → m.getLsbD n = if active n then (truth n).1 else (k.mask j).getLsbD n
    CReady c s → k.guardOff g = false → k.readable (k.phys a) → va.length = 1024 →
    (k.readable (k.phys b) → vb.length = 1024 → fcsEn k.regs.fcs &&& flags = 0 →
      ∃ m, mask m ∧ CGoes c s (exec (.cmp cond j a b g) s)
        { k.regs with masks := k.regs.masks.set j.toNat m j.isLt, fcs := k.regs.fcs ||| flags.setWidth 32 })
    ∧ (∃ ms : Vector (BitVec 1024) 8, (∀ i : BitVec 3, ms[i.toNat]'i.isLt
          = if (i - j).toNat < 4 then ((treeMasks va)[(i - j).toNat]?).getD 0 else k.mask i)
        ∧ CGoes c s (exec (.treemask j a g) s) { k.regs with masks := ms })
    ∧ (let pat := (List.range 64).map (fun i => (lane va (i / 4)).extractLsb' (8 * (i % 4)) 8)
      CGoes c s (exec (.vbxl a j g) s) { k.regs with pats := k.regs.pats.set j.toNat pat j.isLt })

/-- Draft trees (R222): `treemask` writes the 64 rows of m_k to m_(k+3) and nothing else, from the parents in the first 64 lanes of v_a:
a root's row holds the node alone, a child of a present node has its parent's row and itself, and any other node's row is empty. A clear
guard writes nothing. -/
def Obligations.DraftTreeRows : Prop :=
  ∀ (s : State) (c : CoreId) (j : BitVec 3) (a : BitVec 7) (g : Guard),
    let k := s.core c
    let parent (n : Nat) : W32 := ((k.vread (k.phys a))[n]?).getD 0
    let row (ms : Vector (BitVec 1024) 8) (n i : Nat) : Bool :=
      (ms[(j + BitVec.ofNat 3 (n / 16)).toNat]'(BitVec.isLt _)).getLsbD (64 * (n % 16) + i)
    CReady c s → j = 0 ∨ j = 4 →
    (k.guardOff g = true → CGoes c s (exec (.treemask j a g) s) k.regs)
    ∧ (k.guardOff g = false → k.readable (k.phys a) → (k.vread (k.phys a)).length = 1024 →
      ∃ ms : Vector (BitVec 1024) 8, CGoes c s (exec (.treemask j a g) s) { k.regs with masks := ms }
        ∧ (∀ m : BitVec 3, ¬ (m - j).toNat < 4 → ms[m.toNat]'m.isLt = k.mask m)
        ∧ ∀ n i, n < 64 → i < 64 →
          row ms n i = if parent n = 0xFFFFFFFF then decide (i = n)
            else if (parent n).toNat < n ∧ (List.range 64).any (row ms (parent n).toNat) = true then (row ms (parent n).toNat i || decide (i = n))
            else false)

/-- The shape, loop and state words of C (R160, R162, R223, R224, R166): `shape`, `cloop` with its four cases, `nop`, `end`, `fcs.w`
and `fcs.r`. -/
def Obligations.CControlWords : Prop :=
  ∀ (s : State) (c : CoreId) (rows : BitVec 4) (cols : BitVec 6) (fmt : Fmt) (off : BitVec 14) (d a : BitVec 7) (g : Guard),
    let k := s.core c
    let r := k.regs
    let nr := nrOf k.pool.rfb
    let turned : Nat := (r.rrb + nr - 1) % nr
    let target : W64 := k.seqs.c.pc + BitVec.ofInt 64 (4 * off.toInt)
    let loops (regs : CRegs) (pc : W64) : Prop :=
      ∃ t, exec (.cloop off) s = .next t ∧ CSteps c s t pc ∧ SameVregs k (t.core c)
        ∧ { (t.core c).regs with pregs := r.pregs } = { regs with pregs := r.pregs }
    CReady c s →
    CGoes c s (exec (.shape rows cols fmt) s)
      { r with shp := BitVec.ofNat 32 (fmt.code * 2 ^ 12 + rows.toNat * 2 ^ 6 + cols.toNat) }
    ∧ (r.cnt ≠ 0 → loops { r with cnt := r.cnt - 1, stg := 2 * r.stg + 1, rrb := turned } target)
    ∧ (r.cnt = 0 → 1 < r.epi.toNat → loops { r with epi := r.epi - 1, stg := 2 * r.stg, rrb := turned } target)
    ∧ (r.cnt = 0 → r.epi = 1 → loops { r with epi := 0, stg := 2 * r.stg, rrb := turned } (k.seqs.c.pc + 4))
    ∧ (r.cnt = 0 → r.epi = 0 → loops r (k.seqs.c.pc + 4))
    ∧ CGoes c s (exec .cNop s) r
    ∧ (∃ t, exec .cEnd s = .next t ∧ OnlyCore c s t ∧ SameBytes c s t ∧ (t.core c).seqs.c.ended = true
        ∧ (t.core c).seqs.x = k.seqs.x ∧ (t.core c).seqs.l = k.seqs.l ∧ (t.core c).seqs.s = k.seqs.s
        ∧ (t.core c).regs = r ∧ (t.core c).queues = k.queues ∧ (t.core c).matrix = k.matrix)
    ∧ (k.guardOff g = false → k.readable (k.phys a) →
        CGoes c s (exec (.fcsW a g) s) { r with fcs := ((k.vread (k.phys a)).headD 0) &&& 0x00033F3F })
    ∧ (k.guardOff g = false → k.writable (k.phys d) →
        CSets c s (exec (.fcsR d g) s) (k.phys d) (r.fcs :: List.replicate 1023 0) 0)

/-- `ctok`, `sema` and `semv` of C (R223, R224, R254) when nothing holds them: the tokens popped and pushed, with the lane that a
value token carries, and the semaphore's new count. -/
def Obligations.CTokenWords : Prop :=
  ∀ (s : State) (c : CoreId) (val : Option (BitVec 7)) (t : Token) (i : BitVec 6) (n : BitVec 7) (g : Guard),
    let k := s.core c
    let v : Option W32 := val.map (fun a => (k.vread (k.phys a)).headD 0)
    let kp := k.popAll (tokPops .c t)
    let goes (j : Instr) (queues : Vector (List (Option W32)) 12) (sems : Vector W16 64) (sovf : W64) : Prop :=
      ∃ u, exec j s = .next u ∧ OnlyCore c s u ∧ SameBytes c s u
        ∧ (u.core c).seqs = { k.seqs with c := { k.seqs.c with
            pc := k.seqs.c.pc + 4, popped := false, ret := [], fault := none, wait := none, stall := 0 } }
        ∧ { u.core c with
              seqs := k.seqs, queues := k.queues
              sync := { (u.core c).sync with waiters := k.sync.waiters, sems := k.sync.sems, sovf := k.sync.sovf } } = k
        ∧ (u.core c).queues = queues ∧ (u.core c).sync.sems = sems ∧ (u.core c).sync.sovf = sovf
    CReady c s →
    ((∀ a, val = some a → k.readable (k.phys a)) → k.canPop (tokPops .c t) = true → kp.room (tokPushes .c t v) = true →
      goes (.ctok val t) (kp.pushAll (tokPushes .c t v)).queues k.sync.sems k.sync.sovf)
    ∧ (k.guardOff g = false → k.firstWaiter .c (WaitFor.onSem i) = true → n.toNat ≤ (k.sem i).toNat →
      goes (.cSema i n g) k.queues (k.setSem i (BitVec.ofNat 16 ((k.sem i).toNat - n.toNat))).sync.sems k.sync.sovf)
    ∧ (k.guardOff g = false → goes (.cSemv i n g) k.queues (k.semAdd i n.toNat).sync.sems (k.semAdd i n.toNat).sync.sovf)

/-- The port words (R150 to R152) on an enabled port of the right direction whose footprint lies inside the scratchpad and is held by
no copy and by no issued tile word or draw: `vld` brings the footprint's words to the active lanes, `vst` puts the active lanes there and changes no byte outside the
footprint, and both move the port on; `pcfg` of a legal configuration starts the port afresh. -/
def Obligations.CPortWords : Prop :=
  ∀ (s : State) (c : CoreId) (d a : BitVec 7) (p : BitVec 2) (m : VMod) (g : Guard),
    let k := s.core c
    let rows := shpRows k.regs.shp
    let cols := shpCols k.regs.shp
    let foot := (k.port p).foot rows cols
    let at_ (n : Nat) : Nat := (foot.vbase + (n / 64 * foot.rowp + 4 * (n % 64) : Nat)).toNat
    let active (n : Nat) : Bool := decide (n / 64 < rows) && decide (n % 64 < cols)
    let va := k.vread (k.phys a)
    let old := k.vread (k.phys d)
    let moved : Vector Port 4 := k.tables.ports.set p.toNat ((k.port p).advance foot) p.isLt
    CReady c s →
    (k.guardOff (modGuard m) = false → (k.fullWrite m = false → k.readable (k.phys d)) → k.writable (k.phys d) → old.length = 1024 →
      k.portCheck (k.port p) foot false = none → k.portWait foot false = none →
      ∃ t lanes, exec (.vld d p m) s = .next t ∧ OnlyCore c s t ∧ SameBytes c s t
        ∧ (t.core c).seqs.c.pc = k.seqs.c.pc + 4 ∧ ((t.core c).regs.preg (k.phys d)).lanes = lanes
        ∧ (∀ n, n < 1024 → lanes[n]? = some (if active n && k.selOf m n then BitVec.ofNat 32 (k.pool.scratch.readLe (at_ n) 4)
            else (old[n]?).getD 0))
        ∧ (t.core c).tables = { k.tables with ports := moved }
        ∧ (∀ q, q ≠ k.phys d → ((t.core c).regs.preg q).read = (k.regs.preg q).read)
        ∧ { (t.core c).regs with pregs := k.regs.pregs } = k.regs)
    ∧ (k.guardOff g = false → k.readable (k.phys a) → k.portCheck (k.port p) foot true = none → k.portWait foot true = none →
      ∃ t, exec (.vst p a g) s = .next t ∧ OnlyCore c s t ∧ t.mem = s.mem
        ∧ (t.core c).seqs.c.pc = k.seqs.c.pc + 4
        ∧ (∀ b, (∀ n, n < 1024 → active n = true → ¬ (at_ n ≤ b ∧ b < at_ n + 4)) →
            (t.core c).pool.scratch.read b = k.pool.scratch.read b)
        ∧ (4 * cols ≤ foot.rowp → va.length = 1024 → ∀ n, n < 1024 → active n = true →
            (t.core c).pool.scratch.readLe (at_ n) 4 = ((va[n]?).getD 0).toNat)
        ∧ (t.core c).tables.ports = moved ∧ SameVregs k (t.core c) ∧ { (t.core c).regs with pregs := k.regs.pregs } = k.regs)
    ∧ (k.guardOff g = false → k.readable (k.phys a) → portLegal (portCfgOf va) = true →
      ∃ t, exec (.pcfg p a g) s = .next t ∧ CSteps c s (t.setCore c { t.core c with tables := k.tables }) (k.seqs.c.pc + 4)
        ∧ (t.core c).regs = k.regs
        ∧ (t.core c).tables = { k.tables with
            ports := k.tables.ports.set p.toNat { cfg := portCfgOf va, idx := 0, last := none } p.isLt })

/-- The recipe words (R169, R172, R175) on a register that exists: what `rtag` records, what `rdrop` leaves by the register's state, and the status that
`rstat` reads. Replay (R173): a vector word whose source is DROPPED, and whose recipe's static operands read without replay, reads the value
that the words of the recipe give one after another, on the shape and in the rounding mode recorded and with the pinned values of
its ports; that register takes a free frame and is TAGGED again. With no free frame the word traps with detail 2, with none in a powered bank
it waits for one, and a LOST source traps with detail 1. -/
def Obligations.CRecipeWords : Prop :=
  ∀ (s : State) (c : CoreId) (d a : BitVec 7) (j : BitVec 5) (g : Guard) (b : Binding) (i : Instr) (m : VMod) (f : VecFn),
    let k := s.core c
    let h := k.phys d
    let p := k.regs.preg h
    let src := k.phys a
    let from_ (self : List W32) (v : Nat) : List W32 :=
      if v < 64 then k.vread v else if v = 64 then self else ((b.pins[v - 65]?).join.map k.pinLanes).getD zeroLanes
    let seen (self : List W32) (w : Nat) : VIn :=
      { a := from_ self (w / 2 ^ 11 % 2 ^ 7), b := from_ self (w / 2 ^ 4 % 2 ^ 7), d := self, rows := shpRows b.shp, cols := shpCols b.shp
        fmt := shpFmt b.shp, rm := (Rnd.ofCode b.rm.toNat).getD .rne, sel := fun _ => true }
    let value := (recipeWords (k.recipe b.k)).foldl (fun self w =>
      match decodeCWord w with
      | .error _ => self
      | .ok x => match vecOf x with
        | none => self
        | some y => (y (seen self w)).1) zeroLanes
    let r := f { k.vin h src src (k.selOf m) with a := value, b := value }
    let goes (i : Instr) (post : Core → Prop) : Prop :=
      ∃ t, exec i s = .next t ∧ CSteps c s t (k.seqs.c.pc + 4)
        ∧ { (t.core c).regs with pregs := k.regs.pregs } = k.regs ∧ post (t.core c)
    CReady c s → k.guardOff g = false → h < k.regs.pregs.length →
    (k.rtagBad h j = false →
      goes (.rtag d j g) (fun l => l.regs.preg h = { p with st := .tagged, bind := some (k.bindingOf j) }
        ∧ ∀ q, q ≠ h → l.regs.preg q = k.regs.preg q))
    ∧ (k.rtagBad h j = true → exec (.rtag d j g) s = .next (s.raise c .c causeMisaligned 0x0A 0))
    ∧ (p.st = .tagged → goes (.rdrop d g) (fun l => l.regs.preg h = { p with st := .dropped, frame := none, lanes := [] }
        ∧ ∀ q, q ≠ h → l.regs.preg q = k.regs.preg q))
    ∧ (p.st = .plain → goes (.rdrop d g) (fun l => (l.regs.preg h).st = .lost ∧ (l.regs.preg h).frame = none
        ∧ ∀ q, q ≠ h → (l.regs.preg q).read = (k.regs.preg q).read ∧ (l.regs.preg q).frame = (k.regs.preg q).frame))
    ∧ (p.st ≠ .tagged → p.st ≠ .plain → goes (.rdrop d g) (fun l => l.regs = k.regs))
    ∧ (k.writable h → CSets c s (exec (.rstat d a g) s) h (k.regStatus (k.phys a) :: List.replicate 1023 0) 0)
    ∧ (cVecForm i k = some (d, a, a, false, false, m, f) → k.guardOff (modGuard m) = false → p.frame.isSome = true →
        (k.fullWrite m = false → k.readable h) →
        ((k.regs.preg src).st = .lost → exec i s = .next (s.raise c .c causeRecipeLost 0x01 0))
        ∧ ((k.regs.preg src).st = .dropped → (k.regs.preg src).bind = some b →
          (∀ v ∈ recipeStatics (k.recipe b.k), k.readable v) →
          (k.freeFrames = [] → exec i s = .next (s.raise c .c causeRecipeLost 0x02 0))
          ∧ (k.freeFrames ≠ [] → k.poweredFree = none → exec i s = .next (s.modCore c (fun k => k.setWait .c (some .frame))))
          ∧ (∀ fr, k.poweredFree = some fr → h ≠ src → fcsEn k.regs.fcs &&& r.2 = 0 →
              ∃ t, exec i s = .next t ∧ CSteps c s t (k.seqs.c.pc + 4)
                ∧ ((t.core c).regs.preg h).read = r.1
                ∧ ((t.core c).regs.preg src).read = value ∧ ((t.core c).regs.preg src).frame = some fr
                ∧ (k.bindNames b h = false → ((t.core c).regs.preg src).st = .tagged ∧ ((t.core c).regs.preg src).bind = some b)
                ∧ (∀ q, q ≠ h → q ≠ src → ((t.core c).regs.preg q).read = (k.regs.preg q).read)
                ∧ { (t.core c).regs with pregs := k.regs.pregs } = { k.regs with fcs := k.regs.fcs ||| r.2.setWidth 32 })))

/-- The multiply-accumulate words. -/
def mmaWords (o : Mma) : List (Instr × Fmt) :=
  [(.mmaFp4 o, .fp4), (.mmaI4 o, .i4), (.mmaN4 o, .n4), (.mmaE4m3 o, .e4m3), (.mmaE5m2 o, .e5m2), (.mmaI8 o, .i8), (.mmaN8 o, .n8),
    (.mmaBf16 o, .bf16), (.mmaFp16 o, .fp16), (.mmazFp4 o, .fp4), (.mmazI4 o, .i4), (.mmazN4 o, .n4), (.mmazE4m3 o, .e4m3),
    (.mmazE5m2 o, .e5m2), (.mmazI8 o, .i8), (.mmazN8 o, .n8), (.mmazBf16 o, .bf16), (.mmazFp16 o, .fp16)]

/-- A matrix word issues (R226, R230, R235 to R237, R243 to R245, R249), when no earlier word of C can retire now, nothing holds its bundle and its tests pass: it pops its
tokens, captures its operands, takes its frame, uses its rings' next tiles, and stands last in the issue order; C goes on at the next
word, and nothing else differs. -/
def Obligations.CMatrixWordsIssue : Prop :=
  ∀ (s : State) (c : CoreId) (o : Mma) (tile : BitVec 3) (a : BitVec 7) (q st : BitVec 2) (f : TileFmt) (off : BitVec 11)
    (m : Option (BitVec 6)) (tok : Token),
    let k := s.core c
    let pa := k.phys a
    let lo := off.toNat * 1024
    let n := 4096 * tileBytes f
    let handle : W256 := (m.map k.handle).getD 0
    let bits := drawBytes handle (k.vread pa)
    let issues (i : Instr) (reads : List Nat) (dest : Option Nat) (tables : Tables) (w : MWord → MWord) : Prop :=
      let pops := tokPops .c (mwordToken i)
      (∀ r ∈ reads, k.readable r ∧ k.awaited r = false) → (∀ r ∈ dest, k.writable r ∧ k.awaited r = false) →
      k.streamFull (mwordStream i) = false → k.canPop pops = true →
      ∃ t, exec i s = .next t ∧ OnlyCore c s t ∧ SameBytes c s t
        ∧ (t.core c).seqs = { k.seqs with c := { k.seqs.c with
            pc := k.seqs.c.pc + 4, popped := false, fault := none, wait := none, stall := 0
            ret := k.seqs.c.ret ++ [.mat k.matrix.nextId] } }
        ∧ (t.core c).matrix = { k.matrix with
            words := k.matrix.words ++ [w (MWord.fresh k.matrix.nextId i)], nextId := k.matrix.nextId + 1 }
        ∧ (t.core c).tables = tables ∧ (t.core c).queues = (k.popAll pops).queues
        ∧ (∀ r, { (t.core c).regs.preg r with frame := (k.regs.preg r).frame } = k.regs.preg r
            ∧ ((t.core c).regs.preg r).frame
              = if dest = some r ∧ (k.regs.preg r).frame = none then k.poweredFree else (k.regs.preg r).frame)
        ∧ { t.core c with
              seqs := k.seqs, matrix := k.matrix, tables := k.tables, queues := k.queues
              regs := { (t.core c).regs with pregs := k.regs.pregs }
              sync := { (t.core c).sync with waiters := k.sync.waiters } } = k
    s.focus = (c, .c) → k.seqs.c.popped = false → (∀ v ∈ k.seqs.c.ret.head?, ∃ w ∈ k.matrix.words, v = .mat w.id) →
    (∀ v ∈ k.matrix.words, v.stage ≠ .done) →
    (∀ i ∈ mmaWords o, k.mmaBad o i.2 = false → (k.ring o.ra).nextTile < (k.ring o.ra).tail → (k.ring o.rb).nextTile < (k.ring o.rb).tail →
      k.fetchGate o = .free →
      issues i.1 [] none
        { k.tables with
          rings := (k.tables.rings.set o.ra.toNat { k.ring o.ra with uses := (k.ring o.ra).uses + 1 } o.ra.isLt).set
            o.rb.toNat { k.ring o.rb with uses := (k.ring o.rb).uses + 1 } o.rb.isLt }
        (fun w => { w with
          tileA := (k.ring o.ra).nextTile, tileB := (k.ring o.rb).nextTile
          spans := [(k.ring o.ra).nextSpan, (k.ring o.rb).nextSpan] }))
    ∧ issues (.tld tile a q st tok) [] (some pa) k.tables (fun w => { w with dst := some pa })
    ∧ issues (.tst tile a q st tok) [pa] none k.tables (fun w => { w with vec := k.vread pa })
    ∧ issues (.tzero tile st tok) [] none k.tables id
    ∧ issues (.tscale tile st a tok) [pa] none k.tables (fun w => { w with vec := k.vread pa })
    ∧ (lo + n ≤ k.scratchSize → k.gate true lo n = .free → issues (.tsave tile st f off tok) [] none k.tables
        (fun w => { w with spans := [{ write := true, off := lo, n := n }] }))
    ∧ (lo + n ≤ k.scratchSize → k.gate false lo n = .free → issues (.tload tile st f off tok) [] none k.tables
        (fun w => { w with spans := [{ write := false, off := lo, n := n }] }))
    ∧ (k.drawCheck m pa = none → (m.isSome = true → hdDim0 handle ≠ 0 → k.gate false bits.1 bits.2 = .free) →
      issues (.draw tile st m a tok) [pa] (some pa) k.tables
        (fun w => { w with
          vec := k.vread pa, dst := some pa, handle := handle
          spans := if hdDim0 handle = 0 then [] else [{ write := false, off := bits.1, n := bits.2 }] }))

/-! ### Steps of the matrix engine and the draw unit -/

/-- The steps of the matrix unit (R227, R228, R232, R235 to R237, R242, R247, R248, R176), each before the core settles: the word that
starts takes its effect on its tile or the scratchpad; a running word completes; the draw that completes has its four lanes and moves
the generator; a gated bank powers up while C waits for a frame. A word that issued in one bundle with a later store to the scratchpad
meets the bytes as they stood before that store, and a tile saved by it leaves that store's bytes in place (R43, R245). -/
def Obligations.MatrixUnitSteps : Prop :=
  ∀ (s : State) (c : CoreId) (u n bank : Nat) (w : MWord),
    let k := s.core c
    let x := mwordTile w.word
    let tile := k.tile x
    let entry (l : List W32) (e : Nat) : W32 := (l[e]?).getD 0
    let words (g : MWord → MWord) : List MWord := k.matrix.words.map (fun v => if v.id = w.id then g v else v)
    let withKept (m : Mem) : Mem := w.kept.foldl (fun m p => m.writeN p.1 [p.2]) m
    let seen := { k with pool := { k.pool with scratch := withKept k.pool.scratch } }
    let starts (post : Core → Prop) : Prop :=
      ∃ t, exec (.matrixWordStart c u) s = .next (t.settle c) ∧ OnlyCore c s t ∧ t.mem = s.mem ∧ (t.core c).seqs = k.seqs
        ∧ SameVregs k (t.core c) ∧ (t.core c).queues = k.queues ∧ (t.core c).sys = k.sys ∧ post (t.core c)
    let noted (l : Core) : Prop := { l with matrix := k.matrix, activity := k.activity, fill := k.fill } = k
    let onTile (val : Nat → W32) : Prop :=
      starts (fun l => { l with matrix := k.matrix } = k ∧ (∀ y, y ≠ x → l.tile y = k.tile y)
        ∧ (∀ e, e < 4096 → (l.tile x)[e]? = some (val e)) ∧ l.matrix.words = words (fun v => { v with stage := .started }))
    (k.nextStart u = some w → tile.length = 4096 →
      (∀ y d q st tok, w.word = .tld y d q st tok → starts (fun l => { l with matrix := k.matrix } = k
        ∧ l.matrix.tiles = k.matrix.tiles
        ∧ l.matrix.words = words (fun v => { v with stage := .started, vec := (tile.drop (1024 * q.toNat)).take 1024 }))
      )
      ∧ (∀ y a q st tok, w.word = .tst y a q st tok → w.vec.length = 1024 →
          onTile (fun e => if e / 1024 = q.toNat then entry w.vec (e % 1024) else entry tile e))
      ∧ (∀ y st tok, w.word = .tzero y st tok → onTile (fun _ => 0))
      ∧ (∀ y st a tok, w.word = .tscale y st a tok →
          onTile (fun e => scaleEntry (entry tile e) (entry w.vec (64 + e / 64)) (entry w.vec (e % 64))))
      ∧ (∀ y st f off tok, w.word = .tload y st f off tok →
          starts (fun l => { l with matrix := k.matrix, tables := k.tables } = k
            ∧ l.tables = { k.tables with
                rings := k.tables.rings.map (fun r => r.touch (off.toNat * 1024) (off.toNat * 1024 + 4096 * tileBytes f)) }
            ∧ (∀ y, y ≠ x → l.tile y = k.tile y)
            ∧ (∀ e, e < 4096 → (l.tile x)[e]?
                = some (loadEntry f (seen.pool.scratch.readLe (off.toNat * 1024 + e * tileBytes f) (tileBytes f))))
            ∧ l.matrix.words = words (fun v => { v with stage := .started })))
      ∧ (∀ y st f off tok, w.word = .tsave y st f off tok →
          starts (fun l => (∃ m, Wrote k.pool.scratch m (off.toNat * 1024) (tile.flatMap (saveEntry f)) ∧ l.pool.scratch = withKept m)
            ∧ l.matrix.tiles = k.matrix.tiles ∧ l.matrix.words = words (fun v => { v with stage := .started })))
      ∧ (∀ y st m d tok, w.word = .draw y st m d tok →
          starts (fun l => noted l ∧ l.matrix.tiles = k.matrix.tiles
            ∧ ∀ v ∈ l.matrix.words, v.id = w.id → v.stage = .started))
      ∧ (∀ o f zero, mwordMma w.word = some (o, f, zero) →
          let ra := k.ring o.ra
          let rb := k.ring o.rb
          let groups := ra.k / fmtGroup f
          let kept := (List.range groups).filter (fun g =>
            !(o.zs && skipGroup (ra.sum (w.tileA % ra.tiles)) (rb.sum (w.tileB % rb.tiles)) g))
          let line (ls : List (List Group)) (j g : Nat) : Group := (((ls[j]?).getD [])[g]?).getD { scale := 127, elems := [] }
          let la := seen.tileLines ra f w.tileA
          let lb := seen.tileLines rb f w.tileB
          ra.k = rb.k →
          starts (fun l => noted l ∧ (∀ y, y ≠ o.tile → l.tile y = k.tile y)
            ∧ (∀ e, e < 4096 → (l.tile o.tile)[e]? = some (kept.foldl (fun acc g =>
                if isInt f && o.ns then groupInt acc (line la (e / 64) g) (line lb (e % 64) g)
                else groupFp f acc (line la (e / 64) g) (line lb (e % 64) g)) (if zero then 0 else entry tile e)))
            ∧ l.matrix.words = words (fun v =>
                { v with stage := .started, dense := kept.length, skip := groups - kept.length }))))
    ∧ (k.runningMat n = some w → mwordUnit w.word ≠ 2 →
        ∃ t, exec (.matrixWordCompletion c n) s = .next (t.settle c) ∧ OnlyCore c s t
          ∧ t.core c = { k with matrix := { k.matrix with words := words (fun v => { v with stage := .done }) } })
    ∧ (k.runningMat n = some w → mwordUnit w.word = 2 →
        let theta := w.drawEnd k.sys.dkey k.sys.dctr
        (∃ t, exec (.drawCompletion c n) s = .next (t.settle c) ∧ OnlyCore c s t
          ∧ t.core c = { k with
              sys := { k.sys with dctr := if theta.2 then k.sys.dctr + 1 else k.sys.dctr }
              matrix := { k.matrix with words := words (fun v => { v with stage := .done, res := theta.1 }) } })
        ∧ (w.maskAbsent = true → theta = ([0xFFFFFFFF, 0, 0, 2], false))
        ∧ (w.maskAbsent = false → w.sum = 0 → theta = ([0xFFFFFFFF, 0, 0, if w.nan then 12 else 4], false))
        ∧ (w.maskAbsent = false → w.sum ≠ 0 → theta.2 = true ∧ theta.1[2]? = some w.sum))
    ∧ (k.seqs.c.wait = some .frame → bank ∈ k.pool.gated → 64 * bank < k.pool.rfb →
        exec (.bankPowerUp c bank) s
          = .next (s.setCore c
              ({ k with pool := { k.pool with gated := k.pool.gated.filter (fun b => b != bank) } }.note .power 1)))

/-! ### Steps of a core: answers to its requests -/

/-- A message of core `c` has been taken from its inbox: the fabric is as before without it, and nothing else outside the core
differs. -/
def TookMessage (c : CoreId) (n : Nat) (s t : State) : Prop :=
  t.fabric = (s.takeInbox (coreRouter c) n).fabric ∧ { t with cores := s.cores, fabric := s.fabric } = s
    ∧ ∀ d, d ≠ c → t.core d = s.core d

/-- Copy `v` once the memory sectors of its sector `idx` stand as `ps` (R107, R126): answered whole, the sector is no longer out, and it
is held unless one met a code or the copy is abandoned. -/
def copyAnswered (v : Copy) (idx : Nat) (ps : List Part) : Copy :=
  if ps.all (fun p => p.data.isSome || p.failed) then
    { v with
      out := v.out.filter (fun p => p.idx != idx), redo := v.redo.filter (fun i => i != idx)
      held := if v.st = .abandoned ∨ ps.any Part.failed = true then v.held else (idx, v.assemble idx ps) :: v.held }
  else { v with out := v.out.map (fun p => if p.idx = idx then { p with parts := ps } else p) }

/-- A part of a sector that waits for a multicast sector at `pa` (R92): unanswered, of this module's memory. -/
def partWaits (pa : Nat) (p : Part) : Bool := p.pa == pa && p.pm == 0 && p.data.isNone && !p.failed

/-- Copy `u` is copy `v` once its waiting parts at `pa` have the bytes `data` (R92, R107): a sector whose last part that was is no longer
out, and is held unless a part met a code or the copy is abandoned; nothing else differs. -/
def MulticastServed (pa : Nat) (data : List Byte) (v u : Machine.Copy) : Prop :=
  let ps (o : OutSec) : List Part := o.parts.map (fun p => if partWaits pa p then { p with data := some data, lost := false } else p)
  let whole (o : OutSec) : Bool := o.parts.any (partWaits pa) && (ps o).all (fun p => p.data.isSome || p.failed)
  let took (o : OutSec) : Bool := whole o && v.st != .abandoned && !(ps o).any Part.failed
  { u with out := v.out, redo := v.redo, held := v.held } = v
    ∧ u.out = (v.out.filter (fun o => !whole o)).map (fun o => { o with parts := ps o })
    ∧ u.redo = v.redo.filter (fun i => !v.out.any (fun o => whole o && o.idx == i))
    ∧ (∀ o ∈ v.out, took o = true → u.held.lookup o.idx = some (v.assemble o.idx (ps o)))
    ∧ ∀ i, v.out.any (fun o => took o && o.idx == i) = false → u.held.lookup i = v.held.lookup i

/-- Answers to copies (R92, R95, R107, R118, R121, R122, R126), each before the core settles: a read reply whose last part has come
makes its sector held and no longer out, and one for a part already answered is discarded; one that meets a code notes the fault of a
copy that is not abandoned; a multicast reply serves every outstanding read of its address, of copies, of copies forgotten by their register and of
a prefetch's line fills; a flushing read is noted; a performed write is past; what a lost reply was to bring is to be asked for again if it is still to come, and a prefetch's
line fill asks at once; a refused put sector is sent again at once when a window covers it, else 256 cycles later, and meets code 0x10
after 4,096 refusals; a copy that can park does: it keeps held sectors below LANDED + 64, gives up those of the highest index first, its register
reads STATE 2 and COUNT START + LANDED, its barrier has the report, and one record (R69) stands in the ring, with a bit of MISS for each sector
that exists and is neither held nor performed. -/
def Obligations.CopyAnswers : Prop :=
  ∀ (s : State) (c : CoreId) (n id idx part pa code hp : Nat) (f : Flit) (data : List Byte) (v : Copy) (o : OutSec) (covered : Bool)
    (r : Refused) (fl : SecFault) (task : Task),
    let k := s.core c
    let who : Who := .copy c id idx part
    let comes (i : Instr) (b : Body) (l : Core) : Prop :=
      s.coreMsg c n = some f → f.body = b → ∃ t, exec i s = .next (t.settle c) ∧ TookMessage c n s t ∧ t.core c = l
    let parts (g : Part → Part) : List Part := o.parts.zipIdx.map (fun p => if p.2 = part then g p.1 else p.1)
    let landed := parts (fun p => if p.data.isSome || p.failed then p else { p with data := some data, lost := false })
    let failed := parts (fun p => { p with failed := true, lost := false })
    let lost := parts (fun p => if p.data.isSome || p.failed then p
      else if v.st = .abandoned then { p with failed := true } else { p with lost := true })
    let rest := v.out.filter (fun p => p.idx != idx)
    let others := v.refused.filter (fun q => q.idx != idx)
    let past := if v.st = .abandoned then v.perf else idx :: v.perf
    let unread := v.got.filter (fun p => p.1 != idx)
    let fills := k.l1fills.filter (fun g => g.multi && g.line == lineOf pa && g.want.getLsbD (sectorIn pa))
    let onlyCopies (l : Core) : Prop := { l with land := { l.land with copies := k.land.copies, orphans := k.land.orphans } } = k
    let q := s.tenant task.tenant
    let fault : SecFault :=
      { idx := idx, va := ((o.parts[part]?).map Part.va).getD 0, code := code, badPte := false
        host := decide (2 ^ 39 ≤ ((o.parts[part]?).map Part.pa).getD 0), wr := v.op.isS }
    let refused : Core :=
      if v.st = .abandoned then k.setCopy (copyAnswered v idx failed)
      else k.setCopy { copyAnswered v idx failed with faults := v.faults ++ [fault] }
    let count := ((v.refused.find? (fun q => q.idx == idx)).map Refused.count).getD 0
    k.copy id = some v →
    (idx < v.n → v.out.find? (fun p => p.idx == idx) = some o → code = 0 ∨ code = 0x30 →
      comes (.sectorLanding c n) (.readReply pa data code who) (k.setCopy (copyAnswered v idx landed)))
    ∧ (idx < v.n → v.out.find? (fun p => p.idx == idx) = some o → code ≠ 0 → code ≠ 0x30 →
      comes (.sectorLanding c n) (.readReply pa data code who) refused
      ∧ comes (.writeAcknowledgement c n) (.writeAck code who) refused)
    ∧ (idx = v.n + 1 → s.coreMsg c n = some f → f.body = .readReply pa data code who →
      exec (.sectorLanding c n) s = .next (((s.coreTake c n).reportFlushed c id).settle c))
    ∧ (idx = v.n → comes (.sectorLanding c n) (.readReply pa data code who) (k.setCopy { v with flush := 2 })
      ∧ comes (.lossNotice c n) (.loss pa (some who)) (k.setCopy { v with flush := 0 }))
    ∧ (((k.land.copies ++ k.land.orphans).map Copy.id).Nodup → (k.l1fills.map L1Fill.id).Nodup →
      (∀ d ∈ k.land.copies ++ k.land.orphans, (d.out.map OutSec.idx).Nodup) → s.coreMsg c n = some f →
      (f.body = .multiReply pa data code →
        ∃ t, exec (.sectorLanding c n) s = .next (t.settle c) ∧ TookMessage c n s t
          ∧ onlyCopies { t.core c with l1 := k.l1, l1fills := k.l1fills }
          ∧ (∀ d ∈ k.land.copies, ∃ u, (t.core c).copy d.id = some u ∧ (if d.op.isS then u = d else MulticastServed pa data d u))
          ∧ (∀ u ∈ (t.core c).land.orphans, ∃ d ∈ k.land.orphans, if d.op.isS then u = d else MulticastServed pa data d u)
          ∧ ∀ g ∈ fills, (t.core c).l1Wants g.id pa = false)
      ∧ (f.body = .loss pa none → k.task = some task →
        ∃ t : State, exec (.lossNotice c n) s = .next (t.settle c) ∧ { t with cores := s.cores, fabric := s.fabric } = s
          ∧ t.fabric = (fills.foldl (fun s g => s.sendSlice c pa
              (.read (sectorOf pa * 32) 32 0 task.tenant g.hint true (.fill c g.id g.va 1))) (s.coreTake c n)).fabric
          ∧ (∀ d, d ≠ c → t.core d = s.core d) ∧ onlyCopies (t.core c)
          ∧ ∀ d ∈ k.land.copies, d.op.isS = false → d.st ≠ .abandoned →
              (∀ o ∈ d.out, o.parts.all (fun p => p.data.isSome || p.failed) = false) →
              (t.core c).copy d.id = some { d with out := d.out.map (fun o =>
                { o with parts := o.parts.map (fun p => if partWaits pa p then { p with lost := true } else p) }) }))
    ∧ (v.out.any (fun p => p.idx == idx) = true → code = 0 ∨ code = 0x30 →
      comes (.writeAcknowledgement c n) (.writeAck code who)
        (k.setCopy { v with out := rest, perf := past, got := unread, refused := others }))
    ∧ (v.out.any (fun p => p.idx == idx) = true →
      comes (.putAcknowledgement c n) (.putAck who) (k.setCopy { v with out := rest, perf := past, got := unread, refused := others })
      ∧ comes (.putRefusal c n) (.putRefuse covered who) (k.setCopy
          (if v.st = .abandoned then { v with out := rest }
          else if covered then { v with out := rest, redo := v.redo ++ [idx], refused := others }
          else { v with out := rest, refused := { idx := idx, again := s.time + 256, count := count + 1 } :: others })))
    ∧ (idx < v.n → v.out.find? (fun p => p.idx == idx) = some o →
        comes (.lossNotice c n) (.loss pa (some who)) (k.setCopy (copyAnswered v idx lost)))
    ∧ (idx < v.n → v.out.find? (fun p => p.idx == idx) = none → comes (.lossNotice c n) (.loss pa (some who)) k)
    ∧ (v.st = .active → v.out.any (fun p => p.idx == idx) = false → v.redo.contains idx = false →
        v.refused.find? (fun q => q.idx == idx) = some r →
        (r.again ≤ s.time → r.count < 4096 →
          exec (.putResendDelay c id idx) s = .next ((s.setCore c (k.setCopy { v with redo := v.redo ++ [idx] })).settle c))
        ∧ (4096 ≤ r.count → ∃ t, exec (.putRefusalLimit c id idx) s = .next (t.settle c) ∧ OnlyCore c s t
            ∧ t.core c = k.setCopy { v with refused := others, faults := v.faults ++ [{
                idx := idx, va := hdBase v.h / 2 ^ 24 % 16 * 2 ^ 24 + (hdBase v.h % 2 ^ 21 + 32 * idx), code := 0x10
                badPte := false, host := false, wr := true }] }))
    ∧ (k.canPark v = true → v.firstFault = some fl → k.task = some task →
      let park := exec (.copyPark c id) s
      let reports := v.bar = true ∧ v.reported < v.done
      (reports → v.needsFlush = true → v.hostLast = some hp → v.flush = 0 →
        ∃ t : State, park = .next (t.settle c) ∧ t.core c = k.setCopy { v with flush := 1 }
          ∧ Posts c (sliceRouter (sliceFor hp)) (.read hp 0 0 task.tenant v.hint true (.copy c id v.n 0)) s t)
      ∧ (¬ reports ∨ v.needsFlush = false → q.waiting = [] → q.held = 0 → q.fqFree = true →
        let seq := if v.op.isS then 3 else 1
        ∃ (t : State) (u : Machine.Copy) (miss rec : Nat), park = .next (t.settle c) ∧ (∀ d, d ≠ c → t.core d = s.core d) ∧ (t.core c).copy id = some u
          ∧ u = { v with
                st := .parked, held := u.held, perf := v.perf.filter (fun i => decide (i < v.done + 64)), faults := [], redo := []
                refused := [], reported := u.reported, barPa := none }
          ∧ (∀ i b, u.held.lookup i = some b → v.held.lookup i = some b ∧ i < v.done + 64)
          ∧ (∀ i b, v.held.lookup i = some b → i < v.done + 64 → u.held.lookup i = none →
              ∀ j b', u.held.lookup j = some b' → j < i)
          ∧ (((k.land.copies ++ k.land.orphans).map Copy.id).Nodup → 32 ≤ k.lagoonFree →
              ∀ i, i < v.done + 64 → u.held.lookup i = v.held.lookup i)
          ∧ ((t.core c).wm v.w).st = 2 ∧ ((t.core c).wm v.w).count = v.start + BitVec.ofNat 32 v.done
          ∧ (∀ b, reports → v.barPa = some b → u.reported = v.done ∧ t.fabric = (s.sendSlice c b
              (.barrier b task.tenant (.report (BitVec.ofNat 32 (32 * (v.done - v.reported)))) (.report c id v.barVa seq v.copyId))).fabric)
          ∧ (¬ reports ∨ v.barPa = none → u.reported = v.reported ∧ t.fabric = s.fabric)
          ∧ (t.tenant task.tenant).fqtail = q.fqtail + 1
          ∧ Wrote s.mem t.mem (q.fqAddr + 32 * (q.fqtail.toNat % q.fqSize.getD 1)) (leBytes 32 rec)
          ∧ miss < 2 ^ 64
          ∧ (∀ i, i < 64 → (miss.testBit i = true ↔
              v.done + i < v.n ∧ u.held.lookup (v.done + i) = none ∧ v.done + i ∉ v.perf))
          ∧ rec = miss * 2 ^ 192 + v.done % 2 ^ 32 * 2 ^ 128 + fl.va % 2 ^ 48 * 2 ^ 64 + v.copyId.toNat * 2 ^ 32
              + bitCode fl.badPte * 2 ^ 28 + bitCode fl.host * 2 ^ 27 + bitCode fl.wr * 2 ^ 26 + seq * 2 ^ 24 + c.val * 2 ^ 16
              + task.tenant.val * 2 ^ 8 + fl.code % 256))

/-- Answers to X and to atomics, and puts (R139, R122, R260, R282, R302), each before the core settles: a load's value reaches its
register, its sector the L1 where the load belongs to a line fill, and an acquire invalidates and refreshes its line unless the sector was met meanwhile; a performed
store is forgotten; bytes of a block are kept for their word, and a block read at once is one for the L1 too; a line fill's sector is installed; an atomic's result block has the old value and
the status word, or the atomic parks; a put sector of the task's gang is taken and acknowledged, or refused. Choices of the model: a put of
another gang is refused as not covered (log 74); a result block is written whatever footprint is live (log 36); an acquire refreshes its
sector alone, and the L1 serves a block only as one read brought it (log 97). -/
def Obligations.WordAnswers : Prop :=
  ∀ (s : State) (c : CoreId) (x : CtxId) (n id pa code va q off : Nat) (f : Flit) (data : List Byte) (l : XLoad) (a : AtomFly)
    (old : W64) (cf covered : Bool) (w : Who) (kp : Core) (g : Nat) (fill : Option Nat),
    let k := s.core c
    let v := k.ctx x
    let ten := (k.tenant).getD 0
    let comes (i : Instr) (b : Body) (post : State → Prop) : Prop :=
      s.coreMsg c n = some f → f.body = b → ∃ t, exec i s = .next (t.settle c) ∧ post t
    let took (l : Core) (t : State) : Prop := TookMessage c n s t ∧ t.core c = l
    let rest := v.loads.filter (fun m => m.id != id)
    let kl : Core := match l.acq, l.fill with
      | some sc, some m =>
        if k.l1Wants m pa then ((k.l1Unwant m pa).l1Acquire sc).l1Refresh ten pa data l.hint else k.l1Acquire sc
      | some sc, none => k.l1Acquire sc
      | none, some m => k.l1Fill m ten pa data
      | none, none => k
    let kb : Core := match fill with
      | some m =>
        let kf := (k.l1Fill m ten pa (data.take 32)).l1Fill m ten (pa + 32) (data.drop 32)
        if k.l1Wants m pa && k.l1Wants m (pa + 32) then kf.l1Pair pa else kf
      | none => k
    let answered (code : Nat) : Core :=
      let kept := k.pool.scratch.writeN (a.off + 8) (leBytes 8 (2 ^ 31 + (if cf then 2 ^ 8 else 0) + code % 256))
      { k with pool := { k.pool with scratch := if code = 0x22 then kept else kept.writeN a.off (leBytes 8 old.toNat) } }
    (v.loads.find? (fun m => m.id == id) = some l → s.recordWaits c (.ctx c x) = false →
      (code = 0 ∨ code = 0x30 → comes (.loadValueReturn c n) (.readReply pa data code (.load c x id))
        (took (kl.setCtx x ({ v with loads := rest }.set l.d (loadValue (data.drop (l.pa - pa)) l.size l.signed))))))
    ∧ (s.recordWaits c (.ctx c x) = false → comes (.writeAcknowledgement c n) (.writeAck code (.store c x id))
        (took (k.setCtx x { v with stores := v.stores.filter (fun m => m.id != id) })))
    ∧ (v.loads.find? (fun m => m.id == id) = none → s.recordWaits c (.ctx c x) = false → v.op = some (.block va id fill none) →
        code = 0 ∨ code = 0x30 → s.coreMsg c n = some f → f.body = .readReply pa data code (.load c x id) →
        ∃ t, exec (.loadValueReturn c n) s = .next t ∧ took (kb.setCtx x { v with op := some (.block va id fill (some (data, code))) }) t)
    ∧ (s.recordWaits c (.unit c) = false → s.coreMsg c n = some f → f.body = .readReply pa data code (.fill c id va q) →
        ∃ t, exec (.sectorLanding c n) s = .next t
          ∧ took (if code = 0 ∨ code = 0x30 then k.l1Fill id ten pa data else k.l1Unwant id pa) t)
    ∧ (k.atoms.find? (fun b => b.id == id) = some a → s.recordWaits c (.atom c id) = false →
        (code = 0 ∨ code = 0x30 ∨ code = 0x22 → comes (.atomicReply c n) (.atomReply old cf code (.atom c id)) (fun t =>
          TookMessage c n s t ∧ (t.core c).atoms = k.atoms.filter (fun b => b.id != a.id)
            ∧ (∀ b, (t.core c).pool.scratch.read b = (answered code).pool.scratch.read b)
            ∧ (t.core c).seqs = k.seqs ∧ SameVregs k (t.core c) ∧ (t.core c).land = k.land ∧ (t.core c).queues = k.queues))
        ∧ (code ≠ 0 → code ≠ 0x30 → code ≠ 0x22 → comes (.atomicReply c n) (.atomReply old cf code (.atom c id)) (fun t =>
          t = (s.coreTake c n).parkAtom c a { va := a.va, code := code, badPte := false, host := a.host }))
        ∧ comes (.atomicReply c n) (.readReply pa data code (.atom c id)) (took (k.setAtom { a with flush := 2 }))
        ∧ comes (.lossNotice c n) (.loss pa (some (.atom c id))) (took (k.setAtom { a with flush := 0 })))
    ∧ (k.inGang g = true → k.putSector off data = .taken kp → comes (.putSectorArrival c n) (.put c off data g w) (fun t =>
        t = ((s.coreTake c n).setCore c kp).send (coreRouter c) f.src f.pri (.putAck w)))
    ∧ (k.inGang g = true → k.putSector off data = .refused covered → s.coreMsg c n = some f → f.body = .put c off data g w →
        exec (.putSectorArrival c n) s = .next ((s.coreTake c n).send (coreRouter c) f.src f.pri (.putRefuse covered w)))
    ∧ (k.inGang g = false → s.coreMsg c n = some f → f.body = .put c off data g w →
        exec (.putSectorArrival c n) s = .next ((s.coreTake c n).send (coreRouter c) f.src f.pri (.putRefuse false w)))

/-! ### Steps of a core: barriers and mailboxes -/

/-- Barrier answers and wake-ups at a core (R269 to R274): a wake-up for a core whose WAIT bit was set serves every entry of its object whose phase is past: the entry
goes, its semaphore rises by 1 and the L1 keeps its sticky lines alone; entries whose phase is not past register again. An answer
retires its word, and serves its entry when it is woken at once; a code becomes the fault of the word, and the entry that a refused `bwait`
has taken is given back. -/
def Obligations.BarrierAnswers : Prop :=
  ∀ (s : State) (c : CoreId) (x : CtxId) (n pa code e : Nat) (phase : BitVec 31) (reg woken : Bool) (f : Flit) (task : Task) (va : Nat)
    (entry : Option Nat),
    let k := s.core c
    let u := k.ctx x
    let mine := k.sync.entries.filter (fun d => d.pa == pa)
    let due := mine.filter (fun d => phasePast phase d.phase)
    let late := mine.filter (fun d => !phasePast phase d.phase)
    let served (t : State) : Prop :=
      { t with cores := s.cores, fabric := s.fabric } = s ∧ (∀ d, d ≠ c → t.core d = s.core d)
        ∧ t.fabric = (late.foldl (fun t d => t.sendSlice c pa (.barrier pa task.tenant (.register d.phase d.sem) (.entry c d.id)))
            (s.coreTake c n)).fabric
        ∧ (t.core c).sync.entries = k.sync.entries.filter (fun d => !due.any (fun g => g.id == d.id))
        ∧ (∀ i, ((t.core c).sem i).toNat = min 65535 ((k.sem i).toNat + due.countP (fun d => d.sem == i)))
        ∧ (t.core c).l1 = (if due = [] then k.l1 else k.l1.filter (fun l => l.hint == .sticky))
        ∧ (t.core c).regs = k.regs ∧ (t.core c).pool = k.pool ∧ (t.core c).queues = k.queues ∧ (t.core c).seqs.l = k.seqs.l
        ∧ (t.core c).seqs.s = k.seqs.s ∧ (t.core c).seqs.c = k.seqs.c ∧ ∀ y, y ≠ x → (t.core c).ctx y = k.ctx y
    let passed (t : State) : Prop :=
      (t.core c).ctx x = { u with pc := u.pc + 4, op := none, fault := none, wait := none, stall := 0 }
    let faulted (t : State) : Prop :=
      (t.core c).ctx x = { u with op := none, fault := some { va := va, code := code, badPte := false, host := false }, wait := none }
    k.task = some task → s.coreMsg c n = some f →
    (∀ set, f.body = .wake pa phase set → set.getLsbD (colOf c).val = true →
      ∃ t, exec (.wakeUp c n) s = .next (t.settle c) ∧ served t ∧ (t.core c).ctx x = u)
    ∧ (∀ set, f.body = .wake pa phase set → set.getLsbD (colOf c).val = false →
      exec (.wakeUp c n) s = .next (s.coreTake c n))
    ∧ (f.body = .barrierAck pa phase reg true code (.entry c e) →
      ∃ t, exec (.wakeUp c n) s = .next (t.settle c) ∧ served t ∧ (t.core c).ctx x = u)
    ∧ (f.body = .barrierAck pa phase reg woken 0 (.barrier c x) → u.op = some (.barrier va entry) → s.recordWaits c (.ctx c x) = false →
      ∃ t, exec (.barrierAcknowledgement c n) s = .next (t.settle c) ∧ passed t
        ∧ (if reg && woken then served t else TookMessage c n s t ∧ (t.core c).sync.entries = k.sync.entries))
    ∧ (f.body = .barrierAck pa phase reg woken code (.barrier c x) → code ≠ 0 → u.op = some (.barrier va entry) →
      s.recordWaits c (.ctx c x) = false →
      ∃ t, exec (.barrierAcknowledgement c n) s = .next t ∧ faulted t ∧ TookMessage c n s t
        ∧ (∀ y, y ≠ x → (t.core c).ctx y = k.ctx y)
        ∧ { t.core c with seqs := { (t.core c).seqs with x := k.seqs.x }, sync := k.sync } = k
        ∧ (t.core c).sync = { k.sync with entries := k.sync.entries.filter (fun d => !entry.any (fun e => e == d.id)) })

/-- Mailboxes (R275, R276): a message is taken while one of the four slots is free and refused otherwise; a core that runs no task of
the sender's gang takes and discards it; a taken message retires its `msend`, a refused one is sent again 256 cycles later; the oldest message starts the lowest
dormant context, with s1 to s8 the message and s9 the source word. -/
def Obligations.MailboxSteps : Prop :=
  ∀ (s : State) (c dst : CoreId) (x : CtxId) (n at_ : Nat) (f : Flit) (m : Mail) (w : Who) (taken : Bool) (rest : List Mail) (g : Nat),
    let k := s.core c
    let u := k.ctx x
    let reply (t : Bool) (s : State) : State := s.send (coreRouter c) f.src f.pri (.mailAnswer t w)
    let arrival := exec (.messageArrival c n) s
    let answer := exec (.messageAcceptance c n) s
    (s.coreMsg c n = some f → f.body = .mail c m (.gang g) w →
      (k.inGang g = false → arrival = .next (reply true (s.coreTake c n)))
      ∧ (k.inGang g = true → k.sync.mail.length < 4 → arrival = .next (reply true ((s.coreTake c n).setCore c
          { k with sync := { k.sync with mail := k.sync.mail ++ [m] } })))
      ∧ (k.inGang g = true → 4 ≤ k.sync.mail.length → arrival = .next (reply false (s.coreTake c n))))
    ∧ (s.coreMsg c n = some f → f.body = .mailAnswer taken (.msg c x) → u.op = some (.mail dst m none) →
      (taken = true → ∃ t, answer = .next (t.settle c) ∧ TookMessage c n s t ∧ OnlyCtx x k (t.core c)
        ∧ (t.core c).ctx x = { u with pc := u.pc + 4, op := none, fault := none, wait := none, stall := 0 })
      ∧ (taken = false → k.trap.halt = none → k.trap.stop = false → ∃ t, answer = .next t ∧ TookMessage c n s t
        ∧ t.core c = k.setCtx x { u with op := some (.mail dst m (some (s.time + 256))) }))
    ∧ (u.op = some (.mail dst m (some at_)) → at_ ≤ s.time →
      ∃ t, exec (.messageResend c x) s = .next t ∧ Posts c (coreRouter dst) (.mail dst m (.gang k.gangNo) (.msg c x)) s t
        ∧ t.core c = k.setCtx x { u with op := some (.mail dst m none) })
    ∧ (k.sync.mail = m :: rest → k.dormantCtx = some x → k.task.isSome = true → k.trap.stop = false →
      ∃ t, exec (.handlerStart c) s = .next t ∧ OnlyCore c s t ∧ SameBytes c s t ∧ (t.core c).sync = { k.sync with mail := rest }
        ∧ (∀ y, y ≠ x → (t.core c).ctx y = k.ctx y)
        ∧ (t.core c).l1 = k.l1.filter (fun l => l.hint == .sticky)
        ∧ ((t.core c).ctx x).run = .runnable ∧ ((t.core c).ctx x).pc = m.hnd
        ∧ (∀ i : Fin 8, ((t.core c).ctx x).get (BitVec.ofNat 5 (i.val + 1)) = (m.dw[i.val]?).getD 0)
        ∧ ((t.core c).ctx x).get 9 = m.src
        ∧ (∀ r : BitVec 5, 9 < r.toNat → ((t.core c).ctx x).get r = 0)
        ∧ ((t.core c).ctx x).stores = u.stores ∧ ((t.core c).ctx x).hostStore = u.hostStore)

/-! ### Traps -/

/-- Core `l` is core `k` in its handler after trap `t` (R371): tcause, tepc, tval and XPC or XEND are written, HMODE is 1, X0 runs at
4 × HIDX with its registers as they were; every other sequencer stands where it stood, and nothing else differs. -/
def HandlerEntered (k l : Core) (t : TrapInfo) : Prop :=
  let ended := (k.ctx 0).run = .ended
  l.sys = { k.sys with
      tcause := BitVec.ofNat 64 (t.detail.toNat * 2 ^ 16 + ctxCode t.seq * 2 ^ 12 + seqCode t.seq * 2 ^ 8 + t.cause.toNat)
      tepc := t.epc.setWidth 64, tval := t.val
      txpc := if ended then k.sys.txpc else (k.ctx 0).pc &&& 0xFFFFFFFC }
    ∧ l.trap = { k.trap with halt := none, hmode := true, xend := k.trap.xend || decide ended }
    ∧ (l.ctx 0).pc = k.hidx.setWidth 64 * 4 ∧ (l.ctx 0).run = .runnable ∧ (l.ctx 0).regs = (k.ctx 0).regs
    ∧ (∀ y, y ≠ 0 → (l.ctx y).pc = (k.ctx y).pc ∧ (l.ctx y).regs = (k.ctx y).regs ∧ (l.ctx y).run = (k.ctx y).run)
    ∧ (∀ b, (l.ls b).pc = (k.ls b).pc ∧ (l.ls b).a = (k.ls b).a ∧ (l.ls b).lc = (k.ls b).lc ∧ (l.ls b).pend = (k.ls b).pend)
    ∧ l.seqs.c.pc = k.seqs.c.pc ∧ l.seqs.c.ret = k.seqs.c.ret
    ∧ { l with seqs := k.seqs, sys := k.sys, trap := k.trap, sync := { l.sync with waiters := k.sync.waiters } } = k

/-- Taking a trap (R369 to R373): with a handler, outside it, the core stops and enters it once it has drained, at once or at
TRAP_ENTRY; in the handler, or without one, the gang is terminated: every member still at work stops, and the gang keeps the cause.
Return from the handler (R321, R372): HMODE and XEND are cleared, X0 goes on at XPC × 4, or stays ended when it had ended; every other
sequencer stands where it was stopped, and nothing else differs; elsewhere `tret` is an illegal word. `end` in the handler terminates
the gang with the cause in tcause. -/
def Obligations.TrapIsTaken : Prop :=
  (∀ (s : State) (c : CoreId) (t : TrapInfo) (task : Task) (g : Gang),
     let k := s.core c
     let u := s.takeTrap c t
     k.trap.stop = false →
     (k.trap.hmode = false → k.hidx ≠ noHandler → k.abandonWaits.drained = true →
       OnlyCore c s u ∧ HandlerEntered k (u.core c) t)
     ∧ (k.trap.hmode = false → k.hidx ≠ noHandler → k.abandonWaits.drained = false →
       OnlyCore c s u ∧ (u.core c).trap = { k.trap with halt := some t } ∧ (∀ a, (u.core c).mayIssue a = false)
         ∧ (∀ a, (u.core c).pc a = k.pc a) ∧ (∀ y, ((u.core c).ctx y).regs = (k.ctx y).regs) ∧ (u.core c).sys = k.sys
         ∧ (u.core c).regs = k.regs ∧ (u.core c).pool = k.pool ∧ (u.core c).queues = k.queues)
     ∧ (k.trap.halt = some t → k.drained = true →
       ∃ w, exec (.trapEntry c) s = .next w ∧ OnlyCore c s w ∧ HandlerEntered k (w.core c) t)
     ∧ (k.trap.hmode = true ∨ k.hidx = noHandler → k.task = some task → s.gang task.gang = some g →
       (∀ d ∈ g.live, (u.core d).trap.stop = true ∧ ∀ a, (u.core d).mayIssue a = false)
         ∧ u.gang g.id = some { g with
             st := .killing
             cause := if g.st = .killing then g.cause else (tcauseOf t).setWidth 32 }
         ∧ u.mem = s.mem ∧ ∀ d, d ∉ g.live → u.core d = s.core d))
  ∧ (∀ (s : State) (c : CoreId) (x : CtxId),
       let k := s.core c
       s.focus = (c, .x x) →
       (x = 0 → k.trap.hmode = true →
         ∃ t, exec .tret s = .next t ∧ OnlyCore c s t ∧ (t.core c).trap = { k.trap with hmode := false, xend := false }
           ∧ ((t.core c).ctx 0).run = (if k.trap.xend then .ended else (k.ctx 0).run)
           ∧ (k.trap.xend = false → ((t.core c).ctx 0).pc = k.sys.txpc)
           ∧ ((t.core c).ctx 0).regs = (k.ctx 0).regs ∧ ((t.core c).ctx 0).op = none ∧ (∀ y, y ≠ 0 → (t.core c).ctx y = k.ctx y)
           ∧ { t.core c with
                 seqs := { (t.core c).seqs with x := k.seqs.x }, trap := k.trap
                 land := { (t.core c).land with copies := k.land.copies } } = k
           ∧ (t.core c).land.copies = k.land.copies.map (fun v => { v with hold := false }))
       ∧ (x ≠ 0 ∨ k.trap.hmode = false → exec .tret s = .next (s.raise c (.x x) causeIllegal 0 0))
       ∧ (x = 0 → k.trap.hmode = true → exec .xEnd s = .next (s.terminate c (k.sys.tcause.setWidth 32))))

/-- Waits that last too long (R377, R379): an agent held by parked copies alone for more than WSL × 10 µs traps at its word, and a copy-family
word whose next index group, or next source sector, has been held so for as long traps at its own; when every
sequencer and context that runs has waited 4,096 core cycles and no such wait has a producer, the first of the waiters traps with the
blocked set. -/
def Obligations.WaitLimits : Prop :=
  ∀ (s : State) (c : CoreId) (a : Agent) (task : Task) (rest : List Agent) (secs : List Nat) (load : Bool) (w : BitVec 4),
    let k := s.core c
    let wsl := (s.tenant task.tenant).ttrap.toNat % 2 ^ 16
    let stall := exec (.watermarkStallLimit c a) s
    let long (t : Option Stalled) : Prop := ∃ v, t = some v ∧ 16000 * wsl < v.cycles
    let past (t : Option Stalled) (held : Option (Nat × Nat × List Block)) (x : Nat) (hs : List Block) : Prop :=
      long t ∧ (∃ i, held = some (i, x, hs)) ∧ hs ≠ [] ∧ ∀ b ∈ hs, b.parked = true
    k.task = some task →
    (wsl ≠ 0 → 16000 * wsl < k.stallOf a → k.mayIssue a = true → k.stalledOnParked a = true →
      (k.waitOf a = some (.gate secs load) → secs.head?.all (fun x => !(k.holders [x] load).isEmpty) = true →
        stall = .next (s.raise c a causeStall (lowestW ((k.holders secs load).map Block.w)).toNat
          (windowVa (32 * ((secs.head?).getD 0)))))
      ∧ (k.waitOf a = some (.mark w) → stall = .next (s.raise c a causeStall w.toNat 0)))
    ∧ (wsl = 0 ∨ (k.stallOf a ≤ 16000 * wsl ∧ ∀ v ∈ k.land.copies, v.agent = a → ¬ long v.idxStall ∧ ¬ long v.srcStall) →
        stall = .next s)
    ∧ (∀ v x hs, wsl ≠ 0 → k.stallOf a ≤ 16000 * wsl → (k.land.copies.filter (fun d => d.agent == a)).head? = some v →
        past v.idxStall (k.idxHolders v) x hs ∨ (¬ long v.idxStall ∧ past v.srcStall (k.srcHolders v) x hs) →
        stall = .next (s.trapRead c v.id causeStall (lowestW (hs.map Block.w)) x))
    ∧ (k.waiters = a :: rest → 4096 ≤ k.trap.idle → s.deadlocked c = true →
        let s' := s.setCore c { k with trap := { k.trap with idle := 0 } }
        exec (.queueDeadlock c) s = .next (s'.takeTrap c
          { cause := causeDeadlock, detail := BitVec.ofNat 16 ((k.waiters.map agentBit).sum), seq := a
            epc := (k.heldPc a).setWidth 32, val := 0 }))
    ∧ (s.deadlocked c = false ∨ k.trap.idle < 4096 → exec (.queueDeadlock c) s = .next s)

/-! ### Translation -/

/-- Translation and its steps (R32, R57 to R64): an access outside the translated space, or of a tenant whose translation is off, takes
0x10; a store to the image takes 0x11; a TLB answers; else the access joins a walk of its page, be it a larger one. A walk that ends at a leaf sets A,
and D when a requester writes, changes no other byte, and leaves each requester of the page, of whatever walk, a TLB entry; one that meets
a fault leaves it for its word. A walk not among the four that its port serves waits. A word fetched ahead is kept as memory holds it. -/
def Obligations.TranslationSteps : Prop :=
  ∀ (s : State) (c : CoreId) (a : Agent) (who : XlatWho) (va n off pa pm : Nat) (write : Bool) (task : Task) (i : IslandId) (w : Walk)
    (e : Tlb) (pte code : Nat) (writable bad : Bool) (ptrs : List WalkPtr),
    let k := s.core c
    let isl := s.island (islandOf c)
    let fault (code : Nat) (host : Bool) : XRes := .fault { va := va, code := code, badPte := false, host := host }
    let mapped := va < 2 ^ 48 ∧ inLocalWindow va = false ∧ inGangWindow va = false ∧ (s.tenant task.tenant).troot.getLsbD 0 = true
    let serves (e : Tlb) : Bool := e.serves task.tenant va (write && !task.inImage va)
    let hit (e : Tlb) : XRes := if write && task.inImage va then fault 0x11 e.host else .ok (e.pa + va % 2 ^ e.bits) e.pm e.host
    let s' := s.modIsland i (fun v => { v with walks := v.walks.eraseIdx n })
    let sect := (task.sects[(agentSect a).1]?).getD (0, 0)
    let res := s'.walk (walkPort i w.va) w.tenant w.va none
    let reqs := w.reqs ++ s'.samePage i e
    let wrote := reqs.any WalkReq.write
    let runs := (s.island i).walks[n]? = some w ∧ n < 32 ∧ s.served i n w = true ∧ s.walkStuck i w = false ∧ s.upset = Ecc.clean
    let ends (t : State) (l : List WalkReq) : Prop :=
      exec (.pageWalkCompletion i n none) s
        = .next ((l.map (fun r => r.who.core) ++ t.nowWalking i).eraseDups.foldl (fun s c => s.settle c) t)
    k.task = some task →
    (¬ mapped → s.xlate c a who va write = (s, fault 0x10 false))
    ∧ (mapped → (k.tlbs.of a).find? serves = some e → s.xlate c a who va write = (s, hit e))
    ∧ (mapped → (k.tlbs.of a).find? serves = none → (isl.tlb ++ isl.side).find? serves = some e →
        (s.xlate c a who va write).2 = hit e ∧ (s.xlate c a who va write).1.mem = s.mem)
    ∧ (mapped → (k.tlbs.of a).find? serves = none → (isl.tlb ++ isl.side).find? serves = none →
        (s.xlate c a who va write).2 = .wait ∧ ∃ v ∈ ((s.xlate c a who va write).1.island (islandOf c)).walks,
          v.tenant = task.tenant
            ∧ (v.page = va / 4096 ∨ ∃ g, s.leafOf c task.tenant va = some g ∧ g.serves task.tenant (v.page * 4096) false = true)
            ∧ { who := who, va := va, write := write, image := write && task.inImage va } ∈ v.reqs)
    ∧ (runs → res = .leaf e pte writable ptrs → w.reqs ≠ [] → (∀ r ∈ reqs, r.write = true → writable = true ∧ r.image = false) →
        ∃ t, ends t reqs
          ∧ t.mem.readLe pte 8 = s.mem.readLe pte 8 ||| (if wrote then 0x30 else 0x10)
          ∧ (∀ b, b < pte ∨ pte + 8 ≤ b → t.mem.read b = s.mem.read b)
          ∧ (t.island i).walks = (s'.island i).walks.filter (fun v => !e.serves v.tenant (v.page * 4096) false)
          ∧ (∀ r ∈ reqs, e.serves w.tenant r.va false = true →
              ∃ g ∈ (t.core r.who.core).tlbs.of (s.whoAgent r.who), g.serves w.tenant r.va r.write = true
                ∧ g.addr r.va = e.addr r.va))
    ∧ (runs → res = .leaf e pte writable ptrs → w.reqs ≠ [] →
        (∀ r ∈ reqs, r.write = true ∧ (writable = false ∨ r.image = true) ∧ ∃ d b, r.who = .word d b) →
        ∃ t, ends t reqs ∧ t.mem = s.mem
          ∧ ∀ r ∈ reqs, ∀ d b, r.who = .word d b → (s.core d).waitOf b = some .other →
              ∃ f, (t.core d).agentFault b = some f ∧ f.code = 0x11 ∧ f.badPte = false ∧ f.host = e.host)
    ∧ (runs → w.reqs = [{ who := .word c a, va := va, write := write, image := write && task.inImage va }] →
        res = .fault code bad → k.waitOf a = some .other →
        ∃ t : State, ends t w.reqs ∧ t.mem = s.mem
          ∧ (t.core c).agentFault a = some { va := va, code := code, badPte := bad, host := false }
          ∧ (t.island i).walks = (s.island i).walks.eraseIdx n)
    ∧ ((s.island i).walks[n]? = some w → s.served i n w = false ∨ 32 ≤ n → exec (.pageWalkCompletion i n none) s = .next s)
    ∧ (off < sect.2 → off % 4 = 0 → k.fetchedAt (agentSect a).1 off = none → k.trap.stop = false → s.gov.guard ≠ 3 →
        s.xlate c a (.ahead c a) (task.image + sect.1 + off) false = (s, .ok pa pm false) →
        s.targetCode task.tenant pa pm false = none → (pm = 0 → s.fetchStuck task.tenant pa = false) → s.upset = Ecc.clean →
        ∃ t, exec (.fetchAhead c a off) s = .next t ∧ t.mem = s.mem ∧ t.fabric = s.fabric ∧ (t.core c).seqs = k.seqs
          ∧ (∀ d, d ≠ c → t.core d = s.core d)
          ∧ (t.core c).fetched = k.fetched ++ [{
              sect := (agentSect a).1, off := off, word := BitVec.ofNat 32 (leNat (s.readMem pa pm 4)) }])

/-! ### Steps of the management core -/

/-- Invalidation and owners (R64 to R66): a write of TINV drops every matching entry of micro-TLBs, island TLBs and walk caches, or is held
while one is in progress; its end, once nothing uses such an entry, clears BUSY. OWNCMD with another tag has the granule read as tag 15 until the
change completes; then the granule reads as zeros, in memory and in every slice, and takes its new tag; other bytes and tags stay. The
model's readings: TINV completes once nothing uses a matching entry (log 54), an owner change once nothing uses its granule (log 14), whose bytes
and lines become zero in that very step (log 55). -/
def Obligations.InvalidationAndOwners : Prop :=
  ∀ (s : State) (v : W64) (q : Inval) (o : Own),
    let gran := v.toNat / 2 ^ 21 % 2 ^ 16
    let tag := v.toNat / 2 ^ 60
    let dropped (t : State) : Prop :=
      (∀ c a e, e ∈ (t.core c).tlbs.of a ↔ e ∈ (s.core c).tlbs.of a ∧ q.meets e.tenant e.va e.bits = false)
        ∧ (∀ i e, e ∈ (t.island i).tlb ++ (t.island i).side ↔
            e ∈ (s.island i).tlb ++ (s.island i).side ∧ q.meets e.tenant e.va e.bits = false)
        ∧ (∀ (i : Fin 80) (p : WalkPtr), p ∈ t.walkPtrs[i] ↔
            p ∈ s.walkPtrs[i] ∧ q.meets p.tenant (p.stem * 2 ^ (12 + 9 * (p.level + 1))) (12 + 9 * (p.level + 1)) = false)
        ∧ (∀ c, { t.core c with tlbs := (s.core c).tlbs } = s.core c) ∧ t.mem = s.mem ∧ t.fabric = s.fabric
    let zeroed (g : Nat) (t : State) : Prop :=
      (∀ a, t.mem.read a = if a / 2 ^ 21 = g then 0 else s.mem.read a) ∧ t.cores = s.cores
        ∧ ∀ i, t.slice i = { s.slice i with
            lines := (s.slice i).lines.filter (fun l => l.line / 2 ^ 14 != g)
            fills := (s.slice i).fills.filter (fun f => f.line / 2 ^ 14 != g) }
    s.mgmt.dead = false →
    (∀ p ∈ ([(.tinvPage v, 0), (.tinvTenant v, 1), (.tinvAll v, 2)] : List (Instr × Nat)), fld v 63 62 = p.2 →
      (s.mgmt.tinv = none → invalOf v = some q →
        ∃ t, exec p.1 s = .next t ∧ dropped t ∧ t.mgmt = { s.mgmt with tinv := some v })
      ∧ (s.mgmt.tinv.isSome = true → exec p.1 s = .next { s with mgmt := { s.mgmt with tinvHeld := s.mgmt.tinvHeld ++ [v] } }))
    ∧ (s.mgmt.tinv = some v → invalOf v = some q → s.inUse q = false → s.mgmt.tinvHeld = [] →
        ∃ t, exec .tinvCompletion s = .next t ∧ dropped t ∧ t.mgmt = { s.mgmt with tinv := none })
    ∧ (s.mgmt.tinv = some v → invalOf v = some q → s.inUse q = true → exec .tinvCompletion s = .next s)
    ∧ (s.mgmt.own = none → s.ownerTag gran ≠ tag →
        ∃ t, exec (.owncmd v) s = .next t ∧ t = { s with mgmt := { s.mgmt with own := some { gran := gran, tag := tag } } }
          ∧ t.ownerTag gran = 15 ∧ ∀ g, g ≠ gran → t.ownerTag g = s.ownerTag g)
    ∧ (s.mgmt.own = none → s.ownerTag gran = tag → exec (.owncmd v) s = .next s)
    ∧ (s.mgmt.own.isSome = true →
        exec (.owncmd v) s = .next { s with mgmt := { s.mgmt with ownHeld := s.mgmt.ownHeld ++ [v] } })
    ∧ (s.mgmt.own = some o → s.usesGranule o.gran = true → exec .ownerChangeCompletion s = .next s)
    ∧ (s.mgmt.own = some o → s.usesGranule o.gran = false → s.mgmt.ownHeld = [] →
        ∃ t, exec .ownerChangeCompletion s = .next t ∧ zeroed o.gran t ∧ t.mgmt.own = none ∧ t.ownerTag o.gran = o.tag
          ∧ ∀ g, g ≠ o.gran → t.ownerTag g = s.ownerTag g)

/-- What firmware does (R71, R72, R127, R128, R319, R320): RESUME replays or kills the parked copy or atomic of its tenant and identifier, or
says that there is none. Before the core settles, a replayed copy is active and is to ask again for every sector asked for and neither committed nor held nor performed;
a killed copy and every later one of its register are abandoned, hold and ask for nothing more but still await what is on its way, make no pushes, and
leave their register in STATE 3 with COUNT as it was. For a copy or atomic of a saved task the action is recorded in its save; SVCMD gives the answer words to the context that waits, which loads s1 and s2 with them and goes on; freeing entries of
the fault queue or the service ring lets held ones in, first one first. -/
def Obligations.FirmwareCommands : Prop :=
  ∀ (s : State) (v a b : W64) (c : CoreId) (x : CtxId) (t : Tenant) (p : Copy) (at_ : AtomFly) (req : List Byte)
    (m : Saved),
    let k := s.core c
    let id : W32 := v.setWidth 32
    let act := v.toNat / 2 ^ 62
    let ten := v.toNat / 2 ^ 56 % 16
    let res (n : Nat) (s : State) : State := { s with mgmt := { s.mgmt with resumeRes := n } }
    let answered (n : Nat) (s : State) : State := { s with mgmt := { s.mgmt with svRes := n } }
    let q := s.tenant t
    s.mgmt.dead = false →
    (act = 1 → ten = t.val → s.findParked t id = .copy c p →
      ∃ l : Core, exec (.resumeReplay v) s = .next (res 0 ((s.setCore c l).settle c))
        ∧ { l with land := { l.land with copies := k.land.copies, orphans := k.land.orphans, wms := k.land.wms } } = k
        ∧ (k.copy p.id = some p →
          (∃ asked, l.copy p.id = some { p with st := .active, redo := asked, idxStall := none, srcStall := none }
            ∧ asked.Pairwise (· < ·) ∧ ∀ i, i ∈ asked ↔ p.done ≤ i ∧ i < p.next ∧ p.held.lookup i = none ∧ i ∉ p.perf)
          ∧ (∀ i, i ≠ p.id → l.copy i = k.copy i) ∧ (∀ w, w ≠ p.w → l.wm w = k.wm w)
          ∧ ((k.bound p.w).head? = some p →
              (l.wm p.w).st = 1 ∧ (l.wm p.w).count = p.start + BitVec.ofNat 32 p.done)))
    ∧ (act = 1 → ten = t.val → s.findParked t id = .atom c at_ →
      exec (.resumeReplay v) s = .next (res 0 ((s.setCore c (k.setAtom { at_ with parked := none })).settle c)))
    ∧ (act = 2 → ten = t.val → s.findParked t id = .copy c p →
      ∃ u : State, exec (.resumeKill v) s = .next (res 0 (u.settle c)) ∧ u.mem = s.mem ∧ (∀ d, d ≠ c → u.core d = s.core d)
        ∧ { u.core c with
              land := { (u.core c).land with copies := k.land.copies, wms := k.land.wms }, seqs := k.seqs } = k
        ∧ (k.copy p.id = some p → (k.land.copies.map Copy.id).Nodup →
          (∀ d ∈ k.land.copies, (u.core c).copy d.id = some (if d.w = p.w ∧ p.id ≤ d.id then
              { d with
                st := .abandoned, held := [], got := [], redo := [], faults := [], refused := [], repDue := none
                done := if d.id = p.id then d.done else 0
                out := (d.out.map (fun o => { o with parts := o.parts.map (fun g =>
                  { g with failed := g.failed || g.lost, lost := false }) })).filter (fun o =>
                    !o.parts.all (fun g => g.data.isSome || g.failed)) }
            else d))
          ∧ (∀ d ∈ k.land.copies, d.w = p.w → p.id ≤ d.id →
              ∀ q ∈ (u.core c).seqs.l.pend ++ (u.core c).seqs.s.pend, q.fin ≠ .issued d.id ∧ q.fin ≠ .performed d.id)
          ∧ (∀ q ∈ (u.core c).seqs.l.pend ++ (u.core c).seqs.s.pend,
              q ∈ k.seqs.l.pend ++ k.seqs.s.pend ∨ (q.pushes = [] ∧ q.sem = none))
          ∧ ((∀ d ∈ k.land.copies, d.w = p.w → d.st ≠ .abandoned → p.id ≤ d.id) → k.window p.w = none →
              ((u.core c).wm p.w).st = 3 ∧ ((u.core c).wm p.w).count = (k.wm p.w).count)))
    ∧ (ten = t.val → s.findParked t id = .saved t m →
      let recorded (replay : Bool) (i : Instr) : Prop :=
        ∃ u : State, exec i s = .next (res 0 u) ∧ u.cores = s.cores ∧ (∀ d, d ≠ t → u.tenant d = s.tenant d)
          ∧ (u.tenant t).saved = q.saved.map (fun w => if w.slot = m.slot then
              { w with actions := w.actions.filter (fun a => a.1 != id) ++ [(id, replay)] } else w)
          ∧ (∀ w, m.core.parkedCopy id = some w →
              Wrote s.mem u.mem (q.slotAddr m.slot + 0x4000 + 64 * m.core.descOf w + 59) [if replay then 1 else 2])
          ∧ (m.core.parkedCopy id = none → u.mem = s.mem)
      (act = 1 → recorded true (.resumeReplay v)) ∧ (act = 2 → recorded false (.resumeKill v)))
    ∧ (act = 2 → ten = t.val → s.findParked t id = .atom c at_ →
      ∃ u : State, exec (.resumeKill v) s = .next (res 0 (u.settle c)) ∧ u.mem = s.mem ∧ (∀ d, d ≠ c → u.core d = s.core d)
        ∧ u.core c = k.atomDone at_ none false ((at_.parked.map XFault.code).getD 0))
    ∧ (ten = t.val → s.findParked t id = .nothing →
        (act = 1 → exec (.resumeReplay v) s = .next (res 1 s)) ∧ (act = 2 → exec (.resumeKill v) s = .next (res 1 s)))
    ∧ (act = 0 ∨ act = 3 → exec (.resumeNoAction v) s = .next (res 2 s))
    ∧ (act = 1 → ten = t.val → x.val = v.toNat / 2 ^ 46 % 4 →
        (List.finRange 160).find? (fun d => (s.core d).tenant == some t && ((s.core d).ctx x).awaits (v.toNat / 2 ^ 48 % 256)) = some c →
        exec (.svcmdDeliver v) s = .next (answered 0 (s.setCore c (k.setCtx x
          { k.ctx x with op := some (.service (some (s.mgmt.sva0, s.mgmt.sva1))) }))))
    ∧ ((k.ctx x).op = some (.service (some (a, b))) →
        ∃ u : State, exec (.serviceAnswerArrival c x) s = .next (u.settle c) ∧ OnlyCore c s u ∧ SameBytes c s u
          ∧ ((u.core c).ctx x).pc = (k.ctx x).pc + 4 ∧ ((u.core c).ctx x).op = none
          ∧ (∀ r, ((u.core c).ctx x).get r = if r = 1 then a else if r = 2 then b else (k.ctx x).get r)
          ∧ (u.core c).l1 = k.l1.filter (fun l => l.hint == .sticky) ∧ ∀ y, y ≠ x → (u.core c).ctx y = k.ctx y)
    ∧ (q.waiting = [] → q.hin = q.hout →
        exec (.fqheadWrite t v) s = .next (s.modTenant t (fun q => { q with fqhead := v.setWidth 32 })))
    ∧ (q.waiting = [] → q.hin = q.hout + 1 → q.void = [] → ({ q with fqhead := v.setWidth 32 } : TenantSt).fqFree = true →
        ∃ u, exec (.fqheadWrite t v) s = .next u ∧ (u.tenant t).hin = (u.tenant t).hout ∧ (u.tenant t).fqtail = q.fqtail + 1
          ∧ (u.tenant t).fqhead = v.setWidth 32 ∧ u.cores = s.cores
          ∧ Wrote s.mem u.mem (q.fqAddr + 32 * (q.fqtail.toNat % q.fqSize.getD 1)) (s.mem.readN (q.hold + 32 * (q.hout.toNat % 1024)) 32))
    ∧ (q.sqheld = [req] → ({ q with sqhead := v.setWidth 32 } : TenantSt).sqFree = true →
        ∃ u, exec (.sqheadWrite t v) s = .next u ∧ (u.tenant t).sqheld = [] ∧ (u.tenant t).sqtail = q.sqtail + 1
          ∧ (u.tenant t).sqhead = v.setWidth 32 ∧ u.cores = s.cores
          ∧ Wrote s.mem u.mem (fld q.sqbase 39 12 * 2 ^ 12 + 64 * (q.sqtail.toNat % q.sqSize.getD 1)) req)
    ∧ (q.sqheld = [] → exec (.sqheadWrite t v) s = .next (s.modTenant t (fun q => { q with sqhead := v.setWidth 32 })))

/-! ### Steps of a slice -/

/-- The line check codes find nothing. -/
def EccClean (e : Ecc) : Prop := e.corrected = 0 ∧ e.bad = 0 ∧ e.evicted = false ∧ e.back = 0

/-- A slice has answered message `n` of its own with `b`, and the fabric is as before but for that. -/
def SliceAnswered (i : SliceId) (n : Nat) (pri : Nat) (w : Who) (b : Body) (s t : State) : Prop :=
  t.fabric = ((s.sliceTake i n).answer i pri w b).fabric

/-- Reads at a slice (R74, R77, R92): a failing check is answered with its code; a read of the host is sent on; once the slice is free in
the cycle a unicast read is answered with the bytes of memory when its sectors are at hand, and else asks the channel for its line;
another read joins the open window of its line or opens one; a window that has been open for 32 cycles and whose data is there sends each
sector to each strip of its requesters and closes; a request of it whose granule has a new owner is refused; a fill brings its sectors.
Memory is the same, but that a line with an uncorrectable error reads as zeros. Choices of the model: the checks of a load of X, but for the link's, are
those of its word (log 14); a multicast reply has the priority of the first request (log 90) and goes to the strip's router in the column of the slice
(log 30); a request that comes in the 32nd cycle opens another window (log 89). -/
def Obligations.SliceReads : Prop :=
  ∀ (s : State) (i : SliceId) (n pa size pm code : Nat) (t : Tenant) (h : Hint) (uni : Bool) (w : Who) (f : Flit) (v : Window92)
    (fill : Fill) (e : Ecc),
    let q := s.slice i
    let line := lineOf pa
    let need := secMask pa size
    let check := if w.isX then (if isHostPa pa && !s.host.link then some 0x21 else none) else s.targetCodeAt f.seg t pa pm (isHostPa pa)
    let free := s.lineFree i = true
    let reads := exec (.readRequest i n) s
    let answered (u : State) (b : Body) : Prop := SliceAnswered i n f.pri w b s u ∧ u.mem = s.mem
    (s.sliceMsg i n = some f → f.body = .read pa size pm t h uni w →
      (check = some code → reads = .next ((s.sliceTake i n).answer i f.pri w (.readReply pa [] code w)))
      ∧ (check = none → isHostPa pa = true → s.hostRoom = true →
          ∃ u, reads = .next u ∧ u.fabric = (s.sliceTake i n).fabric ∧ u.mem = s.mem
            ∧ u.host.reqs = s.host.reqs ++ [{
              tag := s.nextTag, bus := busAt f.seg pa, pa := pa, size := size, atom := none, flush := size == 0, who := w
              pri := f.pri, rlx := segRlx f.seg, nsnp := segNsnp f.seg, sent := s.time }])
      ∧ (check = none → isHostPa pa = true → s.hostRoom = false → reads = .next s)
      ∧ (check = none → isHostPa pa = false → pm ≠ 0 → ∃ u, reads = .next u ∧ answered u (.readReply pa (s.readMem pa pm size) 0 w))
      ∧ (check = none → isHostPa pa = false → pm = 0 → free → uni = true ∨ h = .bypass → need &&& ~~~(q.atHand line h) = 0 →
          ∃ u, reads = .next u ∧ answered u (.readReply pa (s.mem.readN pa size) 0 w))
      ∧ (check = none → isHostPa pa = false → pm = 0 → free → uni = true ∨ h = .bypass → need &&& ~~~(q.atHand line h) ≠ 0 →
          ∃ u, reads = .next u ∧ u.fabric = s.fabric ∧ u.mem = s.mem
            ∧ need &&& ~~~(((u.slice i).atHand line h) ||| ((u.slice i).onWay line)) = 0)
      ∧ (check = none → isHostPa pa = false → pm = 0 → free → uni = false → h ≠ .bypass →
          ∃ u, reads = .next u ∧ u.fabric = (s.sliceTake i n).fabric ∧ u.mem = s.mem
            ∧ (∃ g ∈ (u.slice i).windows, g.line = line ∧ f ∈ g.reqs ∧ s.time < g.opened + 32)
            ∧ need &&& ~~~(((u.slice i).atHand line h) ||| ((u.slice i).onWay line)) = 0)
      ∧ (check = none → isHostPa pa = false → pm = 0 → ¬ free → reads = .next s))
    ∧ (q.windows[n]? = some v → v.opened + 32 ≤ s.time → free → (∀ r ∈ v.reqs, s.barred r = none) →
        v.sectors &&& ~~~(q.atHand v.line .dflt) = 0 →
        let strips := (v.cores.map (fun c => islandStrip (islandOf c))).eraseDups
        let outs : List (Fin 15 × Nat) := ((List.range 4).filter (fun k => v.sectors.getLsbD k)).flatMap (fun k => strips.map (fun p => (p, k)))
        let sends (u : State) (p : Fin 15 × Nat) : State :=
          u.send (sliceRouter i) (routerAt p.1 (finOf 16 i.val)) ((v.reqs.map Flit.pri).headD 0)
            (.multiReply (128 * v.line + 32 * p.2) (s.mem.readN (128 * v.line + 32 * p.2) 32) 0)
        ∃ u, exec (.multicastWindowClose i n) s = .next u ∧ u.mem = s.mem ∧ (u.slice i).windows = q.windows.eraseIdx n
          ∧ u.fabric = (outs.foldl sends s).fabric)
    ∧ (q.windows[n]? = some v → v.opened + 32 ≤ s.time → free → v.reqs = [f] → f.body = .read pa size pm t h uni w →
        s.targetCodeAt f.seg t pa pm false = some code →
        ∃ u, exec (.multicastWindowClose i n) s = .next u ∧ u.mem = s.mem ∧ (u.slice i).windows = q.windows.eraseIdx n
          ∧ u.fabric = (s.answer i f.pri w (.readReply pa [] code w)).fabric)
    ∧ (q.windows[n]? = some v → s.time < v.opened + 32 → exec (.multicastWindowClose i n) s = .next s)
    ∧ (q.fills[n]? = some fill → fill.arrived = false → s.sliceStuck i fill.line = false → free → e.evicted = false →
        ∃ u, exec (.lineFill i n e) s = .next u ∧ u.fabric = s.fabric
          ∧ fill.want &&& ~~~((u.slice i).atHand fill.line .bypass) = 0
          ∧ (fill.alloc = true → fill.want &&& ~~~((u.slice i).validOf fill.line) = 0)
          ∧ (e.bad &&& fill.want = 0 → u.mem = s.mem)
          ∧ (fill.alloc = false → e.bad &&& fill.want = 0 → (u.slice i).lines = q.lines ∧ u.gov.sectors = s.gov.sectors + countSecs fill.want))

/-- Writes, accumulate writes and atomics at a slice, and atomics at a scratchpad port (R74, R118, R259, R261, R262, R265), where their
checks pass, no write-back is held, the slice is free in the cycle (R77) and the line check codes find nothing: the bytes that the
operation gives stand in memory, every other byte is as before, and the requester has its answer; an accumulate write combines its
sector with the memory's element by element, the memory element first, with the sums, minima and maxima of R265; a failing check is answered with its
code, and so is an access to the port of a core that has left the gang (the model's choice, log 74). -/
def Obligations.SliceWrites : Prop :=
  ∀ (s : State) (i : SliceId) (r : RouterId) (c : CoreId) (n pa pm code off : Nat) (t : Tenant) (h : Hint) (w : Who) (f : Flit)
    (data : List Byte) (op : AccOp) (fmt : AccFmt) (q : AtomReq) (e : Ecc) (g x y j : Nat),
    let line := lineOf pa
    let up (v : Nat) : W32 := BitVec.ofNat 32 (v * 65536)
    let nan (v : Nat) : Prop := (val32 (BitVec.ofNat 32 v)).isNan = true
    let bfNan (v : Nat) : Prop := (unpack .bf16 v).isNan = true
    let check := s.targetCodeAt f.seg t pa pm (isHostPa pa)
    let free := s.lineFree i = true
    let wcheck := if w.isX then (if isHostPa pa && !s.host.link then some 0x21 else none) else check
    let wrote (u : State) (bs : List Byte) (b : Body) : Prop :=
      SliceAnswered i n f.pri w b s u ∧ Wrote s.mem u.mem pa bs ∧ u.host = s.host
    let refused (x : Option Nat) (j : Instr) (b : Nat → Body) : Prop :=
      x = some code → exec j s = .next ((s.sliceTake i n).answer i f.pri w (b code))
    let len := q.w / 8
    let old := s.mem.readN pa len
    let result := (q.result (leNat old)).1
    let word := s.mem.readN pa 32
    let k := s.core c
    let had := k.scratchRead off len
    let sent (u : State) (b : Body) : Prop := u.fabric = ((s.takeInbox (coreRouter c) n).send (coreRouter c) f.src f.pri b).fabric
    (∀ old src : List Byte, let wd := accWidth fmt
      old.length = 32 → src.length = 32 → wd * j + wd ≤ 32 →
      (accSector op fmt old src).length = 32
      ∧ leNat (((accSector op fmt old src).drop (wd * j)).take wd)
          = accElem op fmt (leNat ((old.drop (wd * j)).take wd)) (leNat ((src.drop (wd * j)).take wd)) % 256 ^ wd)
    ∧ (x < 2 ^ 32 → y < 2 ^ 32 →
      let a : W32 := BitVec.ofNat 32 x
      let b : W32 := BitVec.ofNat 32 y
      accElem .add .i32 x y = (x + y) % 2 ^ 32 ∧ accElem .min .i32 x y = (if a.slt b then x else y)
      ∧ accElem .max .i32 x y = (if a.slt b then y else x)
      ∧ accElem .min .f32 x y = (fpMinMax false a b).1.toNat ∧ accElem .max .f32 x y = (fpMinMax true a b).1.toNat
      ∧ (nan x → accElem .add .f32 x y = (a ||| 0x00400000).toNat)
      ∧ (¬ nan x → nan y → accElem .add .f32 x y = (b ||| 0x00400000).toNat)
      ∧ (¬ nan x → ¬ nan y → accElem .add .f32 x y = (fpAdd .rne a b).1.toNat))
    ∧ (x < 2 ^ 16 → y < 2 ^ 16 →
      accElem .min .bf16 x y = (fpMinMax false (up x) (up y)).1.toNat / 65536
      ∧ accElem .max .bf16 x y = (fpMinMax true (up x) (up y)).1.toNat / 65536
      ∧ (bfNan x → accElem .add .bf16 x y = (BitVec.ofNat 16 x ||| 0x0040).toNat)
      ∧ (¬ bfNan x → bfNan y → accElem .add .bf16 x y = (BitVec.ofNat 16 y ||| 0x0040).toNat)
      ∧ (accElem .add .bf16 0x7F80 0xFF80 = 0x7FC0)
      ∧ (∀ n1 m1 e1 n2 m2 e2, unpack .bf16 x = .fin n1 m1 e1 → unpack .bf16 y = .fin n2 m2 e2 →
          let sum := sumFin .rne n1 m1 e1 n2 m2 e2
          accElem .add .bf16 x y = (packFin .bf16 .rne false sum.1 sum.2.1 sum.2.2).1))
    ∧ (EccClean e →
    (s.sliceMsg i n = some f → f.body = .write pa data pm t h w →
      refused wcheck (.sectorWrite i n e) (fun x => .writeAck x w)
      ∧ (wcheck = none → isHostPa pa = false → pm = 0 → s.sliceStuck i line = false → free →
          ∃ u, exec (.sectorWrite i n e) s = .next u ∧ wrote u data (.writeAck 0 w))
      ∧ (wcheck = none → isHostPa pa = true →
          ∃ u, exec (.sectorWrite i n e) s = .next u ∧ SliceAnswered i n f.pri w (.writeAck 0 w) s u ∧ u.mem = s.mem
            ∧ u.host.posted = s.host.posted ++ [{
                bus := busAt f.seg pa, data := data, rlx := segRlx f.seg, nsnp := segNsnp f.seg }]))
    ∧ (s.sliceMsg i n = some f → f.body = .acc pa data pm t h op fmt w → isHostPa pa = false →
      refused (s.targetCode t pa pm false) (.accumulateWrite i n e) (fun x => .writeAck x w)
      ∧ (s.targetCode t pa pm false = none → pm = 0 → s.sliceStuck i line = false → free →
          ∃ u, exec (.accumulateWrite i n e) s = .next u ∧ wrote u (accSector op fmt word data) (.writeAck 0 w)))
    ∧ (s.inboxAt r n = some f → f.body = .atom pa pm t q w → sliceOf r = some i → r = sliceRouter i →
      refused check (.atomicRequest r n e) (fun x => .atomReply 0 false x w)
      ∧ (check = none → isHostPa pa = false → pm = 0 → s.sliceStuck i line = false → s.atomFree i = true →
          ∃ u, exec (.atomicRequest r n e) s = .next u
            ∧ wrote u (match result with
                | some v => leBytes len v
                | none => []) (.atomReply (BitVec.ofNat 64 (leNat old)) (q.result (leNat old)).2 0 w))
      ∧ (check = none → isHostPa pa = true → s.hostRoom = true →
          ∃ u, exec (.atomicRequest r n e) s = .next u ∧ u.fabric = (s.sliceTake i n).fabric ∧ u.mem = s.mem
            ∧ u.host.reqs = s.host.reqs ++ [{
              tag := s.nextTag, bus := busAt f.seg pa, pa := pa, size := len, atom := some q, flush := false, who := w
              pri := f.pri, rlx := segRlx f.seg, nsnp := segNsnp f.seg, sent := s.time }]))
    ∧ (s.inboxAt (coreRouter c) n = some f → f.body = .atomPort c off q g w →
      (k.inGang g = true → k.inScratch off len = true → k.gate true off len = .free →
        ∃ u, exec (.atomicRequest (coreRouter c) n e) s = .next u
          ∧ sent u (.atomReply (BitVec.ofNat 64 (leNat had)) (q.result (leNat had)).2 0 w)
          ∧ Wrote k.pool.scratch (u.core c).pool.scratch off (match (q.result (leNat had)).1 with
              | some v => leBytes len v
              | none => [])
          ∧ u.mem = s.mem ∧ (u.core c).seqs = k.seqs ∧ ∀ d, d ≠ c → u.core d = s.core d)
      ∧ (k.inGang g = false ∨ k.inScratch off len = false → exec (.atomicRequest (coreRouter c) n e) s
          = .next ((s.takeInbox (coreRouter c) n).send (coreRouter c) f.src f.pri (.atomReply 0 false 0x10 w)))))

/-- Barrier objects at their slice (R267, R268 to R271), where the owner's tag stands, no write-back is held, the slice is free in the cycle
and the line check codes find nothing. An arrival adds 1 to ARRIVED, up to 65,535; a declaration and a report move BYTES; then, while BYTES is 0, each EXPECT arrivals
complete one phase (one phase when EXPECT is 0), WAIT clears and its waiters are woken with the first phase completed, and OVR says that
arrivals are left over. A registration past its phase is answered woken, any other is recorded. No other byte changes, and the requester
of a word has its answer. -/
def Obligations.BarrierObjects : Prop :=
  ∀ (s : State) (i : SliceId) (n pa : Nat) (t : Tenant) (op : BarOp) (w : Who) (f : Flit) (e : Ecc) (c : CoreId) (b : W32)
    (p : BitVec 31) (sem : BitVec 6),
    let o := BarObj.ofBytes (s.mem.readN pa 64)
    let performs (j : Instr) (o' : BarObj) (fabric : State → Fabric) : Prop :=
      ∃ u, exec j s = .next u ∧ BarObj.ofBytes (u.mem.readN pa 64) = o' ∧ (∀ a, a < pa ∨ pa + 64 ≤ a → u.mem.read a = s.mem.read a)
        ∧ u.fabric = fabric (s.sliceTake i n)
    let after (a : BarObj) : BarObj :=
      if a.bytes ≠ 0 ∨ a.arrived < a.expect then a
      else
        let k := if a.expect = 0 then 1 else a.arrived / a.expect
        { a with
          phase := a.phase + BitVec.ofNat 31 k, arrived := a.arrived - k * a.expect, wait := 0
          ovr := a.ovr || decide (a.expect < a.arrived) }
    let answers (a : BarObj) (s : State) : Fabric :=
      let s := if a.bytes ≠ 0 ∨ a.arrived < a.expect then s else s.wakeAll i f.pri pa o.wait (o.phase + 1)
      match w with
      | .barrier _ _ => (s.answer i f.pri w (.barrierAck pa o.phase false false 0 w)).fabric
      | _ => s.fabric
    let operation (j : Instr) (a : BarObj) : Prop := performs j (after a) (answers a)
    EccClean e → s.sliceMsg i n = some f → f.body = .barrier pa t op w → s.targetCode t pa 0 false = none →
    s.sliceStuck i (lineOf pa) = false → s.lineFree i = true →
    (op = .arrive → operation (.barrierArrival i n e) { o with arrived := min 65535 (o.arrived + 1) })
    ∧ (op = .declare b → operation (.byteDeclaration i n e) { o with bytes := o.bytes + b })
    ∧ (op = .report b → operation (.byteReport i n e) { o with bytes := o.bytes - b })
    ∧ (op = .register p sem → w.core = some c →
        let d := (o.phase - p).toNat
        let answer (woken : Bool) (s : State) : Fabric := (s.answer i f.pri w (.barrierAck pa o.phase true woken 0 w)).fabric
        (1 ≤ d → d < 2 ^ 30 → performs (.registration i n e) o (answer true))
        ∧ (d = 0 ∨ 2 ^ 30 ≤ d →
            performs (.registration i n e) { o with wait := o.wait ||| 2 ^ c.val, sem := sem.toNat } (answer false)))

/-! ### Steps of the fabric -/

/-- Of two flits that enter a router at cycle `t`, `x` is ranked above `y` (R84, R85): golden before others, saturated before unsaturated;
among saturated ones the lower SRC, then STAG, then SOFF; among others the higher PRI, then AGE; then the input order. -/
def RanksOver (t : Nat) (x y : Enter) : Prop :=
  let f := x.flit
  let g := y.flit
  let saturated (f : Flit) : Prop := 255 ≤ f.age
  let golden (f : Flit) : Prop := saturated f ∧ f.src.val % 16 = t / 512 % 16
  (golden f ∧ ¬ golden g)
    ∨ ((golden f ↔ golden g) ∧ saturated f ∧ ¬ saturated g)
    ∨ ((golden f ↔ golden g) ∧ saturated f ∧ saturated g
        ∧ (f.src.val < g.src.val ∨ (f.src = g.src
          ∧ (f.stag < g.stag ∨ (f.stag = g.stag ∧ (f.soff < g.soff ∨ (f.soff = g.soff ∧ x.order < y.order)))))))
    ∨ (¬ saturated f ∧ ¬ saturated g
        ∧ (g.pri < f.pri ∨ (f.pri = g.pri ∧ (g.age < f.age ∨ (f.age = g.age ∧ x.order < y.order)))))

/-- The output that a flit for router `dst` prefers at another router (R83): the shorter way round its ring, eastbound at distance 8, and
in the column of `dst` the chain toward its strip. -/
def wayOn (r dst : RouterId) : Dir :=
  if columnOf dst ≠ columnOf r then (if (columnOf dst + 16 - columnOf r) % 16 ≤ 8 then .east else .west)
  else if stripOf r < stripOf dst then .down else .up

/-- The fabric (R83, R85 to R88, R91, R93, R95): an admitted flit leaves its router's outbox, stands as its candidate and takes a credit; a
delivered flit's credit comes back; after 8,224 cycles a credit that has not returned has its flit sent again, or its reply's loss
told once, and its claim of a sound clears; in a cycle a router gives each of at most four flits that enter it, from its links or as its candidate, exactly one way on; the one
that ranks above all others gets what it prefers; one whose output is taken is deflected to the first free one, and so is a third one for
the agent; a lone flit that has come to its router reaches the agent; an input whose flit fails its check loses it, and DROPS counts it; every 1,024
cycles each island computes DRATIO and sets its throttle, which holds candidates back outside DUTY. Choices of the model: the claim of a lost flit clears (log 87), the loss of a
reply is told at its credit's end only if it has not been told before (log 48), the oldest flit of an agent goes first (log 88). -/
def Obligations.FabricSteps : Prop :=
  ∀ (s : State) (r : RouterId) (n : Nat) (f : Flit) (v : Credit) (drops : List (RouterId × Lane)),
    let q := s.router r
    let only (i : Instr) (q' : Router) : Prop :=
      ∃ t, exec i s = .next t ∧ t.router r = q' ∧ (∀ p, p ≠ r → t.router p = s.router p)
        ∧ { t with fabric := s.fabric } = s ∧ { t.fabric with routers := s.fabric.routers } = s.fabric
    let g := (s.routerCycle r drops).1
    let sent : Flit := { f with age := 0, src := r }
    (s.nextOut r = some n → q.outbox[n]? = some f → s.mayInject r = true →
      only (.flitInjection r) { q with
        outbox := q.outbox.eraseIdx n, inject := some sent
        credits := q.credits ++ [{ flit := sent, cycle := s.time, delivered := none, noted := false }] })
    ∧ (s.mayInject r = false → exec (.flitInjection r) s = .next s)
    ∧ (q.credits[n]? = some v → v.delivered.isSome = true → only (.creditReturn r n) { q with credits := q.credits.eraseIdx n })
    ∧ (q.credits[n]? = some v → v.delivered = none → v.cycle + 8224 ≤ s.time →
      let u := (s.modRouter r (fun q => { q with credits := q.credits.eraseIdx n })).clearClaim v.flit
      (v.flit.isReply = false → exec (.creditExpiry r n) s = .next (u.modRouter r (fun q => { q with outbox := q.outbox ++ [v.flit] })))
      ∧ (v.flit.isReply = true → v.noted = true → exec (.creditExpiry r n) s = .next u)
      ∧ (v.flit.isReply = true → v.noted = false → exec (.creditExpiry r n) s = .next (u.lossNotice v.flit)))
    ∧ (q.credits[n]? = some v → v.delivered.isSome = true ∨ s.time < v.cycle + 8224 → exec (.creditExpiry r n) s = .next s)
    ∧ ((s.entering r drops).length ≤ 4 →
      g.outs.length + g.ejected.length + (if g.inserted.isSome then 1 else 0) = (s.entering r drops).length)
    ∧ (let m := s.moveSounds
      let es := m.entering r drops
      let given := (m.routerCycle r drops).1
      let out (d : Dir) (f : Flit) : OnLink := leave r d { f with age := min 255 (f.age + 1) }
      let sure (f : Flit) : Prop := f.dst = r ∧ f.isMulti = false ∧ ∀ taken, m.accepts f taken = true
      (∀ x ∈ es, (∀ y ∈ es, y ≠ x → RanksOver s.time x y) →
        (x.flit.dst ≠ r → out (wayOn r x.flit.dst) x.flit ∈ given.outs) ∧ (sure x.flit → x.flit ∈ given.ejected))
      ∧ (∀ x y, es = [x, y] ∨ es = [y, x] → RanksOver s.time x y → x.flit.dst ≠ r → y.flit.dst ≠ r →
          wayOn r x.flit.dst = wayOn r y.flit.dst →
          given.outs = [out (wayOn r x.flit.dst) x.flit, out (if wayOn r x.flit.dst = .east then .west else .east) y.flit]
            ∧ given.defl = 1)
      ∧ (∀ x y z, es.Perm [x, y, z] → RanksOver s.time x y → RanksOver s.time x z → RanksOver s.time y z →
          sure x.flit → sure y.flit → sure z.flit →
          given.ejected = [x.flit, y.flit] ∧ given.outs = [out .east z.flit] ∧ given.defl = 1)
      ∧ (s.onTime = true → ∃ t, exec (.flitRouting drops) s = .next t
          ∧ (∀ l ∈ given.outs, l ∈ t.fabric.links) ∧ (∀ f ∈ given.ejected, f ∈ (t.router r).inbox)
          ∧ ∀ l : OnLink, s.fabric.links = [l] → (l.at_, l.lane) ∈ drops →
              t.fabric.drops = s.fabric.drops.set (columnOf l.at_)
                (BitVec.ofNat 32 (min 0xFFFFFFFF ((s.fabric.drops[columnOf l.at_]'(Nat.mod_lt _ (by decide))).toNat + 1)))
                (Nat.mod_lt _ (by decide))))
    ∧ (∀ i, islandAt r = some i → (s.island i).tact = true → fld (s.island i).fthr 15 13 ≤ s.time % 8 →
        exec (.flitInjection r) s = .next s)
    ∧ (s.onTime = true → ∃ t, exec (.flitRouting drops) s = .next t ∧ t.time = s.time + 1 ∧ t.mem = s.mem ∧ t.slices = s.slices
        ∧ t.tenants = s.tenants ∧ t.agenda = s.agenda ∧ (∀ p, (t.router p).inject = none)
        ∧ (∀ p, ∀ m ∈ (s.router p).inbox, m ∈ (t.router p).inbox)
        ∧ (q.inject = some f → f.dst = r → f.isMulti = false → s.moveSounds.accepts f [] = true → (∀ l ∈ s.fabric.links, l.at_ ≠ r) →
            f ∈ (t.router r).inbox))
    ∧ (s.onTime = false → exec (.flitRouting drops) s = .next s)
    ∧ ((∃ p, ∃ x ∈ (s.router p).credits, match x.delivered with
        | some d => d + 32 ≤ s.time
        | none => x.cycle + 8224 ≤ s.time) → s.onTime = false)
    ∧ (s.time % 1024 = 0 → s.gov.windows < s.time / 1024 →
      ∃ t, exec .throttleWindowClose s = .next t ∧ t.gov = { s.gov with windows := s.time / 1024 }
        ∧ { t with gov := s.gov, islands := s.islands } = s
        ∧ ∀ i, let v := s.island i
          let ratio := if v.cross = 0 then 0 else v.defl * 1024 / v.cross
          let thresh := v.fthr.toNat % 2 ^ 11
          t.island i = { v with
            dratio := ratio, wseq := v.wseq + 1, tact := decide (thresh < ratio ∧ thresh < 1024), defl := 0, cross := 0 })

/-! ### Steps of power -/

/-- Power steps (R346, R349 to R351, R354 to R357, R360): a request of firmware becomes the target, or is held when it lowers the
ratio; on a 100 ns tick voltage and frequency move as R354 says, and a fall of the island's current by more than 100 mA is held to 100 mA
by filler of the cores whose activity fell for a reason of R364 (R363, R364); the stretcher's conditions come and go, and its depth stays within its bounds; a
1 µs tick debits each account by the sensed energy, of which no part is lost in the division among the cores, and reads the hottest
sensor; a boundary puts the policies in force, grants each account its share up to its cap and ends the guard's actions; a lowering that
has fallen due is carried out as its request or lapses. Choices of the model: which cores issue filler when no count of theirs shows the fall (log 8); a halved clock runs at half,
whatever droop or current says (log 50). -/
def Obligations.PowerSteps : Prop :=
  ∀ (s : State) (i : IslandId) (v : W64) (ma temp oh emod prat step due free : Nat) (rail temps ests load : List Nat)
    (warned : Option Nat) (filler : List (CoreId × Nat)),
    let w := s.island i
    let c := w.clock
    let g := s.gov
    let clocked (j : Instr) (c' : Clock) : Prop := exec j s = .next (s.modIsland i (fun w => { w with clock := c' }))
    let asked : Nat × Nat :=
      if v.toNat / 2 ^ 8 % 4 = 2 ∧ 3 ≤ s.othersHigh i then (1, 7) else (v.toNat / 2 ^ 8 % 4, v.toNat % 8)
    let target (a : Nat × Nat) : Clock := { c with trat := a.1, tstep := a.2, supr := if c.rampDone then c.supr else c.supr + 1 }
    let at_boundary := s.time = 160000 * g.boundaries ∧ g.ticks = s.time / 1600 ∧ g.lowering = []
    let s0 := { s with gov := { g with gpol0 := g.gpol0Next, gpol1 := g.gpol1Next } }
    let gs := grants (s0.gov.plim - min (g.ohPj / 1000000) s0.gov.plim) s0.gov.nextMsh (s.islands.toList.map Island.weight)
      (s.islands.toList.map (fun v => v.mc / 1000000))
    (v.getLsbD 63 = true → v.toNat / 2 ^ 8 % 4 ≠ 3 → c.trat ≤ asked.1 → clocked (.ifreq i v) (target asked))
    ∧ (v.getLsbD 63 = true → v.toNat / 2 ^ 8 % 4 ≠ 3 → asked.1 < c.trat → clocked (.ifreq i v) { c with held := some asked })
    ∧ (v.getLsbD 63 = false ∨ v.toNat / 2 ^ 8 % 4 = 3 → exec (.ifreq i v) s = .next s)
    ∧ (s.time % 160 = 0 → g.ramps < s.time / 160 →
        let draws := (load[i.val]?).getD c.cur
        let reasons (d : CoreId) : Prop := (s.core d).ceased (g.guard == 3) = true
        let fell (d : CoreId) : Prop := (s.core d).fill.work < (s.core d).fill.level
        let held := if draws + 100 < c.cur then s.fillers i else []
        ∃ t, exec (.rampTick { load := load, filler := filler }) s = .next t ∧ t.gov = { g with ramps := s.time / 160 }
          ∧ { t with gov := g, islands := s.islands, cores := s.cores } = s
          ∧ (draws + 100 < c.cur → held ≠ []) ∧ (∀ d ∈ held, islandOf d = i)
          ∧ ((∃ d, islandOf d = i ∧ fell d ∧ reasons d) → ∀ d ∈ held, fell d ∧ reasons d)
          ∧ (draws + 100 < c.cur → ∀ d, islandOf d = i → fell d → reasons d → d ∈ held)
          ∧ (let goal := ratioV c.trat
            let full := ratioF c.trat c.tstep
            let volt := if c.v < goal then min goal (c.v + 35) else if goal < c.v then max goal (c.v - 35) else c.v
            t.island i = { w with clock := { c with
              v := volt, f := if min full c.f < full ∧ goal ≤ volt then full else min full c.f
              cur := if draws + 100 < c.cur then c.cur - 100 else draws } })
          ∧ (∀ d, { t.core d with fill := (s.core d).fill, activity := (s.core d).activity } = s.core d)
          ∧ (∀ d, islandOf d = i → d ∉ held → (t.core d).activity = (s.core d).activity
              ∧ (t.core d).fill.ops = (s.core d).fill.ops)
          ∧ (∀ d ∈ held, ∀ q, (s.core d).fill.gone = some q →
              (t.core d).activity = (s.core d).activity ∧ ∃ n, 1 ≤ n ∧ (t.core d).fill.ops = (s.core d).fill.ops ++ [(q, n)])
          ∧ (∀ d ∈ held, (s.core d).fill.gone = none → (t.core d).fill.ops = (s.core d).fill.ops
              ∧ (s.core d).activity[Activity.filler.code.val] < (t.core d).activity[Activity.filler.code.val]))
    ∧ clocked (.droopTrip i) { c with droop := true } ∧ clocked (.droopClear i) { c with droop := false }
    ∧ (w.ipol.toNat / 2 ^ 48 < ma → clocked (.overcurrent i ma) { c with overCur := true })
    ∧ (ma ≤ w.ipol.toNat / 2 ^ 48 → clocked (.currentLimitClear i ma) { c with overCur := false })
    ∧ (g.therm.toNat / 2 ^ 8 % 2 ^ 8 ≤ temp → clocked (.thermalCritical i temp) { c with hot := true, temp := temp })
    ∧ (temp < g.therm.toNat % 2 ^ 8 → clocked (.thermalRecovery i temp) { c with hot := false, temp := temp })
    ∧ (c.hot = false → c.stretching = true → c.f ≤ c.rate false free ∧ 9 * c.rate false free ≤ 16 * c.f)
    ∧ (c.hot = true → c.rate false free = c.f) ∧ (c.hot = false → c.stretching = false → c.rate false free = 2 * c.f)
    ∧ (s.time % 1600 = 0 → g.ticks < s.time / 1600 →
        ∃ t, exec (.energyTick rail oh emod temps) s = .next t ∧ t.mem = s.mem ∧ t.gov.ticks = s.time / 1600
          ∧ t.gov.ohPj = g.ohPj + oh ∧ t.gov.emodPj = g.emodPj + emod ∧ g.guard ≤ t.gov.guard
          ∧ (t.island i).bal = w.bal - (((w.residue + (rail[i.val]?).getD 0) / 1000000 : Nat) : Int)
          ∧ (t.island i).residue = (w.residue + (rail[i.val]?).getD 0) % 1000000
          ∧ (let seen := (temps[i.val]?).getD c.temp
            (t.island i).clock = { c with
              temp := seen
              hot := if g.therm.toNat / 2 ^ 8 % 2 ^ 8 ≤ seen then true else if seen < g.therm.toNat % 2 ^ 8 then false else c.hot }))
    ∧ (ests.length = 16 → ests.sum ≤ step →
        (ests.map (partOf step ma)).sum ≤ ma
        ∧ ((List.range 16).map (shareOf ests step ma (ma - (ests.map (partOf step ma)).sum) free)).sum = ma)
    ∧ (at_boundary → ∃ t, exec .governorIntervalBoundary s = .next t ∧ t.gov.boundaries = g.boundaries + 1 ∧ t.gov.guard = 0
        ∧ t.gov.mrate = g.mrateNext ∧ t.gov.gpol0 = g.gpol0Next ∧ t.gov.gpol1 = g.gpol1Next ∧ t.gov.sectors = 0 ∧ t.gov.emodPj = 0
        ∧ (t.island i).bal = min (w.bal + (((gs[i.val]?).getD 0 : Nat) : Int)) (s0.cap i : Int) ∧ (t.island i).mc = 0
        ∧ t.fabric = s.fabric ∧ t.slices = s.slices)
    ∧ (¬ at_boundary → exec .governorIntervalBoundary s = .next s)
    ∧ (g.lowering.find? (fun l => l.1 == i) = some (i, warned) → c.low = some (prat, step, due) → c.held = none →
        let rest : Gov := { g with lowering := g.lowering.filter (fun l => l.1 != i) }
        let done (c' : Clock) : Prop :=
          exec (.loweringDue i) s
            = .next ({ s with gov := rest }.modIsland i (fun w => { w with clock := { c' with low := none, warn := false } }))
        (w.fwh = true → done (target (prat, step)))
        ∧ (w.fwh = false → warned = none → done c)
        ∧ (w.fwh = false → warned = some prat → done (target (prat, step)))
        ∧ (∀ r, w.fwh = false → warned = some r → prat < r → done (target (r, 7)))
        ∧ (∀ r, w.fwh = false → warned = some r → r < prat → ∃ t, exec (.loweringDue i) s = .next t ∧ t.gov = rest
            ∧ (t.island i).clock
              = { target (prat, step) with low := some (r, 7, w.setting.lead), warn := true }))

/-! ### Steps of the host link and of boot -/

/-- Boot, identity and the mailbox (R392, R393, R398 to R401): a module reset leaves the state of reset, at STAGE 0, but the flash; the steps of bring-up follow:
the ROM runs the accepted slot of highest version and seals the floor raised to it, or stops with ERR 1; owner tags are set to 15; links are trained; a module is
ready, or has failed with ERR 2; a watchdog expiry stops every task, and nothing is served until a reset; a doorbell hands the request
over, one while a request is pending sets BUSYW; the attestation report, the certificate and a signed image; some registers, by their access codes
(R9, R328, R389), and what their reads return. Choices of the model: how a request carries its command, nonce and image (log 6); what an
image, a key and the floor's MAC hold (log 7); what a doorbell stores, the instant of the report, that a dead module serves nothing (log
61); what a reset leaves (logs 4, 62). -/
def Obligations.BootMailboxAndRegisters : Prop :=
  ∀ (s : State) (v : W64) (t : Tenant) (r : Reg) (e : Ecc) (off : Nat) (acc : HostAcc) (q j : Fin 4) (rest : List Turn) (trained : Bool),
    let h := s.host
    let alive := s.mgmt.dead = false
    let goes (i : Instr) (h' : HostSt) : Prop := exec i s = .next { s with host := h' }
    let version (i : Fin 2) : W32 := Config.imageVersion h.flash[i.val]
    let signed (img : List Byte) : Bool :=
      sha512 (Config.imageKey img) == Config.rootDigest
        && pssVerify (Config.keyModulus (Config.imageKey img)) (Config.keyExponent (Config.imageKey img)) (Config.imageBody img)
          (Config.imageSignature img)
    let isSealed : Prop := h.sealed = some (Config.floorMac h.floor) ∨ (h.sealed = none ∧ h.floor = 0)
    let ok (i : Fin 2) : Prop := h.flash[i.val] ≠ [] ∧ signed h.flash[i.val] = true ∧ isSealed ∧ h.floor.toNat ≤ (version i).toNat
    let boots (u : State) : Prop :=
      u.host.flash = h.flash ∧ u.host.msix = h.msix ++ [1] ∧ { u with host := h } = { s with agenda := rest }
        ∧ ((∃ i, ok i ∧ (∀ i', ok i' → (version i').toNat ≤ (version i).toNat) ∧ u.host.running = h.flash[i.val]
              ∧ u.host.floor = version i ∧ u.host.sealed = some (Config.floorMac (version i))
              ∧ u.host.hstat = setFld (setFld (setFld h.hstat 63 32 (version i).toNat) 23 16 0) 3 0 2)
          ∨ ((∀ i, ¬ ok i) ∧ u.host = { h with hstat := setFld (setFld h.hstat 23 16 1) 3 0 15, msix := h.msix ++ [1] }))
    let stage (n : Nat) (u : State) : State := { u with host := { h with hstat := setFld h.hstat 3 0 n, msix := h.msix ++ [1] } }
    let cmd := Config.commandOfRequest (h.request.readN 0 (fld h.hdb 15 0))
    let asked : Prop := h.pending = true ∧ alive
    let runs := 2 ≤ fld h.hstat 3 0 ∧ fld h.hstat 3 0 ≤ 4
    let answered (bs : List Byte) : HostSt :=
      { h with answer := h.answer.writeN 0 (bs.take 4096), hdb := setFld h.hdb 62 62 1, pending := false, msix := h.msix ++ [0] }
    let ts := s.tenants.toList
    let policy := (ts.map TenantSt.tcfg ++ ts.map TenantSt.tpwr ++ ts.map TenantSt.ttrap
      ++ [s.gov.gpol0Next, s.gov.gpol1Next, s.gov.mrateNext, s.gov.therm, h.hacc] ++ h.hseg.toList).flatMap (fun x => leBytes 8 x.toNat)
    let report := leBytes 4 0x54415452 ++ leBytes 4 1 ++ leBytes 64 (Config.nonceOfRequest (h.request.readN 0 (fld h.hdb 15 0))).toNat
      ++ sha512 Config.romImage ++ sha512 h.running ++ sha512 policy
    let signature := pssSign Config.identityModulus Config.identityPrivate report
      ((List.range 64).map (fun i => Config.freeByte (s.draws + i)))
    let img := Config.imageOfRequest (h.request.readN 0 (fld h.hdb 15 0))
    let writes (host : Bool) (r : Reg) (s' : State) : Prop := alive → exec (.registerWrite host r v) s = .next s'
    exec .moduleReset s = .next { State.reset with
        agenda := s.agenda, draws := s.draws
        host := { State.reset.host with flash := h.flash, floor := h.floor, sealed := h.sealed } }
    ∧ (alive → s.gov.lowering = [] → s.agenda = .outside (.bringUp trained) :: rest →
      let goesTo (u : State) : Prop := step s = .next u.afterTurn
      let s0 := { s with agenda := rest }
      (fld h.hstat 3 0 = 0 → goesTo (stage 1 s0)) ∧ (fld h.hstat 3 0 = 1 → ∃ u, goesTo u ∧ boots u)
      ∧ (fld h.hstat 3 0 = 2 → trained = true → goesTo (stage 3 { s0 with mgmt := { s.mgmt with tags := [] } }))
      ∧ (fld h.hstat 3 0 = 2 → trained = false → goesTo { s0 with
          host := { h with hstat := setFld (setFld h.hstat 23 16 2) 3 0 15, msix := h.msix ++ [1] } })
      ∧ (fld h.hstat 3 0 = 3 → goesTo (stage 4 s0)) ∧ (4 ≤ fld h.hstat 3 0 → goesTo s0))
    ∧ (∃ u, exec .watchdogExpiry s = .next u ∧ u.host.hstat = setFld (setFld h.hstat 23 16 3) 3 0 15
        ∧ u.mgmt = { s.mgmt with dead := true } ∧ u.mem = s.mem
        ∧ ∀ c, (s.core c).task.isSome = true → (u.core c).trap.stop = true)
    ∧ (s.mgmt.dead = true → ∀ i ∈ [Instr.hostDoorbell v, .attestationReport, .identityCertificate, .firmwareImageWrite,
          .lqsub true t q v, .ingressRecordWrite j v true, .ingressFlushTimeout j, .hostBar2Access off acc e, .registerWrite true r v],
        exec i s = .next s)
    ∧ (v.getLsbD 63 = true → alive →
        let hdb := setFld (h.hdb &&& ~~~(v &&& 0x6000000000000000)) 15 0 (fld v 15 0)
        (h.pending = false → goes (.hostDoorbell v) { h with hdb := hdb, pending := true })
        ∧ (h.pending = true → goes (.hostDoorbell v) { h with hdb := setFld hdb 61 61 1 }))
    ∧ report.length = 264 ∧ signature.length = 512
    ∧ (asked → runs → s.time + 160000 = 160000 * s.gov.boundaries →
        exec .attestationReport s
          = .next (if cmd = 0x0001 then { s with host := answered (report ++ signature), draws := s.draws + 64 } else s))
    ∧ (asked → runs → goes .identityCertificate (if cmd = 0x0002 then answered Config.certificate else h))
    ∧ (asked → runs →
        ∃ i, (h.flash[i.val] = [] ∨ ((∀ i' : Fin 2, h.flash[i'.val] ≠ []) ∧ ∀ i', (version i).toNat ≤ (version i').toNat))
          ∧ goes .firmwareImageWrite (if cmd ≠ 0x00F0 then h
            else if signed img then { answered [] with flash := h.flash.set i.val img i.isLt } else answered []))
    ∧ (writes false .hstat { s with host := { h with hstat := setFld (setFld h.hstat 9 8 (fld v 9 8)) 7 4 (fld v 7 4) } }
      ∧ writes false .hacc { s with host := { h with hacc := v &&& 0xFFFF } }
      ∧ writes false .mrate { s with gov := { s.gov with mrateNext := v &&& 0xFFFF } }
      ∧ writes false .gpol0 { s with gov := { s.gov with gpol0Next := v } }
      ∧ writes false .herr { s with host := { h with herr := h.herr &&& ~~~v } }
      ∧ writes true .herr { s with host := { h with herr := h.herr &&& ~~~v } }
      ∧ writes false .readOnly s ∧ writes true .hacc s ∧ writes true (.tcfg t) s ∧ writes true .gpol0 s
      ∧ (fld v 39 32 ≠ 0 → fld v 31 16 ≠ 0 → writes false (.tcfg t)
          { s.modTenant t (fun n => { n with tcfg := v &&& 0xBFFCFFFFFFFF0000 }) with disp := { s.disp with look := true } })
      ∧ (v.getLsbD 63 = false → writes true .hdb
          { s with host := { h with hdb := setFld (h.hdb &&& ~~~(v &&& 0x6000000000000000)) 15 0 (fld v 15 0) } })
      ∧ (h.hacc.getLsbD t.val = false → writes true (.lqstat t q) s)
      ∧ (h.hacc.getLsbD t.val = true → writes true (.lqstat t q) (s.modQueue t q (fun l => { l with
          rej := l.rej &&& ~~~(BitVec.ofNat 16 (fld v 63 48)), ovf := l.ovf &&& ~~~(BitVec.ofNat 16 (fld v 47 32)) }))))
    ∧ (let at_ := 0x100000 + 0x1000 * t.val + 16 * q.val
      s.bar0Read at_ = 0 ∧ s.bar0Read (at_ + 8) = (if h.hacc.getLsbD t.val then s.readReg (.plain (.lqstat t q)) else 0)
        ∧ s.bar0Read 0x10 = h.hacc ∧ s.bar0Read 0x20 = h.herr ∧ s.bar0Read 0x28 = 0 ∧ s.bar0Read (at_ + 0x400) = 0)
    ∧ (let l := (s.tenant t).queues[q.val]
      let x := s.readReg (.plain (.lqstat t q))
      fld x 63 48 = l.rej.toNat ∧ fld x 47 32 = l.ovf.toNat ∧ fld x 31 24 = 0 ∧ fld x 15 6 = 0
        ∧ (l.recs.length ≤ 32 → fld x 5 0 = l.recs.length)
        ∧ (∀ kn, s.queueHead t q = some kn → kn.skip ≤ 64 → fld x 23 16 = kn.skip))
    ∧ (s.readReg .owncmd = (if s.mgmt.own.isSome then 1 else 0) ∧ s.readReg (.lqsub t q) = 0
      ∧ fld (s.readReg (.plain .hdb)) 63 63 = 0
      ∧ fld (s.readReg (.plain (.evstat j))) 63 32 = (h.streams[j.val]).drop.toNat
      ∧ fld (s.readReg (.plain (.evstat j))) 31 0 = (h.streams[j.val]).sent.toNat)

/-- The PCIe link (R387, R388, R390): it goes down and comes up; a completion ends its request with the data or with the code of its status,
0x22 for an atomic refused as Unsupported Request, and a flushing read whatever the status; 50 ms without one give 0x21; an access
through BAR2, of the size that the host has chosen, reads or writes the bytes at (HWBASE + offset) mod 2^37 when the granule's tag lets the
host in, and is counted when not; an AtomicOp, there or at BAR0, is an Unsupported Request. Answers have the priority of their request (R81). -/
def Obligations.HostLinkSteps : Prop :=
  ∀ (s : State) (tag n off : Nat) (r : HostReq) (st : Cpl) (bs : List Byte) (a : AtomReq) (e : Ecc) (c : CoreId) (ag : Agent) (o : Nat),
    let h := s.host
    let goes (i : Instr) (h' : HostSt) : Prop := exec i s = .next { s with host := h' }
    let rest : List HostReq := h.reqs.filter (fun x => x.tag != tag)
    let bad (x : Cpl) (atom : Bool) : Nat :=
      match x with
      | .ok _ => 0
      | .unsupported => if atom then 0x22 else 0x20
      | .abort | .poisoned => 0x21
    let isData : Bool := match st with
      | .ok _ => true
      | _ => false
    let back (i : Instr) (b : Body) : Prop := ∃ u, exec i s = .next u ∧ u.host = { h with reqs := rest } ∧ u.mem = s.mem
      ∧ u.cores = s.cores ∧ u.fabric = (s.answer (sliceFor r.pa) r.pri r.who b).fabric
    let sliceAsks : Prop := (∀ c x y, r.who ≠ .fetch c x y) ∧ r.who ≠ .nobody
    let pa := (fld h.hwbase 36 30 * 2 ^ 30 + off) % 2 ^ 37
    let owner := s.ownerTag (granOf pa)
    let may : Prop := owner = 15 ∨ (owner ≤ 12 ∧ h.hacc.getLsbD owner = true)
    let changing : Prop := ∃ w, s.mgmt.own = some w ∧ w.gran = granOf pa
    let denied : HostSt := { h with herr := (satInc32 (h.herr.setWidth 32)).setWidth 64 }
    goes .pcieLinkDown { h with link := false } ∧ goes .pcieLinkUp { h with link := true }
    ∧ (s.hostReq tag = some r → s.disp.subs = [] →
        (r.who = .fetch c ag o → bs.length = r.size → r.flush = false → (s.core c).fetchedAt (agentSect ag).1 o = none →
          ∃ u, exec (.hostCompletion tag (.ok bs)) s = .next u ∧ u.host = { h with reqs := rest }
            ∧ (u.core c).fetchedAt (agentSect ag).1 o = some (BitVec.ofNat 32 (leNat bs)))
        ∧ (sliceAsks → r.atom = none → r.flush = false →
            (bs.length = r.size → back (.hostCompletion tag (.ok bs)) (.readReply r.pa bs 0 r.who))
            ∧ (isData = false → back (.hostCompletion tag st) (.readReply r.pa [] (bad st false) r.who))
            ∧ (r.sent + 80000000 ≤ s.time → back (.completionTimeout tag) (.readReply r.pa [] 0x21 r.who)))
        ∧ (sliceAsks → r.atom = none → r.flush = true → isData = false →
            back (.hostCompletion tag st) (.readReply r.pa [] 0 r.who))
        ∧ (sliceAsks → r.atom = some a → r.flush = false →
            (bs.length = r.size →
              back (.hostCompletion tag (.ok bs)) (.atomReply (BitVec.ofNat 64 (leNat bs)) (a.result (leNat bs)).2 0 r.who))
            ∧ (st = .abort ∨ st = .poisoned → back (.hostCompletion tag st) (.atomReply 0 false 0x21 r.who))
            ∧ (st = .unsupported → ∃ u, exec (.hostCompletion tag st) s = .next u ∧ u.host.reqs = rest
                ∧ u.fabric = (s.answer (sliceFor r.pa) r.pri r.who (.atomReply 0 false 0x22 r.who)).fabric)))
    ∧ (s.hostReq tag = some r → s.time < r.sent + 80000000 → exec (.completionTimeout tag) s = .next s)
    ∧ (s.hostReq tag = none → exec (.hostCompletion tag st) s = .next s ∧ exec (.completionTimeout tag) s = .next s)
    ∧ (s.mgmt.dead = false → goes (.hostBar2Access off (.atomic true) e) { h with cpls := h.cpls ++ [.unsupported] }
        ∧ (∀ k : Fin 8, goes (.hostBar2Access off (.size k) e) { h with bar2 := 30 + k.val })
        ∧ (2 ^ h.bar2 ≤ off → exec (.hostBar2Access off (.read n) e) s = .next s
            ∧ exec (.hostBar2Access off (.write bs) e) s = .next s ∧ exec (.hostBar2Access off (.atomic false) e) s = .next s))
    ∧ (s.mgmt.dead = false → EccClean e → 0 < n → pa % 128 + n ≤ 128 → off < 2 ^ h.bar2 →
        (¬ may → goes (.hostBar2Access off (.read n) e) { denied with cpls := h.cpls ++ [.abort] })
        ∧ (may → s.sliceStuck (sliceFor pa) (lineOf pa) = false → s.lineFree (sliceFor pa) = true →
            ∃ u, exec (.hostBar2Access off (.read n) e) s = .next u ∧ u.mem = s.mem
              ∧ u.host = { h with cpls := h.cpls ++ [.ok (s.mem.readN pa n)] } ∧ u.cores = s.cores)
        ∧ (bs.length = n → ¬ may ∨ changing → goes (.hostBar2Access off (.write bs) e) denied)
        ∧ goes (.hostBar2Access off (.atomic false) e) { h with cpls := h.cpls ++ [.unsupported] }
        ∧ (bs.length = n → may → ¬ changing → s.sliceStuck (sliceFor pa) (lineOf pa) = false →
            s.lineFree (sliceFor pa) = true →
            ∃ u, exec (.hostBar2Access off (.write bs) e) s = .next u ∧ Wrote s.mem u.mem pa bs ∧ u.host = h ∧ u.cores = s.cores))

/-- Submissions, event records and peer modules (R278, R326, R327, R391, R397): what a write of LQSUB enters or counts; the message that a
record or the flush time sends to its core, taken, lost or sent again there; a link that goes down or comes up, the module that a port
then names, and the port that an access to a module takes; what a peer asks of this module's memory, and replayed flits; a forwarded record
and a completion report go and come. Choices of the model: an LQSUB address that is no multiple of 64 counts in OVF (log 69); the source
word of a record's message has bit 16 alone (log 59); the message comes from a free router, and SENT counts it when it is taken (log 91);
a peer's access enters at the line's slice (log 63). -/
def Obligations.SubmissionsStreamsAndPeers : Prop :=
  ∀ (s s1 : State) (host : Bool) (t : Tenant) (q j : Fin 4) (v : W64) (bs : List Byte) (f : XFault) (c : CoreId) (u : Tenant)
    (p : Fin 2) (cut : List (Fin 4)) (i : Fin 4) (lanes n d : Nat) (seen : List PeerView) (qn k number acceptor device : Nat)
    (kn : Kernel) (cause : Option Nat) (r0 : Nat × W64) (m : Mail) (fm : Flit) (rest : List Turn) (ask : PeerAccess),
    let va := fld v 47 0
    let sub := exec (.lqsub host t q v) s
    let recs (s : State) : List LRec := ((s.tenant t).queues[q.val]).recs
    let lost (s : State) : State := s.modQueue t q (fun l => { l with ovf := satInc16 l.ovf })
    let enters (s1 : State) (o : Host.Outcome State Fault Refusal) (origin : Option (Nat × Nat × Nat)) : Prop :=
      ∃ u, o = .next u ∧ recs u = recs s1 ++ [{ bytes := bs, serial := (s1.tenant t).serial, kernel := none, origin := origin }]
        ∧ (u.tenant t).serial = (s1.tenant t).serial + 1 ∧ u.mem = s1.mem ∧ u.cores = s1.cores ∧ u.host = s1.host
    let w := s.host.streams[j.val]
    let en := w.cfg.getLsbD 63 = true
    let tmo := fld w.cfg 7 0
    let stream (i : Instr) (w' : Stream) : Prop :=
      exec i s = .next { s with host := { s.host with streams := s.host.streams.set j.val w' j.isLt } }
    let drops (m : Nat) : W32 := BitVec.ofNat 32 (min 0xFFFFFFFF (w.drop.toNat + m))
    let target : Prop := fld w.cfg 55 48 = c.val
    let posts (x : State) (m : Mail) : Prop :=
      x.mem = s.mem ∧ x.cores = s.cores ∧ ∃ i : SliceId, (∀ r, r ≠ sliceRouter i → x.router r = s.router r)
        ∧ ∃ fl : Flit, fl.dst = coreRouter c ∧ fl.body = .mail c m (.stream j (fld w.cfg 59 56)) .nobody
          ∧ x.router (sliceRouter i) = { s.router (sliceRouter i) with outbox := (s.router (sliceRouter i)).outbox ++ [fl] }
    let sends (i : Instr) (rs : List (Nat × W64)) : Prop :=
      let m : Mail := {
        dw := BitVec.ofNat 64 (w.sent.toNat * 2 ^ 32 + j.val * 2 ^ 8 + rs.length) :: rs.map Prod.snd
          ++ List.replicate (7 - rs.length) 0
        src := 0x10000, hnd := BitVec.ofNat 64 (fld w.cfg 47 8) }
      ∃ x, exec i s = .next x ∧ posts x m ∧ x.host.streams[j.val] = { w with buf := [], out := some (c, m, rs.length, none) }
    let writes := Instr.ingressRecordWrite j v true
    let arrived := w.buf ++ [(s.time, v)]
    let port := s.host.slnk[p.val]
    let up (x : Fin 2) : Prop := (s.host.slnk[x.val]).getLsbD 63 = true
    let me := s.modIndex
    let there (x : State) (i : Nat) : Prop := i ≠ me ∧ (x.peer i).isSome = true
    let isNext (x : State) (dir n : Nat) : Prop :=
      ∃ d, 1 ≤ d ∧ d ≤ 3 ∧ n = (me + dir * d) % 4 ∧ there x n ∧ ∀ e, 1 ≤ e → e < d → ¬ there x ((me + dir * e) % 4)
    let named (x : State) (old : W64) (p : Fin 2) : Prop :=
      ∃ n, isNext x (if p = 0 then 1 else 3) n ∧ x.host.slnk[p.val] = setFld old 55 54 n
    let found (x : State) : Prop :=
      (∀ w ∈ seen, w.index.val ≠ me → ∃ v ∈ seen, v.index = w.index ∧ ∃ m ∈ x.host.peers,
          m.index = w.index.val ∧ m.tags = v.tags ∧ m.enabled = v.enabled)
        ∧ (∀ j, (∀ w ∈ seen, w.index.val ≠ j) → x.peer j = s.peer j)
        ∧ { x with host := { x.host with slnk := s.host.slnk, peers := s.host.peers, cuts := s.host.cuts } } = s
    let reaches (i : Nat) : Prop := (s.peer i).isSome = true ∧ s.portTo i 0 ≠ none
    let acts (o : Outside) (x : State) : Prop :=
      s.agenda = .outside o :: rest → s.gov.lowering = [] → step s = .next x.afterTurn
    let s0 := { s with agenda := rest }
    let dropped : State := { s with disp := { s.disp with peer := s.disp.peer.eraseIdx n } }
    s.mgmt.dead = false →
    ((host = true → s.host.hacc.getLsbD t.val = false → sub = .next s)
      ∧ ((host = true → s.host.hacc.getLsbD t.val = true) →
        (32 ≤ (recs s).length ∨ va % 64 ≠ 0 → sub = .next (lost s))
        ∧ ((recs s).length < 32 → va % 64 = 0 →
          (s.readTenant t va 64 = (s1, .ok bs) → enters s1 sub none)
          ∧ (s.readTenant t va 64 = (s1, .fault f) → sub = .next (lost s1)))))
    ∧ (stream (.ingressRecordWrite j v false) { w with drop := drops 1 }
      ∧ (¬ en ∨ 64 ≤ w.buf.length → stream writes { w with drop := drops 1 })
      ∧ (en → w.out = none → tmo ≠ 0 → w.buf.length < 6 → (∀ r ∈ w.buf.head?, s.time < r.1 + tmo * 1600) →
          stream writes { w with buf := arrived })
      ∧ (en → w.out = some (c, m, k, none) → w.buf.length < 64 → stream writes { w with buf := arrived })
      ∧ (en → w.out = none → target → (tmo ≠ 0 ∧ w.buf.length = 6) ∨ (tmo = 0 ∧ w.buf = []) → sends writes arrived)
      ∧ (en → w.out = none → 160 ≤ fld w.cfg 55 48 → tmo ≠ 0 → w.buf.length = 6 → stream writes { w with buf := [], drop := drops 7 })
      ∧ (en → w.out = none → target → tmo ≠ 0 → w.buf.head? = some r0 → w.buf.length < 7 → r0.1 + tmo * 1600 ≤ s.time →
          sends (.ingressFlushTimeout j) w.buf)
      ∧ (w.out = none → tmo ≠ 0 → w.buf.length < 7 → (∀ r ∈ w.buf.head?, s.time < r.1 + tmo * 1600) →
          exec (.ingressFlushTimeout j) s = .next s)
      ∧ (w.out = some (c, m, k, some d) → (s.time < d → exec (.ingressFlushTimeout j) s = .next s)
          ∧ (d ≤ s.time → ∃ x, exec (.ingressFlushTimeout j) s = .next x ∧ posts x m
              ∧ x.host.streams[j.val] = { w with out := some (c, m, k, none) }))
      ∧ (s.coreMsg c n = some fm → fm.body = .mail c m (.stream j number) .nobody → w.out = some (c, m, k, none) →
          let taken := s.coreTake c n
          let became (i : State) (w' : Stream) : State :=
            { i with host := { i.host with streams := s.host.streams.set j.val w' j.isLt } }
          let arrival := exec (.messageArrival c n) s
          ((∀ u, (s.core c).tenant = some u → u.val ≠ number) →
              arrival = .next (became taken { w with
                out := none, drop := drops ((m.dw.headD 0).toNat % 256) }))
          ∧ ((s.core c).tenant = some u → u.val = number → (s.core c).sync.mail.length < 4 →
              arrival = .next (became (taken.modCore c (fun l => { l with sync := { l.sync with mail := l.sync.mail ++ [m] } }))
                { w with out := none, sent := w.sent + 1 }))
          ∧ ((s.core c).tenant = some u → u.val = number → 4 ≤ (s.core c).sync.mail.length →
              arrival = .next (became taken { w with out := some (c, m, k, some (s.time + 256)) }))))
    ∧ ((¬ up p → exec (.stolepelLinkDown (.port p) cut) s = .next s)
      ∧ (up p → ∃ x, exec (.stolepelLinkDown (.port p) cut) s = .next x
          ∧ x.host.slnk = s.host.slnk.set p.val
              (setFld (setFld (setFld port 63 63 0) 59 56 0) 15 0 (min 65535 (fld port 15 0 + 1))) p.isLt
          ∧ (∀ j, j ∈ x.host.cuts ↔ j ∈ s.host.cuts ∨ j ∈ cut.map Fin.val)
          ∧ { x with host := { x.host with slnk := s.host.slnk, cuts := s.host.cuts } } = s)
      ∧ (∃ x, exec (.stolepelLinkDown (.after i) cut) s = .next x
          ∧ (∀ j, j ∈ x.host.cuts ↔ j ∈ s.host.cuts ∨ j = i.val ∨ j ∈ cut.map Fin.val)
          ∧ { x with host := { x.host with cuts := s.host.cuts } } = s)
      ∧ ((∃ w ∈ seen, w.index.val ≠ me) → ∃ x, exec (.stolepelLinkUp (.port p) cut lanes seen) s = .next x ∧ found x
          ∧ named x (setFld (setFld port 63 63 1) 59 56 (min lanes 8)) p
          ∧ (if up (1 - p) then named x s.host.slnk[(1 - p).val] (1 - p) else x.host.slnk[(1 - p).val] = s.host.slnk[(1 - p).val])
          ∧ ∀ j, j ∈ x.host.cuts ↔ j ∈ s.host.cuts ∧ j ∉ cut.map Fin.val)
      ∧ ((∃ w ∈ seen, w.index.val ≠ me) → ∃ x, exec (.stolepelLinkUp (.after i) cut lanes seen) s = .next x ∧ found x
          ∧ (∀ p, if up p then named x s.host.slnk[p.val] p else x.host.slnk[p.val] = s.host.slnk[p.val])
          ∧ ∀ j, j ∈ x.host.cuts ↔ j ∈ s.host.cuts ∧ j ≠ i.val ∧ j ∉ cut.map Fin.val))
    ∧ (∀ i pa, there s i → i < 4 →
      let upward := s.wayUp me i
      let downward := s.wayUp i me
      let whole (l : List Nat) : Prop := ∀ j ∈ l, s.linkUp j = true
      (¬ whole upward → ¬ whole downward → s.portTo i pa = none)
      ∧ (whole upward → ¬ whole downward → s.portTo i pa = some 0) ∧ (¬ whole upward → whole downward → s.portTo i pa = some 1)
      ∧ (whole upward → whole downward → (∀ j, there s j → j < 4 → j = i) → s.portTo i pa = some (if pa / 128 % 2 = 1 then 1 else 0))
      ∧ (whole upward → whole downward → (∃ j, there s j ∧ j < 4 ∧ j ≠ i) →
          s.portTo i pa = some (if downward.length < upward.length then 1 else 0)))
    ∧ ((∀ k, acts (.retry p k) { s0 with host := { s.host with
          slnk := s.host.slnk.set p.val (setFld port 31 16 (min 65535 (fld port 31 16 + k))) p.isLt } })
      ∧ (ask.dst.val ≠ me → acts (.peer ask) s0)
      ∧ (∀ pa n, ask.dst.val = me → ask.ask = .read pa n → 0 < n → pa % 32 + n ≤ 32 → pa < 2 ^ 37 →
          ∃ x fl, acts (.peer ask) x ∧ { x with fabric := s.fabric } = s0
            ∧ (∀ r, r ≠ sliceRouter (sliceFor pa) → x.router r = s.router r)
            ∧ x.router (sliceRouter (sliceFor pa))
                = { s.router (sliceRouter (sliceFor pa)) with inbox := (s.router (sliceRouter (sliceFor pa))).inbox ++ [fl] }
            ∧ fl.body = .read pa n 0 ask.tenant ask.hint true (.peer ask.src.val ask.tag) ∧ fl.pri = ask.pri.val))
    ∧ ((s.disp.peer[n]? = some (.launch d t qn bs k) →
          (reaches d → exec (.launchForward (.sent n)) s = .next dropped) ∧ (¬ reaches d → exec (.launchForward (.sent n)) s = .next s))
      ∧ ((recs s).length < 32 → enters s (exec (.launchForward (.taken acceptor number device t q bs)) s) (some (acceptor, number, device)))
      ∧ (s.disp.peer[n]? = some (.report d k cause) →
          (reaches d → exec (.taskCompletionReport (.sent n)) s = .next dropped)
          ∧ (¬ reaches d → exec (.taskCompletionReport (.sent n)) s = .next s))
      ∧ (s.kernel k = some kn → kn.acceptor = s.modIndex → kn.owes = false → kn.completed + 1 < kn.nc * kn.nd →
          ∃ x, exec (.taskCompletionReport (.taken k cause)) s = .next x ∧ x.mem = s.mem ∧ x.cores = s.cores
            ∧ x.kernel k = some { kn with
                completed := kn.completed + 1, killed := if cause.isSome then kn.killed + 1 else kn.killed
                cause := if kn.killed = 0 then cause.getD kn.cause else kn.cause }))

/-! ### Steps of the dispatcher -/

/-- Slices, saves and completion (R338, R339, R373, R381): at the end of its slice a gang is stopped for a save when a ready gang of its
class or a higher one cannot be placed and its tenant has slots for it, and else a new slice begins; a stopped gang whose members have all
drained is saved into free slots; a core whose conditions all hold completes its task and frees, and its kernel counts it; registration
entries, semaphores and queues are discarded. That the freed core keeps its registers is the model's reading (log 104). -/
def Obligations.DispatcherSteps : Prop :=
  ∀ (s : State) (g : Nat) (v : Gang) (c : CoreId) (tk : Task) (kn : Kernel),
    let q := s.tenant v.tenant
    let spent : Prop := v.since + 16000 * fld q.policy 31 16 ≤ s.time
    let waits : Prop := ∃ d t h, v.cls ≤ d ∧ d < 4 ∧ s.head t d = some h ∧ s.choose t h = none
    let slots : Prop := v.left.length ≤ s.slotsLeft v.tenant
    let k := s.core c
    let ended : Prop := (k.ctx 0).run = .ended ∧ k.seqs.l.ended = true ∧ k.seqs.c.ended = true ∧ k.seqs.s.ended = true
      ∧ (∀ x, x ≠ 0 → (k.ctx x).run = .dormant) ∧ k.sync.mail = [] ∧ (∀ x, (k.ctx x).loads = [] ∧ (k.ctx x).stores = []) ∧ k.atoms = []
      ∧ (∀ w ∈ k.land.copies ++ k.land.orphans, w.live = false ∧ (w.op.isS = true → w.out = [])) ∧ k.land.windows = [] ∧ k.land.fetches = [] ∧ k.seqs.c.ret = [] ∧ k.seqs.l.pend = []
      ∧ k.seqs.s.pend = [] ∧ k.matrix.words = [] ∧ k.trap.strict = none ∧ k.trap.halt = none ∧ k.trap.hmode = false
    let counted (killed : Option Nat) : Prop :=
      ∃ t, exec (.taskCompletion c) s = .next t ∧ (t.core c).task = none ∧ (∀ d, d ≠ c → t.core d = s.core d) ∧ t.mem = s.mem
        ∧ (t.core c).regs = k.regs ∧ (t.core c).pool = k.pool ∧ (t.core c).matrix.tiles = k.matrix.tiles ∧ (t.core c).land.wms = k.land.wms
        ∧ (∀ x, ((t.core c).ctx x).regs = (k.ctx x).regs)
        ∧ (t.core c).sync.entries = [] ∧ (∀ i, (t.core c).sem i = 0) ∧ (∀ n, (t.core c).queue n = [])
        ∧ t.disp.due = true
        ∧ t.kernel v.kernel = some { kn with
            completed := kn.completed + 1, killed := if killed.isSome then kn.killed + 1 else kn.killed
            cause := if kn.killed = 0 then killed.getD kn.cause else kn.cause }
        ∧ t.gang g = (if v.left.filter (fun x => x != tk.member) = [] then none
            else some { v with left := v.left.filter (fun x => x != tk.member) })
    s.gang g = some v →
    (v.st = .running →
      (spent → waits → slots → ∃ t, exec (.sliceExpiry g) s = .next t ∧ t.gang g = some { v with st := .saving }
        ∧ (∀ d ∈ v.live, (t.core d).trap.stop = true) ∧ (∀ d, d ∉ v.live → t.core d = s.core d) ∧ t.mem = s.mem)
      ∧ (spent → ¬ (waits ∧ slots) → ∃ t, exec (.sliceExpiry g) s = .next t ∧ t.gang g = some { v with since := s.time }
        ∧ { t with disp := s.disp } = s)
      ∧ (¬ spent → exec (.sliceExpiry g) s = .next s))
    ∧ (v.st = .saving → v.live.Nodup → v.live.length ≤ q.freeSlots.length → (∀ d ∈ v.live, (s.core d).task.isSome = true) →
      ((∀ d ∈ v.live, (s.core d).saveReady = true) →
        ∃ t, exec (.preemption g) s = .next t ∧ t.gang g = some { v with st := .saved, since := s.time }
          ∧ (∀ d ∈ v.live, (t.core d).task = none) ∧ (∀ d, d ∉ v.live → t.core d = s.core d)
          ∧ (t.tenant v.tenant).saved.map Saved.slot = q.saved.map Saved.slot ++ q.freeSlots.take v.live.length)
      ∧ ((∃ d ∈ v.live, (s.core d).saveReady = false) → exec (.preemption g) s = .next s))
    ∧ (k.task = some tk → tk.gang = g →
      (v.st = .running → k.trap.stop = false → ¬ ended → exec (.taskCompletion c) s = .next s)
      ∧ (s.kernel v.kernel = some kn → kn.acceptor = s.modIndex → kn.completed + 1 < kn.nc * kn.nd →
        (v.st = .running → k.trap.stop = false → ended → counted none)
        ∧ (v.st = .killing → k.killDone = true → counted (some (v.cause.toNat % 256)))))

/-! ### Words, steps, reset, memory -/

/-- Decoding undoes encoding: the word of every well-formed instruction, with every operand at every value, decodes in each section that
holds it to that instruction; a word of C keeps its chain bit (R33 to R48). -/
def Obligations.DecodeUndoesEncode : Prop :=
  ∀ (i : Instr) (chain : Bool), i.wf = true →
    (i.home = .scalar → encode i < 2 ^ 32 ∧ decodeWord .scalar (encode i) = .ok (false, i))
    ∧ (i.home = .loadStore ∨ i.home = .load → encode i < 2 ^ 32 ∧ decodeWord .load (encode i) = .ok (false, i))
    ∧ (i.home = .loadStore ∨ i.home = .store → encode i < 2 ^ 32 ∧ decodeWord .store (encode i) = .ok (false, i))
    ∧ (i.home = .compute → encodeC chain i < 2 ^ 32 ∧ decodeWord .compute (encodeC chain i) = .ok (chain, i))

/-- Encoding undoes decoding: a word that a section's decoder accepts is the word of the instruction that it gives, which is well formed
and stands in that section; so no bit of a word is ignored, and no two words of a section mean the same (R33 to R48). -/
def Obligations.EncodeUndoesDecode : Prop :=
  ∀ (sec : Sect) (w : Nat) (chain : Bool) (i : Instr), w < 2 ^ 32 → decodeWord sec w = .ok (chain, i) →
    i.wf = true ∧ (sec ≠ .compute → chain = false) ∧ (if sec = .compute then encodeC chain i else encode i) = w
    ∧ i.home ∈ (match sec with
      | .scalar => [Home.scalar]
      | .load => [Home.load, Home.loadStore]
      | .store => [Home.store, Home.loadStore]
      | .compute => [Home.compute])

/-- A few words of the spec's own examples and encoding tables, and the instructions that they stand for (R33 to R48). -/
def Obligations.WordsDecode : Prop :=
  decodeWord .scalar 0x00611001 = .ok (false, .xAdd 3 1 2)
  ∧ decodeWord .scalar 0x1084FFFF = .ok (false, .xAddi 4 4 0xFFFF)
  ∧ decodeWord .scalar 0xD80328C0 = .ok (false, .bwait 3 5 6)
  ∧ decodeWord .scalar 0xC8001801 = .ok (false, .xSema 6 1)
  ∧ decodeWord .scalar 0xF4000000 = .ok (false, .tret)
  ∧ decodeWord .scalar 0x0C000000 = .error .opcode
  ∧ decodeWord .load 0xF8000000 = .ok (false, .lsNop 0)
  ∧ decodeWord .compute 0x8F182860 = .ok (true, .fma { d := 70, a := 5, b := 6, m := .plain })
  ∧ decodeWord .compute 0x00000000 = .error .opcode

/-- One step (R32, R43, R48, R370, R372, R373, R380): the turn at the head of the agenda is taken. An agent that may issue, with no warning
pending, runs the instruction that the word at its pc decodes to, or the bundle's; a word or a bundle that is no instruction traps; a
strict mark is taken at a synchronisation word, a warning before a word, unless the word takes a trap of its own; a lowering that has fallen due at a
boundary comes before every turn (R349, R360); a step of the device has its meaning. After the word the core's
waiting tokens move, and after the turn the dispatcher does what has become due. The agenda is the model's own (log 1). -/
def Obligations.StepRunsTheDecodedInstruction : Prop :=
  ∀ (s s1 : State) (c : CoreId) (a : Agent) (rest : List Turn) (w : W32) (i : Instr) (is : List Instr) (e : BadWord) (x : CtxId)
    (va p due : Nat),
    let k := s.core c
    let s0 := { s with agenda := rest }
    let f0 := { s0 with focus := (c, a) }
    let ends (o : Host.Outcome State Fault Refusal) : Prop :=
      step s = match o with
        | .next t => .next (t.afterIssue c a).afterTurn
        | .fault f => .fault f
        | .refused r => .refused r
    let illegal : Prop := ends (.next (s1.raise c a causeIllegal 0 0))
    (s.agenda = .issue c a :: rest → k.mayIssue a = true → s.gov.guard ≠ 3 → s.gov.lowering = [] →
      (k.trap.warn = none →
        (a ≠ .c → (∀ b, a = lsAgent b → (k.ls b).reading = none ∧ k.holdsPush b = []) →
          f0.fetchWord c a (k.pc a).toNat = (s1, .word w) →
          (decodeWord (agentSect a).2 w.toNat = .ok (false, i) →
            (s1.strictAt c a i = none → ends (exec i s1))
            ∧ (∀ t, s1.strictAt c a i = some va → exec i s1 = .next t →
                ((s1.core c).trapsNow (t.core c) = true → ends (.next t))
                ∧ ((s1.core c).trapsNow (t.core c) = false →
                  ends (.next ((s1.modCore c (fun k => { k with trap := { k.trap with strict := none } })).raise
                    c a causeStrict 0x30 (BitVec.ofNat 64 va))))))
          ∧ (decodeWord (agentSect a).2 w.toNat = .error e → illegal))
        ∧ (a = .c → k.cHolds = [] →
          (f0.fetchBundle c 3 (k.pc a).toNat = (s1, .ok is) →
            (bundleLegal is = true → is = [i] → ends (exec i s1))
            ∧ (bundleLegal is = true → 1 < is.length → ends (.next (s1.cBundle (is.filterMap planOf))))
            ∧ (bundleLegal is = false → illegal))
          ∧ (f0.fetchWord c a (k.pc a).toNat = (s1, .word w) →
            (decodeC w.toNat = .ok (false, i) → f0.fetchBundle c 3 (k.pc a).toNat = (s1, .ok [i]))
            ∧ (decodeC w.toNat = .error e → illegal))))
      ∧ (k.trap.warn = some (p, due) → k.trap.hmode = false → k.hidx ≠ noHandler →
          ∀ t, s0.issueNow c a = .next t →
            ((k.trapsNow (t.core c) = true → step s = .next t.afterTurn)
            ∧ (k.trapsNow (t.core c) = false → step s = .next ((s0.modCore c (fun k => { k with
                trap := { k.trap with warn := none } })).raise c (.x 0) causeThrottle (p + 16 * due) 0).afterTurn))))
    ∧ (s.agenda = .issue c a :: rest → s.gov.lowering = [] → k.mayIssue a = false ∨ s.gov.guard = 3 → step s = .next s0.afterTurn)
    ∧ (∀ l more, s.gov.lowering = l :: more →
      step s = match exec (.loweringDue l.1) s with
        | .next t => .next t.afterTurn
        | .fault f => .fault f
        | .refused r => .refused r)
    ∧ (k.trap.hmode = false → k.trap.strict = some va → s.strictAt c (.x x) (.fence .core) = some va)
    ∧ (s.agenda = .event i :: rest → s.gov.lowering = [] → i.home = .device → i.wf = true →
      step s = match exec i s0 with
        | .next t => .next t.afterTurn
        | .fault f => .fault f
        | .refused r => .refused r)

/-- What the spec says the module holds right after reset (R65, R84, R94, R279, R343, R348, R351 to R353, R356, R361, R376, R389, R393). -/
def Obligations.ResetHoldsTheSpecsValues : Prop :=
  let s := State.reset
  (∀ g, s.ownerTag g = 15) ∧ s.time = 0 ∧ s.mem.wf = true
    ∧ (∀ t, let q := s.tenant t
        fld q.tcfg 63 63 = 0 ∧ fld q.tcfg 61 60 = 3 ∧ fld q.tcfg 59 50 = 0x3FF ∧ fld q.tcfg 47 40 = 0 ∧ fld q.tcfg 39 32 = 1
          ∧ fld q.tcfg 31 16 = 200 ∧ q.ttrap.toNat = 100 ∧ fld q.tpwr 13 12 = 0 ∧ fld q.tpwr 11 10 = 2 ∧ fld q.tpwr 9 9 = 0
          ∧ fld q.tpwr 8 8 = 1 ∧ fld q.tpwr 3 0 = 1 ∧ q.troot = 0 ∧ q.fqbase = 0 ∧ q.svbase = 0)
    ∧ (∀ i, let v := s.island i
        fld v.ipol 63 48 = 4000 ∧ fld v.ipol 47 40 = 1 ∧ fld v.fthr 15 13 = 4 ∧ fld v.fthr 10 0 = 256 ∧ v.clock.v = 7000
          ∧ v.clock.f = 800 ∧ v.clock.trat = 1 ∧ v.clock.tstep = 0 ∧ v.bal = 0)
    ∧ fld s.gov.mrate 15 0 = 641 ∧ s.gov.plim = 3500 ∧ fld s.gov.therm 7 0 = 95 ∧ fld s.gov.therm 15 8 = 105
    ∧ fld s.host.hstat 7 4 = 1 ∧ s.stage = 0 ∧ s.err = 0 ∧ s.host.hacc = 0 ∧ (∀ j : Fin 64, s.host.hseg[j.val] = 0)
    ∧ (∀ j : Fin 4, s.host.streams[j.val] = { cfg := 0, drop := 0, sent := 0, buf := [], out := none })

/-- Memory (R8, log 3): a write of bytes changes exactly those bytes and keeps the canonical form, and so does a clear; a number written in
n bytes reads back modulo 256^n; two memories in canonical form that read alike at every address are equal. -/
def Obligations.MemoryLaws : Prop :=
  ∀ (m m' : Mem) (a lo hi n v : Nat) (bs : List Byte),
    (m.wf = true → (m.writeN a bs).wf = true ∧ (m.clear lo hi).wf = true)
    ∧ Wrote m (m.writeN a bs) a bs
    ∧ (∀ b, (m.clear lo hi).read b = if lo ≤ b ∧ b < hi then 0 else m.read b)
    ∧ (m.writeN a (leBytes n v)).readLe a n = v % 256 ^ n
    ∧ m.readLe a n < 256 ^ n ∧ (m.readN a n).length = n
    ∧ (m.wf = true → m'.wf = true → (∀ b, m.read b = m'.read b) → m = m')

/-- Whatever turn a step takes, of an agent or of the device, known or free, the module's memory keeps its canonical form: addresses
rising, no entry that reads as an unlisted address does. The form is the model's own (log 3), over the memory of R8. -/
def Obligations.EveryStepKeepsMemoryCanonical : Prop :=
  ∀ s t : State, s.mem.wf = true → step s = .next t → t.mem.wf = true
end

