-- ==== Sys2Proof/Laws/State.lean ====
section
/-! SUPPORT. What each plain update of the state and of a core leaves as it was: one lemma per field, true by rfl. -/

namespace Sys2Proof.Machine

open Sys2Proof

/-! ### setCore -/

@[simp] theorem State.setCore_agenda (s : State) (c : CoreId) (k : Core) : (s.setCore c k).agenda = s.agenda := rfl
@[simp] theorem State.setCore_draws (s : State) (c : CoreId) (k : Core) : (s.setCore c k).draws = s.draws := rfl
@[simp] theorem State.setCore_upset (s : State) (c : CoreId) (k : Core) : (s.setCore c k).upset = s.upset := rfl
@[simp] theorem State.setCore_focus (s : State) (c : CoreId) (k : Core) : (s.setCore c k).focus = s.focus := rfl
@[simp] theorem State.setCore_time (s : State) (c : CoreId) (k : Core) : (s.setCore c k).time = s.time := rfl
@[simp] theorem State.setCore_mem (s : State) (c : CoreId) (k : Core) : (s.setCore c k).mem = s.mem := rfl
@[simp] theorem State.setCore_slices (s : State) (c : CoreId) (k : Core) : (s.setCore c k).slices = s.slices := rfl
@[simp] theorem State.setCore_walkPtrs (s : State) (c : CoreId) (k : Core) : (s.setCore c k).walkPtrs = s.walkPtrs := rfl
@[simp] theorem State.setCore_fabric (s : State) (c : CoreId) (k : Core) : (s.setCore c k).fabric = s.fabric := rfl
@[simp] theorem State.setCore_islands (s : State) (c : CoreId) (k : Core) : (s.setCore c k).islands = s.islands := rfl
@[simp] theorem State.setCore_tenants (s : State) (c : CoreId) (k : Core) : (s.setCore c k).tenants = s.tenants := rfl
@[simp] theorem State.setCore_disp (s : State) (c : CoreId) (k : Core) : (s.setCore c k).disp = s.disp := rfl
@[simp] theorem State.setCore_gov (s : State) (c : CoreId) (k : Core) : (s.setCore c k).gov = s.gov := rfl
@[simp] theorem State.setCore_host (s : State) (c : CoreId) (k : Core) : (s.setCore c k).host = s.host := rfl
@[simp] theorem State.setCore_mgmt (s : State) (c : CoreId) (k : Core) : (s.setCore c k).mgmt = s.mgmt := rfl

/-! ### modCore -/

@[simp] theorem State.modCore_agenda (s : State) (c : CoreId) (f : Core → Core) : (s.modCore c f).agenda = s.agenda := rfl
@[simp] theorem State.modCore_draws (s : State) (c : CoreId) (f : Core → Core) : (s.modCore c f).draws = s.draws := rfl
@[simp] theorem State.modCore_upset (s : State) (c : CoreId) (f : Core → Core) : (s.modCore c f).upset = s.upset := rfl
@[simp] theorem State.modCore_focus (s : State) (c : CoreId) (f : Core → Core) : (s.modCore c f).focus = s.focus := rfl
@[simp] theorem State.modCore_time (s : State) (c : CoreId) (f : Core → Core) : (s.modCore c f).time = s.time := rfl
@[simp] theorem State.modCore_mem (s : State) (c : CoreId) (f : Core → Core) : (s.modCore c f).mem = s.mem := rfl
@[simp] theorem State.modCore_slices (s : State) (c : CoreId) (f : Core → Core) : (s.modCore c f).slices = s.slices := rfl
@[simp] theorem State.modCore_walkPtrs (s : State) (c : CoreId) (f : Core → Core) : (s.modCore c f).walkPtrs = s.walkPtrs := rfl
@[simp] theorem State.modCore_fabric (s : State) (c : CoreId) (f : Core → Core) : (s.modCore c f).fabric = s.fabric := rfl
@[simp] theorem State.modCore_islands (s : State) (c : CoreId) (f : Core → Core) : (s.modCore c f).islands = s.islands := rfl
@[simp] theorem State.modCore_tenants (s : State) (c : CoreId) (f : Core → Core) : (s.modCore c f).tenants = s.tenants := rfl
@[simp] theorem State.modCore_disp (s : State) (c : CoreId) (f : Core → Core) : (s.modCore c f).disp = s.disp := rfl
@[simp] theorem State.modCore_gov (s : State) (c : CoreId) (f : Core → Core) : (s.modCore c f).gov = s.gov := rfl
@[simp] theorem State.modCore_host (s : State) (c : CoreId) (f : Core → Core) : (s.modCore c f).host = s.host := rfl
@[simp] theorem State.modCore_mgmt (s : State) (c : CoreId) (f : Core → Core) : (s.modCore c f).mgmt = s.mgmt := rfl

/-! ### modIsland -/

@[simp] theorem State.modIsland_agenda (s : State) (i : IslandId) (f : Island → Island) : (s.modIsland i f).agenda = s.agenda := rfl
@[simp] theorem State.modIsland_draws (s : State) (i : IslandId) (f : Island → Island) : (s.modIsland i f).draws = s.draws := rfl
@[simp] theorem State.modIsland_upset (s : State) (i : IslandId) (f : Island → Island) : (s.modIsland i f).upset = s.upset := rfl
@[simp] theorem State.modIsland_focus (s : State) (i : IslandId) (f : Island → Island) : (s.modIsland i f).focus = s.focus := rfl
@[simp] theorem State.modIsland_time (s : State) (i : IslandId) (f : Island → Island) : (s.modIsland i f).time = s.time := rfl
@[simp] theorem State.modIsland_mem (s : State) (i : IslandId) (f : Island → Island) : (s.modIsland i f).mem = s.mem := rfl
@[simp] theorem State.modIsland_cores (s : State) (i : IslandId) (f : Island → Island) : (s.modIsland i f).cores = s.cores := rfl
@[simp] theorem State.modIsland_slices (s : State) (i : IslandId) (f : Island → Island) : (s.modIsland i f).slices = s.slices := rfl
@[simp] theorem State.modIsland_walkPtrs (s : State) (i : IslandId) (f : Island → Island) : (s.modIsland i f).walkPtrs = s.walkPtrs := rfl
@[simp] theorem State.modIsland_fabric (s : State) (i : IslandId) (f : Island → Island) : (s.modIsland i f).fabric = s.fabric := rfl
@[simp] theorem State.modIsland_tenants (s : State) (i : IslandId) (f : Island → Island) : (s.modIsland i f).tenants = s.tenants := rfl
@[simp] theorem State.modIsland_disp (s : State) (i : IslandId) (f : Island → Island) : (s.modIsland i f).disp = s.disp := rfl
@[simp] theorem State.modIsland_gov (s : State) (i : IslandId) (f : Island → Island) : (s.modIsland i f).gov = s.gov := rfl
@[simp] theorem State.modIsland_host (s : State) (i : IslandId) (f : Island → Island) : (s.modIsland i f).host = s.host := rfl
@[simp] theorem State.modIsland_mgmt (s : State) (i : IslandId) (f : Island → Island) : (s.modIsland i f).mgmt = s.mgmt := rfl

/-! ### modSlice -/

@[simp] theorem State.modSlice_agenda (s : State) (i : SliceId) (f : Slice → Slice) : (s.modSlice i f).agenda = s.agenda := rfl
@[simp] theorem State.modSlice_draws (s : State) (i : SliceId) (f : Slice → Slice) : (s.modSlice i f).draws = s.draws := rfl
@[simp] theorem State.modSlice_upset (s : State) (i : SliceId) (f : Slice → Slice) : (s.modSlice i f).upset = s.upset := rfl
@[simp] theorem State.modSlice_focus (s : State) (i : SliceId) (f : Slice → Slice) : (s.modSlice i f).focus = s.focus := rfl
@[simp] theorem State.modSlice_time (s : State) (i : SliceId) (f : Slice → Slice) : (s.modSlice i f).time = s.time := rfl
@[simp] theorem State.modSlice_mem (s : State) (i : SliceId) (f : Slice → Slice) : (s.modSlice i f).mem = s.mem := rfl
@[simp] theorem State.modSlice_cores (s : State) (i : SliceId) (f : Slice → Slice) : (s.modSlice i f).cores = s.cores := rfl
@[simp] theorem State.modSlice_walkPtrs (s : State) (i : SliceId) (f : Slice → Slice) : (s.modSlice i f).walkPtrs = s.walkPtrs := rfl
@[simp] theorem State.modSlice_fabric (s : State) (i : SliceId) (f : Slice → Slice) : (s.modSlice i f).fabric = s.fabric := rfl
@[simp] theorem State.modSlice_islands (s : State) (i : SliceId) (f : Slice → Slice) : (s.modSlice i f).islands = s.islands := rfl
@[simp] theorem State.modSlice_tenants (s : State) (i : SliceId) (f : Slice → Slice) : (s.modSlice i f).tenants = s.tenants := rfl
@[simp] theorem State.modSlice_disp (s : State) (i : SliceId) (f : Slice → Slice) : (s.modSlice i f).disp = s.disp := rfl
@[simp] theorem State.modSlice_gov (s : State) (i : SliceId) (f : Slice → Slice) : (s.modSlice i f).gov = s.gov := rfl
@[simp] theorem State.modSlice_host (s : State) (i : SliceId) (f : Slice → Slice) : (s.modSlice i f).host = s.host := rfl
@[simp] theorem State.modSlice_mgmt (s : State) (i : SliceId) (f : Slice → Slice) : (s.modSlice i f).mgmt = s.mgmt := rfl

/-! ### modRouter -/

@[simp] theorem State.modRouter_agenda (s : State) (r : RouterId) (f : Router → Router) : (s.modRouter r f).agenda = s.agenda := rfl
@[simp] theorem State.modRouter_draws (s : State) (r : RouterId) (f : Router → Router) : (s.modRouter r f).draws = s.draws := rfl
@[simp] theorem State.modRouter_upset (s : State) (r : RouterId) (f : Router → Router) : (s.modRouter r f).upset = s.upset := rfl
@[simp] theorem State.modRouter_focus (s : State) (r : RouterId) (f : Router → Router) : (s.modRouter r f).focus = s.focus := rfl
@[simp] theorem State.modRouter_time (s : State) (r : RouterId) (f : Router → Router) : (s.modRouter r f).time = s.time := rfl
@[simp] theorem State.modRouter_mem (s : State) (r : RouterId) (f : Router → Router) : (s.modRouter r f).mem = s.mem := rfl
@[simp] theorem State.modRouter_cores (s : State) (r : RouterId) (f : Router → Router) : (s.modRouter r f).cores = s.cores := rfl
@[simp] theorem State.modRouter_slices (s : State) (r : RouterId) (f : Router → Router) : (s.modRouter r f).slices = s.slices := rfl
@[simp] theorem State.modRouter_walkPtrs (s : State) (r : RouterId) (f : Router → Router) : (s.modRouter r f).walkPtrs = s.walkPtrs := rfl
@[simp] theorem State.modRouter_islands (s : State) (r : RouterId) (f : Router → Router) : (s.modRouter r f).islands = s.islands := rfl
@[simp] theorem State.modRouter_tenants (s : State) (r : RouterId) (f : Router → Router) : (s.modRouter r f).tenants = s.tenants := rfl
@[simp] theorem State.modRouter_disp (s : State) (r : RouterId) (f : Router → Router) : (s.modRouter r f).disp = s.disp := rfl
@[simp] theorem State.modRouter_gov (s : State) (r : RouterId) (f : Router → Router) : (s.modRouter r f).gov = s.gov := rfl
@[simp] theorem State.modRouter_host (s : State) (r : RouterId) (f : Router → Router) : (s.modRouter r f).host = s.host := rfl
@[simp] theorem State.modRouter_mgmt (s : State) (r : RouterId) (f : Router → Router) : (s.modRouter r f).mgmt = s.mgmt := rfl

/-! ### modTenant -/

@[simp] theorem State.modTenant_agenda (s : State) (t : Tenant) (f : TenantSt → TenantSt) : (s.modTenant t f).agenda = s.agenda := rfl
@[simp] theorem State.modTenant_draws (s : State) (t : Tenant) (f : TenantSt → TenantSt) : (s.modTenant t f).draws = s.draws := rfl
@[simp] theorem State.modTenant_upset (s : State) (t : Tenant) (f : TenantSt → TenantSt) : (s.modTenant t f).upset = s.upset := rfl
@[simp] theorem State.modTenant_focus (s : State) (t : Tenant) (f : TenantSt → TenantSt) : (s.modTenant t f).focus = s.focus := rfl
@[simp] theorem State.modTenant_time (s : State) (t : Tenant) (f : TenantSt → TenantSt) : (s.modTenant t f).time = s.time := rfl
@[simp] theorem State.modTenant_mem (s : State) (t : Tenant) (f : TenantSt → TenantSt) : (s.modTenant t f).mem = s.mem := rfl
@[simp] theorem State.modTenant_cores (s : State) (t : Tenant) (f : TenantSt → TenantSt) : (s.modTenant t f).cores = s.cores := rfl
@[simp] theorem State.modTenant_slices (s : State) (t : Tenant) (f : TenantSt → TenantSt) : (s.modTenant t f).slices = s.slices := rfl
@[simp] theorem State.modTenant_walkPtrs (s : State) (t : Tenant) (f : TenantSt → TenantSt) : (s.modTenant t f).walkPtrs = s.walkPtrs := rfl
@[simp] theorem State.modTenant_fabric (s : State) (t : Tenant) (f : TenantSt → TenantSt) : (s.modTenant t f).fabric = s.fabric := rfl
@[simp] theorem State.modTenant_islands (s : State) (t : Tenant) (f : TenantSt → TenantSt) : (s.modTenant t f).islands = s.islands := rfl
@[simp] theorem State.modTenant_disp (s : State) (t : Tenant) (f : TenantSt → TenantSt) : (s.modTenant t f).disp = s.disp := rfl
@[simp] theorem State.modTenant_gov (s : State) (t : Tenant) (f : TenantSt → TenantSt) : (s.modTenant t f).gov = s.gov := rfl
@[simp] theorem State.modTenant_host (s : State) (t : Tenant) (f : TenantSt → TenantSt) : (s.modTenant t f).host = s.host := rfl
@[simp] theorem State.modTenant_mgmt (s : State) (t : Tenant) (f : TenantSt → TenantSt) : (s.modTenant t f).mgmt = s.mgmt := rfl

/-! ### setCtx -/

@[simp] theorem Core.setCtx_task (k : Core) (x : CtxId) (v : XCtx) : (k.setCtx x v).task = k.task := rfl
@[simp] theorem Core.setCtx_queues (k : Core) (x : CtxId) (v : XCtx) : (k.setCtx x v).queues = k.queues := rfl
@[simp] theorem Core.setCtx_sync (k : Core) (x : CtxId) (v : XCtx) : (k.setCtx x v).sync = k.sync := rfl
@[simp] theorem Core.setCtx_regs (k : Core) (x : CtxId) (v : XCtx) : (k.setCtx x v).regs = k.regs := rfl
@[simp] theorem Core.setCtx_matrix (k : Core) (x : CtxId) (v : XCtx) : (k.setCtx x v).matrix = k.matrix := rfl
@[simp] theorem Core.setCtx_tables (k : Core) (x : CtxId) (v : XCtx) : (k.setCtx x v).tables = k.tables := rfl
@[simp] theorem Core.setCtx_land (k : Core) (x : CtxId) (v : XCtx) : (k.setCtx x v).land = k.land := rfl
@[simp] theorem Core.setCtx_atoms (k : Core) (x : CtxId) (v : XCtx) : (k.setCtx x v).atoms = k.atoms := rfl
@[simp] theorem Core.setCtx_nextAtom (k : Core) (x : CtxId) (v : XCtx) : (k.setCtx x v).nextAtom = k.nextAtom := rfl
@[simp] theorem Core.setCtx_pool (k : Core) (x : CtxId) (v : XCtx) : (k.setCtx x v).pool = k.pool := rfl
@[simp] theorem Core.setCtx_l1 (k : Core) (x : CtxId) (v : XCtx) : (k.setCtx x v).l1 = k.l1 := rfl
@[simp] theorem Core.setCtx_l1fills (k : Core) (x : CtxId) (v : XCtx) : (k.setCtx x v).l1fills = k.l1fills := rfl
@[simp] theorem Core.setCtx_nextFill (k : Core) (x : CtxId) (v : XCtx) : (k.setCtx x v).nextFill = k.nextFill := rfl
@[simp] theorem Core.setCtx_tlbs (k : Core) (x : CtxId) (v : XCtx) : (k.setCtx x v).tlbs = k.tlbs := rfl
@[simp] theorem Core.setCtx_sys (k : Core) (x : CtxId) (v : XCtx) : (k.setCtx x v).sys = k.sys := rfl
@[simp] theorem Core.setCtx_trap (k : Core) (x : CtxId) (v : XCtx) : (k.setCtx x v).trap = k.trap := rfl
@[simp] theorem Core.setCtx_fetched (k : Core) (x : CtxId) (v : XCtx) : (k.setCtx x v).fetched = k.fetched := rfl
@[simp] theorem Core.setCtx_activity (k : Core) (x : CtxId) (v : XCtx) : (k.setCtx x v).activity = k.activity := rfl
@[simp] theorem Core.setCtx_fill (k : Core) (x : CtxId) (v : XCtx) : (k.setCtx x v).fill = k.fill := rfl

/-! ### setC -/

@[simp] theorem Core.setC_task (k : Core) (v : CSeq) : (k.setC v).task = k.task := rfl
@[simp] theorem Core.setC_queues (k : Core) (v : CSeq) : (k.setC v).queues = k.queues := rfl
@[simp] theorem Core.setC_sync (k : Core) (v : CSeq) : (k.setC v).sync = k.sync := rfl
@[simp] theorem Core.setC_regs (k : Core) (v : CSeq) : (k.setC v).regs = k.regs := rfl
@[simp] theorem Core.setC_matrix (k : Core) (v : CSeq) : (k.setC v).matrix = k.matrix := rfl
@[simp] theorem Core.setC_tables (k : Core) (v : CSeq) : (k.setC v).tables = k.tables := rfl
@[simp] theorem Core.setC_land (k : Core) (v : CSeq) : (k.setC v).land = k.land := rfl
@[simp] theorem Core.setC_atoms (k : Core) (v : CSeq) : (k.setC v).atoms = k.atoms := rfl
@[simp] theorem Core.setC_nextAtom (k : Core) (v : CSeq) : (k.setC v).nextAtom = k.nextAtom := rfl
@[simp] theorem Core.setC_pool (k : Core) (v : CSeq) : (k.setC v).pool = k.pool := rfl
@[simp] theorem Core.setC_l1 (k : Core) (v : CSeq) : (k.setC v).l1 = k.l1 := rfl
@[simp] theorem Core.setC_l1fills (k : Core) (v : CSeq) : (k.setC v).l1fills = k.l1fills := rfl
@[simp] theorem Core.setC_nextFill (k : Core) (v : CSeq) : (k.setC v).nextFill = k.nextFill := rfl
@[simp] theorem Core.setC_tlbs (k : Core) (v : CSeq) : (k.setC v).tlbs = k.tlbs := rfl
@[simp] theorem Core.setC_sys (k : Core) (v : CSeq) : (k.setC v).sys = k.sys := rfl
@[simp] theorem Core.setC_trap (k : Core) (v : CSeq) : (k.setC v).trap = k.trap := rfl
@[simp] theorem Core.setC_fetched (k : Core) (v : CSeq) : (k.setC v).fetched = k.fetched := rfl
@[simp] theorem Core.setC_activity (k : Core) (v : CSeq) : (k.setC v).activity = k.activity := rfl
@[simp] theorem Core.setC_fill (k : Core) (v : CSeq) : (k.setC v).fill = k.fill := rfl

/-! ### setQueue -/

@[simp] theorem Core.setQueue_task (k : Core) (q : QName) (v : List (Option W32)) : (k.setQueue q v).task = k.task := rfl
@[simp] theorem Core.setQueue_seqs (k : Core) (q : QName) (v : List (Option W32)) : (k.setQueue q v).seqs = k.seqs := rfl
@[simp] theorem Core.setQueue_sync (k : Core) (q : QName) (v : List (Option W32)) : (k.setQueue q v).sync = k.sync := rfl
@[simp] theorem Core.setQueue_regs (k : Core) (q : QName) (v : List (Option W32)) : (k.setQueue q v).regs = k.regs := rfl
@[simp] theorem Core.setQueue_matrix (k : Core) (q : QName) (v : List (Option W32)) : (k.setQueue q v).matrix = k.matrix := rfl
@[simp] theorem Core.setQueue_tables (k : Core) (q : QName) (v : List (Option W32)) : (k.setQueue q v).tables = k.tables := rfl
@[simp] theorem Core.setQueue_land (k : Core) (q : QName) (v : List (Option W32)) : (k.setQueue q v).land = k.land := rfl
@[simp] theorem Core.setQueue_atoms (k : Core) (q : QName) (v : List (Option W32)) : (k.setQueue q v).atoms = k.atoms := rfl
@[simp] theorem Core.setQueue_nextAtom (k : Core) (q : QName) (v : List (Option W32)) : (k.setQueue q v).nextAtom = k.nextAtom := rfl
@[simp] theorem Core.setQueue_pool (k : Core) (q : QName) (v : List (Option W32)) : (k.setQueue q v).pool = k.pool := rfl
@[simp] theorem Core.setQueue_l1 (k : Core) (q : QName) (v : List (Option W32)) : (k.setQueue q v).l1 = k.l1 := rfl
@[simp] theorem Core.setQueue_l1fills (k : Core) (q : QName) (v : List (Option W32)) : (k.setQueue q v).l1fills = k.l1fills := rfl
@[simp] theorem Core.setQueue_nextFill (k : Core) (q : QName) (v : List (Option W32)) : (k.setQueue q v).nextFill = k.nextFill := rfl
@[simp] theorem Core.setQueue_tlbs (k : Core) (q : QName) (v : List (Option W32)) : (k.setQueue q v).tlbs = k.tlbs := rfl
@[simp] theorem Core.setQueue_sys (k : Core) (q : QName) (v : List (Option W32)) : (k.setQueue q v).sys = k.sys := rfl
@[simp] theorem Core.setQueue_trap (k : Core) (q : QName) (v : List (Option W32)) : (k.setQueue q v).trap = k.trap := rfl
@[simp] theorem Core.setQueue_fetched (k : Core) (q : QName) (v : List (Option W32)) : (k.setQueue q v).fetched = k.fetched := rfl
@[simp] theorem Core.setQueue_activity (k : Core) (q : QName) (v : List (Option W32)) : (k.setQueue q v).activity = k.activity := rfl
@[simp] theorem Core.setQueue_fill (k : Core) (q : QName) (v : List (Option W32)) : (k.setQueue q v).fill = k.fill := rfl

/-! ### pushQueue -/

@[simp] theorem Core.pushQueue_task (k : Core) (q : QName) (v : Option W32) : (k.pushQueue q v).task = k.task := rfl
@[simp] theorem Core.pushQueue_seqs (k : Core) (q : QName) (v : Option W32) : (k.pushQueue q v).seqs = k.seqs := rfl
@[simp] theorem Core.pushQueue_sync (k : Core) (q : QName) (v : Option W32) : (k.pushQueue q v).sync = k.sync := rfl
@[simp] theorem Core.pushQueue_regs (k : Core) (q : QName) (v : Option W32) : (k.pushQueue q v).regs = k.regs := rfl
@[simp] theorem Core.pushQueue_matrix (k : Core) (q : QName) (v : Option W32) : (k.pushQueue q v).matrix = k.matrix := rfl
@[simp] theorem Core.pushQueue_tables (k : Core) (q : QName) (v : Option W32) : (k.pushQueue q v).tables = k.tables := rfl
@[simp] theorem Core.pushQueue_land (k : Core) (q : QName) (v : Option W32) : (k.pushQueue q v).land = k.land := rfl
@[simp] theorem Core.pushQueue_atoms (k : Core) (q : QName) (v : Option W32) : (k.pushQueue q v).atoms = k.atoms := rfl
@[simp] theorem Core.pushQueue_nextAtom (k : Core) (q : QName) (v : Option W32) : (k.pushQueue q v).nextAtom = k.nextAtom := rfl
@[simp] theorem Core.pushQueue_pool (k : Core) (q : QName) (v : Option W32) : (k.pushQueue q v).pool = k.pool := rfl
@[simp] theorem Core.pushQueue_l1 (k : Core) (q : QName) (v : Option W32) : (k.pushQueue q v).l1 = k.l1 := rfl
@[simp] theorem Core.pushQueue_l1fills (k : Core) (q : QName) (v : Option W32) : (k.pushQueue q v).l1fills = k.l1fills := rfl
@[simp] theorem Core.pushQueue_nextFill (k : Core) (q : QName) (v : Option W32) : (k.pushQueue q v).nextFill = k.nextFill := rfl
@[simp] theorem Core.pushQueue_tlbs (k : Core) (q : QName) (v : Option W32) : (k.pushQueue q v).tlbs = k.tlbs := rfl
@[simp] theorem Core.pushQueue_sys (k : Core) (q : QName) (v : Option W32) : (k.pushQueue q v).sys = k.sys := rfl
@[simp] theorem Core.pushQueue_trap (k : Core) (q : QName) (v : Option W32) : (k.pushQueue q v).trap = k.trap := rfl
@[simp] theorem Core.pushQueue_fetched (k : Core) (q : QName) (v : Option W32) : (k.pushQueue q v).fetched = k.fetched := rfl
@[simp] theorem Core.pushQueue_activity (k : Core) (q : QName) (v : Option W32) : (k.pushQueue q v).activity = k.activity := rfl
@[simp] theorem Core.pushQueue_fill (k : Core) (q : QName) (v : Option W32) : (k.pushQueue q v).fill = k.fill := rfl

/-! ### popQueue -/

@[simp] theorem Core.popQueue_task (k : Core) (q : QName) : (k.popQueue q).task = k.task := rfl
@[simp] theorem Core.popQueue_seqs (k : Core) (q : QName) : (k.popQueue q).seqs = k.seqs := rfl
@[simp] theorem Core.popQueue_sync (k : Core) (q : QName) : (k.popQueue q).sync = k.sync := rfl
@[simp] theorem Core.popQueue_regs (k : Core) (q : QName) : (k.popQueue q).regs = k.regs := rfl
@[simp] theorem Core.popQueue_matrix (k : Core) (q : QName) : (k.popQueue q).matrix = k.matrix := rfl
@[simp] theorem Core.popQueue_tables (k : Core) (q : QName) : (k.popQueue q).tables = k.tables := rfl
@[simp] theorem Core.popQueue_land (k : Core) (q : QName) : (k.popQueue q).land = k.land := rfl
@[simp] theorem Core.popQueue_atoms (k : Core) (q : QName) : (k.popQueue q).atoms = k.atoms := rfl
@[simp] theorem Core.popQueue_nextAtom (k : Core) (q : QName) : (k.popQueue q).nextAtom = k.nextAtom := rfl
@[simp] theorem Core.popQueue_pool (k : Core) (q : QName) : (k.popQueue q).pool = k.pool := rfl
@[simp] theorem Core.popQueue_l1 (k : Core) (q : QName) : (k.popQueue q).l1 = k.l1 := rfl
@[simp] theorem Core.popQueue_l1fills (k : Core) (q : QName) : (k.popQueue q).l1fills = k.l1fills := rfl
@[simp] theorem Core.popQueue_nextFill (k : Core) (q : QName) : (k.popQueue q).nextFill = k.nextFill := rfl
@[simp] theorem Core.popQueue_tlbs (k : Core) (q : QName) : (k.popQueue q).tlbs = k.tlbs := rfl
@[simp] theorem Core.popQueue_sys (k : Core) (q : QName) : (k.popQueue q).sys = k.sys := rfl
@[simp] theorem Core.popQueue_trap (k : Core) (q : QName) : (k.popQueue q).trap = k.trap := rfl
@[simp] theorem Core.popQueue_fetched (k : Core) (q : QName) : (k.popQueue q).fetched = k.fetched := rfl
@[simp] theorem Core.popQueue_activity (k : Core) (q : QName) : (k.popQueue q).activity = k.activity := rfl
@[simp] theorem Core.popQueue_fill (k : Core) (q : QName) : (k.popQueue q).fill = k.fill := rfl

/-! ### setSem -/

@[simp] theorem Core.setSem_task (k : Core) (i : BitVec 6) (v : W16) : (k.setSem i v).task = k.task := rfl
@[simp] theorem Core.setSem_seqs (k : Core) (i : BitVec 6) (v : W16) : (k.setSem i v).seqs = k.seqs := rfl
@[simp] theorem Core.setSem_queues (k : Core) (i : BitVec 6) (v : W16) : (k.setSem i v).queues = k.queues := rfl
@[simp] theorem Core.setSem_regs (k : Core) (i : BitVec 6) (v : W16) : (k.setSem i v).regs = k.regs := rfl
@[simp] theorem Core.setSem_matrix (k : Core) (i : BitVec 6) (v : W16) : (k.setSem i v).matrix = k.matrix := rfl
@[simp] theorem Core.setSem_tables (k : Core) (i : BitVec 6) (v : W16) : (k.setSem i v).tables = k.tables := rfl
@[simp] theorem Core.setSem_land (k : Core) (i : BitVec 6) (v : W16) : (k.setSem i v).land = k.land := rfl
@[simp] theorem Core.setSem_atoms (k : Core) (i : BitVec 6) (v : W16) : (k.setSem i v).atoms = k.atoms := rfl
@[simp] theorem Core.setSem_nextAtom (k : Core) (i : BitVec 6) (v : W16) : (k.setSem i v).nextAtom = k.nextAtom := rfl
@[simp] theorem Core.setSem_pool (k : Core) (i : BitVec 6) (v : W16) : (k.setSem i v).pool = k.pool := rfl
@[simp] theorem Core.setSem_l1 (k : Core) (i : BitVec 6) (v : W16) : (k.setSem i v).l1 = k.l1 := rfl
@[simp] theorem Core.setSem_l1fills (k : Core) (i : BitVec 6) (v : W16) : (k.setSem i v).l1fills = k.l1fills := rfl
@[simp] theorem Core.setSem_nextFill (k : Core) (i : BitVec 6) (v : W16) : (k.setSem i v).nextFill = k.nextFill := rfl
@[simp] theorem Core.setSem_tlbs (k : Core) (i : BitVec 6) (v : W16) : (k.setSem i v).tlbs = k.tlbs := rfl
@[simp] theorem Core.setSem_sys (k : Core) (i : BitVec 6) (v : W16) : (k.setSem i v).sys = k.sys := rfl
@[simp] theorem Core.setSem_trap (k : Core) (i : BitVec 6) (v : W16) : (k.setSem i v).trap = k.trap := rfl
@[simp] theorem Core.setSem_fetched (k : Core) (i : BitVec 6) (v : W16) : (k.setSem i v).fetched = k.fetched := rfl
@[simp] theorem Core.setSem_activity (k : Core) (i : BitVec 6) (v : W16) : (k.setSem i v).activity = k.activity := rfl
@[simp] theorem Core.setSem_fill (k : Core) (i : BitVec 6) (v : W16) : (k.setSem i v).fill = k.fill := rfl

/-! ### leaveWait -/

@[simp] theorem Core.leaveWait_task (k : Core) (a : Agent) : (k.leaveWait a).task = k.task := rfl
@[simp] theorem Core.leaveWait_seqs (k : Core) (a : Agent) : (k.leaveWait a).seqs = k.seqs := rfl
@[simp] theorem Core.leaveWait_queues (k : Core) (a : Agent) : (k.leaveWait a).queues = k.queues := rfl
@[simp] theorem Core.leaveWait_regs (k : Core) (a : Agent) : (k.leaveWait a).regs = k.regs := rfl
@[simp] theorem Core.leaveWait_matrix (k : Core) (a : Agent) : (k.leaveWait a).matrix = k.matrix := rfl
@[simp] theorem Core.leaveWait_tables (k : Core) (a : Agent) : (k.leaveWait a).tables = k.tables := rfl
@[simp] theorem Core.leaveWait_land (k : Core) (a : Agent) : (k.leaveWait a).land = k.land := rfl
@[simp] theorem Core.leaveWait_atoms (k : Core) (a : Agent) : (k.leaveWait a).atoms = k.atoms := rfl
@[simp] theorem Core.leaveWait_nextAtom (k : Core) (a : Agent) : (k.leaveWait a).nextAtom = k.nextAtom := rfl
@[simp] theorem Core.leaveWait_pool (k : Core) (a : Agent) : (k.leaveWait a).pool = k.pool := rfl
@[simp] theorem Core.leaveWait_l1 (k : Core) (a : Agent) : (k.leaveWait a).l1 = k.l1 := rfl
@[simp] theorem Core.leaveWait_l1fills (k : Core) (a : Agent) : (k.leaveWait a).l1fills = k.l1fills := rfl
@[simp] theorem Core.leaveWait_nextFill (k : Core) (a : Agent) : (k.leaveWait a).nextFill = k.nextFill := rfl
@[simp] theorem Core.leaveWait_tlbs (k : Core) (a : Agent) : (k.leaveWait a).tlbs = k.tlbs := rfl
@[simp] theorem Core.leaveWait_sys (k : Core) (a : Agent) : (k.leaveWait a).sys = k.sys := rfl
@[simp] theorem Core.leaveWait_trap (k : Core) (a : Agent) : (k.leaveWait a).trap = k.trap := rfl
@[simp] theorem Core.leaveWait_fetched (k : Core) (a : Agent) : (k.leaveWait a).fetched = k.fetched := rfl
@[simp] theorem Core.leaveWait_activity (k : Core) (a : Agent) : (k.leaveWait a).activity = k.activity := rfl
@[simp] theorem Core.leaveWait_fill (k : Core) (a : Agent) : (k.leaveWait a).fill = k.fill := rfl

/-! ### modWm -/

@[simp] theorem Core.modWm_task (k : Core) (w : BitVec 4) (f : Wmark → Wmark) : (k.modWm w f).task = k.task := rfl
@[simp] theorem Core.modWm_seqs (k : Core) (w : BitVec 4) (f : Wmark → Wmark) : (k.modWm w f).seqs = k.seqs := rfl
@[simp] theorem Core.modWm_queues (k : Core) (w : BitVec 4) (f : Wmark → Wmark) : (k.modWm w f).queues = k.queues := rfl
@[simp] theorem Core.modWm_sync (k : Core) (w : BitVec 4) (f : Wmark → Wmark) : (k.modWm w f).sync = k.sync := rfl
@[simp] theorem Core.modWm_regs (k : Core) (w : BitVec 4) (f : Wmark → Wmark) : (k.modWm w f).regs = k.regs := rfl
@[simp] theorem Core.modWm_matrix (k : Core) (w : BitVec 4) (f : Wmark → Wmark) : (k.modWm w f).matrix = k.matrix := rfl
@[simp] theorem Core.modWm_tables (k : Core) (w : BitVec 4) (f : Wmark → Wmark) : (k.modWm w f).tables = k.tables := rfl
@[simp] theorem Core.modWm_atoms (k : Core) (w : BitVec 4) (f : Wmark → Wmark) : (k.modWm w f).atoms = k.atoms := rfl
@[simp] theorem Core.modWm_nextAtom (k : Core) (w : BitVec 4) (f : Wmark → Wmark) : (k.modWm w f).nextAtom = k.nextAtom := rfl
@[simp] theorem Core.modWm_pool (k : Core) (w : BitVec 4) (f : Wmark → Wmark) : (k.modWm w f).pool = k.pool := rfl
@[simp] theorem Core.modWm_l1 (k : Core) (w : BitVec 4) (f : Wmark → Wmark) : (k.modWm w f).l1 = k.l1 := rfl
@[simp] theorem Core.modWm_l1fills (k : Core) (w : BitVec 4) (f : Wmark → Wmark) : (k.modWm w f).l1fills = k.l1fills := rfl
@[simp] theorem Core.modWm_nextFill (k : Core) (w : BitVec 4) (f : Wmark → Wmark) : (k.modWm w f).nextFill = k.nextFill := rfl
@[simp] theorem Core.modWm_tlbs (k : Core) (w : BitVec 4) (f : Wmark → Wmark) : (k.modWm w f).tlbs = k.tlbs := rfl
@[simp] theorem Core.modWm_sys (k : Core) (w : BitVec 4) (f : Wmark → Wmark) : (k.modWm w f).sys = k.sys := rfl
@[simp] theorem Core.modWm_trap (k : Core) (w : BitVec 4) (f : Wmark → Wmark) : (k.modWm w f).trap = k.trap := rfl
@[simp] theorem Core.modWm_fetched (k : Core) (w : BitVec 4) (f : Wmark → Wmark) : (k.modWm w f).fetched = k.fetched := rfl
@[simp] theorem Core.modWm_activity (k : Core) (w : BitVec 4) (f : Wmark → Wmark) : (k.modWm w f).activity = k.activity := rfl
@[simp] theorem Core.modWm_fill (k : Core) (w : BitVec 4) (f : Wmark → Wmark) : (k.modWm w f).fill = k.fill := rfl

/-! ### modRing -/

@[simp] theorem Core.modRing_task (k : Core) (r : BitVec 3) (f : Ring → Ring) : (k.modRing r f).task = k.task := rfl
@[simp] theorem Core.modRing_seqs (k : Core) (r : BitVec 3) (f : Ring → Ring) : (k.modRing r f).seqs = k.seqs := rfl
@[simp] theorem Core.modRing_queues (k : Core) (r : BitVec 3) (f : Ring → Ring) : (k.modRing r f).queues = k.queues := rfl
@[simp] theorem Core.modRing_sync (k : Core) (r : BitVec 3) (f : Ring → Ring) : (k.modRing r f).sync = k.sync := rfl
@[simp] theorem Core.modRing_regs (k : Core) (r : BitVec 3) (f : Ring → Ring) : (k.modRing r f).regs = k.regs := rfl
@[simp] theorem Core.modRing_matrix (k : Core) (r : BitVec 3) (f : Ring → Ring) : (k.modRing r f).matrix = k.matrix := rfl
@[simp] theorem Core.modRing_land (k : Core) (r : BitVec 3) (f : Ring → Ring) : (k.modRing r f).land = k.land := rfl
@[simp] theorem Core.modRing_atoms (k : Core) (r : BitVec 3) (f : Ring → Ring) : (k.modRing r f).atoms = k.atoms := rfl
@[simp] theorem Core.modRing_nextAtom (k : Core) (r : BitVec 3) (f : Ring → Ring) : (k.modRing r f).nextAtom = k.nextAtom := rfl
@[simp] theorem Core.modRing_pool (k : Core) (r : BitVec 3) (f : Ring → Ring) : (k.modRing r f).pool = k.pool := rfl
@[simp] theorem Core.modRing_l1 (k : Core) (r : BitVec 3) (f : Ring → Ring) : (k.modRing r f).l1 = k.l1 := rfl
@[simp] theorem Core.modRing_l1fills (k : Core) (r : BitVec 3) (f : Ring → Ring) : (k.modRing r f).l1fills = k.l1fills := rfl
@[simp] theorem Core.modRing_nextFill (k : Core) (r : BitVec 3) (f : Ring → Ring) : (k.modRing r f).nextFill = k.nextFill := rfl
@[simp] theorem Core.modRing_tlbs (k : Core) (r : BitVec 3) (f : Ring → Ring) : (k.modRing r f).tlbs = k.tlbs := rfl
@[simp] theorem Core.modRing_sys (k : Core) (r : BitVec 3) (f : Ring → Ring) : (k.modRing r f).sys = k.sys := rfl
@[simp] theorem Core.modRing_trap (k : Core) (r : BitVec 3) (f : Ring → Ring) : (k.modRing r f).trap = k.trap := rfl
@[simp] theorem Core.modRing_fetched (k : Core) (r : BitVec 3) (f : Ring → Ring) : (k.modRing r f).fetched = k.fetched := rfl
@[simp] theorem Core.modRing_activity (k : Core) (r : BitVec 3) (f : Ring → Ring) : (k.modRing r f).activity = k.activity := rfl
@[simp] theorem Core.modRing_fill (k : Core) (r : BitVec 3) (f : Ring → Ring) : (k.modRing r f).fill = k.fill := rfl

/-! ### modPort -/

@[simp] theorem Core.modPort_task (k : Core) (p : BitVec 2) (f : Port → Port) : (k.modPort p f).task = k.task := rfl
@[simp] theorem Core.modPort_seqs (k : Core) (p : BitVec 2) (f : Port → Port) : (k.modPort p f).seqs = k.seqs := rfl
@[simp] theorem Core.modPort_queues (k : Core) (p : BitVec 2) (f : Port → Port) : (k.modPort p f).queues = k.queues := rfl
@[simp] theorem Core.modPort_sync (k : Core) (p : BitVec 2) (f : Port → Port) : (k.modPort p f).sync = k.sync := rfl
@[simp] theorem Core.modPort_regs (k : Core) (p : BitVec 2) (f : Port → Port) : (k.modPort p f).regs = k.regs := rfl
@[simp] theorem Core.modPort_matrix (k : Core) (p : BitVec 2) (f : Port → Port) : (k.modPort p f).matrix = k.matrix := rfl
@[simp] theorem Core.modPort_land (k : Core) (p : BitVec 2) (f : Port → Port) : (k.modPort p f).land = k.land := rfl
@[simp] theorem Core.modPort_atoms (k : Core) (p : BitVec 2) (f : Port → Port) : (k.modPort p f).atoms = k.atoms := rfl
@[simp] theorem Core.modPort_nextAtom (k : Core) (p : BitVec 2) (f : Port → Port) : (k.modPort p f).nextAtom = k.nextAtom := rfl
@[simp] theorem Core.modPort_pool (k : Core) (p : BitVec 2) (f : Port → Port) : (k.modPort p f).pool = k.pool := rfl
@[simp] theorem Core.modPort_l1 (k : Core) (p : BitVec 2) (f : Port → Port) : (k.modPort p f).l1 = k.l1 := rfl
@[simp] theorem Core.modPort_l1fills (k : Core) (p : BitVec 2) (f : Port → Port) : (k.modPort p f).l1fills = k.l1fills := rfl
@[simp] theorem Core.modPort_nextFill (k : Core) (p : BitVec 2) (f : Port → Port) : (k.modPort p f).nextFill = k.nextFill := rfl
@[simp] theorem Core.modPort_tlbs (k : Core) (p : BitVec 2) (f : Port → Port) : (k.modPort p f).tlbs = k.tlbs := rfl
@[simp] theorem Core.modPort_sys (k : Core) (p : BitVec 2) (f : Port → Port) : (k.modPort p f).sys = k.sys := rfl
@[simp] theorem Core.modPort_trap (k : Core) (p : BitVec 2) (f : Port → Port) : (k.modPort p f).trap = k.trap := rfl
@[simp] theorem Core.modPort_fetched (k : Core) (p : BitVec 2) (f : Port → Port) : (k.modPort p f).fetched = k.fetched := rfl
@[simp] theorem Core.modPort_activity (k : Core) (p : BitVec 2) (f : Port → Port) : (k.modPort p f).activity = k.activity := rfl
@[simp] theorem Core.modPort_fill (k : Core) (p : BitVec 2) (f : Port → Port) : (k.modPort p f).fill = k.fill := rfl

/-! ### setHandle -/

@[simp] theorem Core.setHandle_task (k : Core) (h : BitVec 6) (v : W256) : (k.setHandle h v).task = k.task := rfl
@[simp] theorem Core.setHandle_seqs (k : Core) (h : BitVec 6) (v : W256) : (k.setHandle h v).seqs = k.seqs := rfl
@[simp] theorem Core.setHandle_queues (k : Core) (h : BitVec 6) (v : W256) : (k.setHandle h v).queues = k.queues := rfl
@[simp] theorem Core.setHandle_sync (k : Core) (h : BitVec 6) (v : W256) : (k.setHandle h v).sync = k.sync := rfl
@[simp] theorem Core.setHandle_regs (k : Core) (h : BitVec 6) (v : W256) : (k.setHandle h v).regs = k.regs := rfl
@[simp] theorem Core.setHandle_matrix (k : Core) (h : BitVec 6) (v : W256) : (k.setHandle h v).matrix = k.matrix := rfl
@[simp] theorem Core.setHandle_land (k : Core) (h : BitVec 6) (v : W256) : (k.setHandle h v).land = k.land := rfl
@[simp] theorem Core.setHandle_atoms (k : Core) (h : BitVec 6) (v : W256) : (k.setHandle h v).atoms = k.atoms := rfl
@[simp] theorem Core.setHandle_nextAtom (k : Core) (h : BitVec 6) (v : W256) : (k.setHandle h v).nextAtom = k.nextAtom := rfl
@[simp] theorem Core.setHandle_pool (k : Core) (h : BitVec 6) (v : W256) : (k.setHandle h v).pool = k.pool := rfl
@[simp] theorem Core.setHandle_l1 (k : Core) (h : BitVec 6) (v : W256) : (k.setHandle h v).l1 = k.l1 := rfl
@[simp] theorem Core.setHandle_l1fills (k : Core) (h : BitVec 6) (v : W256) : (k.setHandle h v).l1fills = k.l1fills := rfl
@[simp] theorem Core.setHandle_nextFill (k : Core) (h : BitVec 6) (v : W256) : (k.setHandle h v).nextFill = k.nextFill := rfl
@[simp] theorem Core.setHandle_tlbs (k : Core) (h : BitVec 6) (v : W256) : (k.setHandle h v).tlbs = k.tlbs := rfl
@[simp] theorem Core.setHandle_sys (k : Core) (h : BitVec 6) (v : W256) : (k.setHandle h v).sys = k.sys := rfl
@[simp] theorem Core.setHandle_trap (k : Core) (h : BitVec 6) (v : W256) : (k.setHandle h v).trap = k.trap := rfl
@[simp] theorem Core.setHandle_fetched (k : Core) (h : BitVec 6) (v : W256) : (k.setHandle h v).fetched = k.fetched := rfl
@[simp] theorem Core.setHandle_activity (k : Core) (h : BitVec 6) (v : W256) : (k.setHandle h v).activity = k.activity := rfl
@[simp] theorem Core.setHandle_fill (k : Core) (h : BitVec 6) (v : W256) : (k.setHandle h v).fill = k.fill := rfl

/-! ### setTile -/

@[simp] theorem Core.setTile_task (k : Core) (t : BitVec 3) (v : List W32) : (k.setTile t v).task = k.task := rfl
@[simp] theorem Core.setTile_seqs (k : Core) (t : BitVec 3) (v : List W32) : (k.setTile t v).seqs = k.seqs := rfl
@[simp] theorem Core.setTile_queues (k : Core) (t : BitVec 3) (v : List W32) : (k.setTile t v).queues = k.queues := rfl
@[simp] theorem Core.setTile_sync (k : Core) (t : BitVec 3) (v : List W32) : (k.setTile t v).sync = k.sync := rfl
@[simp] theorem Core.setTile_regs (k : Core) (t : BitVec 3) (v : List W32) : (k.setTile t v).regs = k.regs := rfl
@[simp] theorem Core.setTile_tables (k : Core) (t : BitVec 3) (v : List W32) : (k.setTile t v).tables = k.tables := rfl
@[simp] theorem Core.setTile_land (k : Core) (t : BitVec 3) (v : List W32) : (k.setTile t v).land = k.land := rfl
@[simp] theorem Core.setTile_atoms (k : Core) (t : BitVec 3) (v : List W32) : (k.setTile t v).atoms = k.atoms := rfl
@[simp] theorem Core.setTile_nextAtom (k : Core) (t : BitVec 3) (v : List W32) : (k.setTile t v).nextAtom = k.nextAtom := rfl
@[simp] theorem Core.setTile_pool (k : Core) (t : BitVec 3) (v : List W32) : (k.setTile t v).pool = k.pool := rfl
@[simp] theorem Core.setTile_l1 (k : Core) (t : BitVec 3) (v : List W32) : (k.setTile t v).l1 = k.l1 := rfl
@[simp] theorem Core.setTile_l1fills (k : Core) (t : BitVec 3) (v : List W32) : (k.setTile t v).l1fills = k.l1fills := rfl
@[simp] theorem Core.setTile_nextFill (k : Core) (t : BitVec 3) (v : List W32) : (k.setTile t v).nextFill = k.nextFill := rfl
@[simp] theorem Core.setTile_tlbs (k : Core) (t : BitVec 3) (v : List W32) : (k.setTile t v).tlbs = k.tlbs := rfl
@[simp] theorem Core.setTile_sys (k : Core) (t : BitVec 3) (v : List W32) : (k.setTile t v).sys = k.sys := rfl
@[simp] theorem Core.setTile_trap (k : Core) (t : BitVec 3) (v : List W32) : (k.setTile t v).trap = k.trap := rfl
@[simp] theorem Core.setTile_fetched (k : Core) (t : BitVec 3) (v : List W32) : (k.setTile t v).fetched = k.fetched := rfl
@[simp] theorem Core.setTile_activity (k : Core) (t : BitVec 3) (v : List W32) : (k.setTile t v).activity = k.activity := rfl
@[simp] theorem Core.setTile_fill (k : Core) (t : BitVec 3) (v : List W32) : (k.setTile t v).fill = k.fill := rfl

/-! ### note -/

@[simp] theorem Core.note_task (k : Core) (kind : Activity) (n : Nat) : (k.note kind n).task = k.task := rfl
@[simp] theorem Core.note_seqs (k : Core) (kind : Activity) (n : Nat) : (k.note kind n).seqs = k.seqs := rfl
@[simp] theorem Core.note_queues (k : Core) (kind : Activity) (n : Nat) : (k.note kind n).queues = k.queues := rfl
@[simp] theorem Core.note_sync (k : Core) (kind : Activity) (n : Nat) : (k.note kind n).sync = k.sync := rfl
@[simp] theorem Core.note_regs (k : Core) (kind : Activity) (n : Nat) : (k.note kind n).regs = k.regs := rfl
@[simp] theorem Core.note_matrix (k : Core) (kind : Activity) (n : Nat) : (k.note kind n).matrix = k.matrix := rfl
@[simp] theorem Core.note_tables (k : Core) (kind : Activity) (n : Nat) : (k.note kind n).tables = k.tables := rfl
@[simp] theorem Core.note_land (k : Core) (kind : Activity) (n : Nat) : (k.note kind n).land = k.land := rfl
@[simp] theorem Core.note_atoms (k : Core) (kind : Activity) (n : Nat) : (k.note kind n).atoms = k.atoms := rfl
@[simp] theorem Core.note_nextAtom (k : Core) (kind : Activity) (n : Nat) : (k.note kind n).nextAtom = k.nextAtom := rfl
@[simp] theorem Core.note_pool (k : Core) (kind : Activity) (n : Nat) : (k.note kind n).pool = k.pool := rfl
@[simp] theorem Core.note_l1 (k : Core) (kind : Activity) (n : Nat) : (k.note kind n).l1 = k.l1 := rfl
@[simp] theorem Core.note_l1fills (k : Core) (kind : Activity) (n : Nat) : (k.note kind n).l1fills = k.l1fills := rfl
@[simp] theorem Core.note_nextFill (k : Core) (kind : Activity) (n : Nat) : (k.note kind n).nextFill = k.nextFill := rfl
@[simp] theorem Core.note_tlbs (k : Core) (kind : Activity) (n : Nat) : (k.note kind n).tlbs = k.tlbs := rfl
@[simp] theorem Core.note_sys (k : Core) (kind : Activity) (n : Nat) : (k.note kind n).sys = k.sys := rfl
@[simp] theorem Core.note_trap (k : Core) (kind : Activity) (n : Nat) : (k.note kind n).trap = k.trap := rfl
@[simp] theorem Core.note_fetched (k : Core) (kind : Activity) (n : Nat) : (k.note kind n).fetched = k.fetched := rfl

/-! ### setLs -/

@[simp] theorem Core.setLs_task (k : Core) (b : Bool) (v : LSeq) : (k.setLs b v).task = k.task := by cases b <;> rfl
@[simp] theorem Core.setLs_queues (k : Core) (b : Bool) (v : LSeq) : (k.setLs b v).queues = k.queues := by cases b <;> rfl
@[simp] theorem Core.setLs_sync (k : Core) (b : Bool) (v : LSeq) : (k.setLs b v).sync = k.sync := by cases b <;> rfl
@[simp] theorem Core.setLs_regs (k : Core) (b : Bool) (v : LSeq) : (k.setLs b v).regs = k.regs := by cases b <;> rfl
@[simp] theorem Core.setLs_matrix (k : Core) (b : Bool) (v : LSeq) : (k.setLs b v).matrix = k.matrix := by cases b <;> rfl
@[simp] theorem Core.setLs_tables (k : Core) (b : Bool) (v : LSeq) : (k.setLs b v).tables = k.tables := by cases b <;> rfl
@[simp] theorem Core.setLs_land (k : Core) (b : Bool) (v : LSeq) : (k.setLs b v).land = k.land := by cases b <;> rfl
@[simp] theorem Core.setLs_atoms (k : Core) (b : Bool) (v : LSeq) : (k.setLs b v).atoms = k.atoms := by cases b <;> rfl
@[simp] theorem Core.setLs_nextAtom (k : Core) (b : Bool) (v : LSeq) : (k.setLs b v).nextAtom = k.nextAtom := by cases b <;> rfl
@[simp] theorem Core.setLs_pool (k : Core) (b : Bool) (v : LSeq) : (k.setLs b v).pool = k.pool := by cases b <;> rfl
@[simp] theorem Core.setLs_l1 (k : Core) (b : Bool) (v : LSeq) : (k.setLs b v).l1 = k.l1 := by cases b <;> rfl
@[simp] theorem Core.setLs_l1fills (k : Core) (b : Bool) (v : LSeq) : (k.setLs b v).l1fills = k.l1fills := by cases b <;> rfl
@[simp] theorem Core.setLs_nextFill (k : Core) (b : Bool) (v : LSeq) : (k.setLs b v).nextFill = k.nextFill := by cases b <;> rfl
@[simp] theorem Core.setLs_tlbs (k : Core) (b : Bool) (v : LSeq) : (k.setLs b v).tlbs = k.tlbs := by cases b <;> rfl
@[simp] theorem Core.setLs_sys (k : Core) (b : Bool) (v : LSeq) : (k.setLs b v).sys = k.sys := by cases b <;> rfl
@[simp] theorem Core.setLs_trap (k : Core) (b : Bool) (v : LSeq) : (k.setLs b v).trap = k.trap := by cases b <;> rfl
@[simp] theorem Core.setLs_fetched (k : Core) (b : Bool) (v : LSeq) : (k.setLs b v).fetched = k.fetched := by cases b <;> rfl
@[simp] theorem Core.setLs_activity (k : Core) (b : Bool) (v : LSeq) : (k.setLs b v).activity = k.activity := by cases b <;> rfl
@[simp] theorem Core.setLs_fill (k : Core) (b : Bool) (v : LSeq) : (k.setLs b v).fill = k.fill := by cases b <;> rfl

@[simp] theorem Core.setLs_ls (k : Core) (b : Bool) (v : LSeq) : (k.setLs b v).ls b = v := by cases b <;> rfl

@[simp] theorem Core.setLs_ls_not (k : Core) (b : Bool) (v : LSeq) : (k.setLs b v).ls (!b) = k.ls (!b) := by cases b <;> rfl

@[simp] theorem Core.setLs_x (k : Core) (b : Bool) (v : LSeq) : (k.setLs b v).seqs.x = k.seqs.x := by cases b <;> rfl

@[simp] theorem Core.setLs_c (k : Core) (b : Bool) (v : LSeq) : (k.setLs b v).seqs.c = k.seqs.c := by cases b <;> rfl

/-! ### Parts read back -/

@[simp] theorem State.setCore_core_self (s : State) (c : CoreId) (k : Core) : (s.setCore c k).core c = k := by
  simp [State.setCore, State.core]

theorem State.setCore_core_ne (s : State) {c d : CoreId} (k : Core) (h : d ≠ c) : (s.setCore c k).core d = s.core d := by
  have : c.val ≠ d.val := fun e => h (Fin.ext e.symm)
  simp [State.setCore, State.core, this]

@[simp] theorem State.modCore_core_self (s : State) (c : CoreId) (f : Core → Core) : (s.modCore c f).core c = f (s.core c) := by
  simp [State.modCore]

theorem State.modCore_core_ne (s : State) {c d : CoreId} (f : Core → Core) (h : d ≠ c) : (s.modCore c f).core d = s.core d :=
  s.setCore_core_ne _ h

/-- Writing back the core that stands there changes nothing. -/
@[simp] theorem State.setCore_same (s : State) (c : CoreId) : s.setCore c (s.core c) = s := by
  simp [State.setCore, State.core]

/-- A second change of a core replaces the first. -/
@[simp] theorem State.setCore_setCore (s : State) (c : CoreId) (k l : Core) : (s.setCore c k).setCore c l = s.setCore c l := by
  simp [State.setCore]

@[simp] theorem State.modSlice_slice_self (s : State) (i : SliceId) (f : Slice → Slice) : (s.modSlice i f).slice i = f (s.slice i) := by
  simp [State.modSlice, State.slice]

@[simp] theorem State.modIsland_island_self (s : State) (i : IslandId) (f : Island → Island) :
    (s.modIsland i f).island i = f (s.island i) := by simp [State.modIsland, State.island]

@[simp] theorem State.modTenant_tenant_self (s : State) (t : Tenant) (f : TenantSt → TenantSt) :
    (s.modTenant t f).tenant t = f (s.tenant t) := by simp [State.modTenant, State.tenant]

@[simp] theorem State.modRouter_router_self (s : State) (r : RouterId) (f : Router → Router) :
    (s.modRouter r f).router r = f (s.router r) := by simp [State.modRouter, State.router]

/-- A change of one core is a change of that core alone. -/
theorem State.modCore_only (s : State) (c : CoreId) (f : Core → Core) : OnlyCore c s (s.modCore c f) :=
  ⟨rfl, fun _ h => s.setCore_core_ne _ h⟩

@[simp] theorem Core.setCtx_ctx_self (k : Core) (x : CtxId) (v : XCtx) : (k.setCtx x v).ctx x = v := by
  simp [Core.setCtx, Core.ctx]

theorem Core.setCtx_ctx_ne (k : Core) {x y : CtxId} (v : XCtx) (h : y ≠ x) : (k.setCtx x v).ctx y = k.ctx y := by
  have : x.val ≠ y.val := fun e => h (Fin.ext e.symm)
  simp [Core.setCtx, Core.ctx, this]

@[simp] theorem Core.leaveWait_ctx (k : Core) (a : Agent) (x : CtxId) : (k.leaveWait a).ctx x = k.ctx x := rfl

@[simp] theorem Core.setQueue_queue_self (k : Core) (q : QName) (v : List (Option W32)) : (k.setQueue q v).queue q = v := by
  simp [Core.setQueue, Core.queue]

@[simp] theorem Core.setSem_sem_self (k : Core) (i : BitVec 6) (v : W16) : (k.setSem i v).sem i = v := by
  simp [Core.setSem, Core.sem]

/-- A semaphore set leaves the others. -/
theorem Core.setSem_sem_ne (k : Core) {i j : BitVec 6} (v : W16) (h : j ≠ i) : (k.setSem i v).sem j = k.sem j := by
  have : i.toNat ≠ j.toNat := fun e => h (BitVec.eq_of_toNat_eq e.symm)
  simp [Core.setSem, Core.sem, this]

end Sys2Proof.Machine
end

