-- ==== Sys2Proof/Laws/C.lean ====
section
/-! SUPPORT. What the shared operations of the words of C can do: replays, frames and writes of vector registers, and the issue of a
bundle of one word. -/

namespace Sys2Proof.Machine

open Sys2Proof

/-! ### Replays -/

/-- The replay of a register that reads without one changes nothing. -/
theorem Core.replay_readable (k : Core) (n p : Nat) (h : k.readable p) : k.replay (n + 1) p = .ok k := by
  obtain ⟨h1, h2⟩ := h
  unfold Core.replay
  cases e : (k.regs.preg p).st <;> simp_all

/-- Nor do the replays of a bundle's sources. -/
theorem Core.replays_readable (k : Core) (l : List Nat) (h : ∀ p ∈ l, k.readable p) : k.replays l = .ok k := by
  induction l with
  | nil => rfl
  | cons p rest ih =>
    simp only [Core.replays, Core.replay_readable k k.regs.pregs.length p (h p (by simp))]
    exact ih (fun q hq => h q (by simp [hq]))

/-- A list in which something is found has it. -/
theorem find_filter_len {α : Type} (l : List α) (f : α → Bool) (h : (l.find? f).isSome = true) : 1 ≤ (l.filter f).length := by
  rw [List.find?_isSome] at h
  obtain ⟨x, hx, hf⟩ := h
  have : x ∈ l.filter f := List.mem_filter.mpr ⟨hx, hf⟩
  exact List.length_pos_of_mem this

/-! ### A bundle of one word -/

/-- A lone word issues when every earlier word has retired, its sources read without replay, its tests pass, it pops and takes nothing,
and its destination has or can take a frame: it traps when it raises an enabled flag, and else has its effects. -/
theorem State.cBundle_issue {s : State} {c : CoreId} {w : CWord} {p : CPlan} (hr : CReady c s) (hp : w (s.core c) = p)
    (hs : p.sema = none) (hq : p.pops = []) (hc : p.check (s.core c) = none) (hw : p.waits (s.core c) = none)
    (hreads : ∀ r ∈ p.reads, (s.core c).readable r) (hdest : ∀ r ∈ p.dest, (s.core c).writable r) :
    s.cBundle [w] =
      if fcsEn (s.core c).regs.fcs ≠ 0 ∧ fcsEn (s.core c).regs.fcs &&& (p.run (s.core c)).flags ≠ 0 then
        (s.modCore c (fun k => k.setC { k.seqs.c with popped := true })).raise c .c causeFp (p.run (s.core c)).flags.toNat 0
      else s.modCore c (fun _ => (s.core c).bundleWrite [(p, p.run (s.core c))] ((s.core c).seqs.c.pc + 4)) := by
  obtain ⟨hf, hret, hpop, haw⟩ := hr
  have hh : s.here = s.core c := by simp [State.here, hf]
  have hany : ∀ r, (s.core c).awaited r = false := by
    intro r
    simp only [Core.awaited, Core.awaitsAny, List.any_eq_false] at haw ⊢
    intro v hv e
    have := haw v hv
    simp at e
    simp [e] at this
  have hlost : (p.reads.any fun r => ((s.core c).regs.preg r).st == .lost) = false := by
    rw [List.any_eq_false]
    intro r hr'
    simpa using (hreads r hr').1
  have hframes : ¬ (s.core c).freeFrames.length < ((s.core c).framesNeeded [p]).length
      ∧ (s.core c).framesPowered ((s.core c).framesNeeded [p]).length = true := by
    simp only [Core.framesNeeded, Core.framesPowered]
    cases hd : p.dest with
    | none => simp [hd]
    | some d =>
      simp only [List.filterMap_cons, hd, List.filterMap_nil]
      have := hdest d (by simp [hd])
      rcases this.2 with h | h
      · have : ((s.core c).regs.preg d).frame.isNone = false := by
          cases e : ((s.core c).regs.preg d).frame <;> simp_all
        simp [this]
      · have h1 := find_filter_len _ _ h
        have h2 := (List.length_filter_le (fun f => !(s.core c).pool.gated.contains (bankOf f)) (s.core c).freeFrames)
        by_cases e : ((s.core c).regs.preg d).frame.isNone = true
        · simp only [List.filter_cons, e, if_true, List.filter_nil, List.length_cons, List.length_nil]
          refine ⟨by omega, by simpa using h1⟩
        · simp [e]
  have hheld : (s.core c).bundleHeld [p] = false := by
    simp only [Core.bundleHeld, List.any_cons, List.any_nil, Bool.or_false, haw, hret]
    simp [hany]
  have hholds : (s.core c).cHolds = [] := by simp [Core.cHolds, hret]
  simp only [State.cBundle, hh, hp, List.map_cons, List.map_nil, List.flatMap_cons, List.flatMap_nil, List.append_nil, hholds,
    hheld, hlost, Core.replays_readable _ _ hreads, hc, List.findSome?_cons, List.findSome?_nil, hframes.1, Nat.sub_self, Nat.add_zero,
    hframes.2, hw, hq,
    hpop, Core.unserved, List.filterMap_cons, hs, List.filterMap_nil, List.find?_nil, Core.bundlePop, Core.popAll, Core.canPop]
  simp [State.modHere, hf, Core.emptyOf, State.cTrap]

/-- A lone word that raises no enabled flag has its effects. -/
theorem State.cBundle_one {s : State} {c : CoreId} {w : CWord} {p : CPlan} (hr : CReady c s) (hp : w (s.core c) = p)
    (hs : p.sema = none) (hq : p.pops = []) (hc : p.check (s.core c) = none) (hw : p.waits (s.core c) = none)
    (hreads : ∀ r ∈ p.reads, (s.core c).readable r) (hdest : ∀ r ∈ p.dest, (s.core c).writable r)
    (hen : fcsEn (s.core c).regs.fcs &&& (p.run (s.core c)).flags = 0) :
    s.cBundle [w] = s.modCore c (fun _ => (s.core c).bundleWrite [(p, p.run (s.core c))] ((s.core c).seqs.c.pc + 4)) := by
  rw [State.cBundle_issue hr hp hs hq hc hw hreads hdest, if_neg (fun h => h.2 hen)]

/-- A lone word that raises an enabled flag traps with FCS as it was. -/
theorem State.cBundle_traps {s : State} {c : CoreId} {w : CWord} {p : CPlan} (hr : CReady c s) (hp : w (s.core c) = p)
    (hs : p.sema = none) (hq : p.pops = []) (hc : p.check (s.core c) = none) (hw : p.waits (s.core c) = none)
    (hreads : ∀ r ∈ p.reads, (s.core c).readable r) (hdest : ∀ r ∈ p.dest, (s.core c).writable r)
    (hen : fcsEn (s.core c).regs.fcs &&& (p.run (s.core c)).flags ≠ 0) :
    s.cBundle [w]
      = (s.modCore c (fun k => k.setC { k.seqs.c with popped := true })).raise c .c causeFp (p.run (s.core c)).flags.toNat 0 := by
  rw [State.cBundle_issue hr hp hs hq hc hw hreads hdest, if_pos ⟨fun h => hen (by rw [h]; simp), hen⟩]

/-! ### Writing a register -/

/-- A register reads as another and has its frame, and is the same when it has no live binding. -/
def PReg.Alike (a b : PReg) : Prop := b.read = a.read ∧ b.frame = a.frame ∧ (a.live = false → b = a)

/-- A register is alike itself. -/
theorem PReg.Alike.refl (a : PReg) : a.Alike a := ⟨rfl, rfl, fun _ => rfl⟩

/-- Invalidation leaves what is read. -/
theorem PReg.invalidate_alike (p : PReg) : p.Alike p.invalidate := by
  unfold PReg.Alike PReg.invalidate PReg.read PReg.live
  cases h : p.st <;> simp_all

/-- Likeness composes. -/
theorem PReg.Alike.trans {a b c : PReg} (h : a.Alike b) (g : b.Alike c) : a.Alike c := by
  refine ⟨g.1.trans h.1, g.2.1.trans h.2.1, fun e => ?_⟩
  have := h.2.2 e
  subst this
  exact g.2.2 e

/-- Rounds of invalidation leave what is read. -/
theorem invalidateRounds_alike (names : Binding → Nat → Bool) (n : Nat) (f : Binding → Bool) (ps : List PReg) (i : Nat) :
    ((ps[i]?).getD PReg.reset).Alike (((invalidateRounds names n f ps)[i]?).getD PReg.reset) := by
  induction n generalizing f ps with
  | zero => exact PReg.Alike.refl _
  | succ n ih =>
    have h1 : ((ps[i]?).getD PReg.reset).Alike
        (((ps.map (fun p => if p.bindMeets f then p.invalidate else p))[i]?).getD PReg.reset) := by
      rw [List.getElem?_map]
      cases ps[i]? with
      | none => exact PReg.Alike.refl _
      | some p =>
        simp only [Option.map_some, Option.getD_some]
        split
        · exact p.invalidate_alike
        · exact PReg.Alike.refl _
    simp only [invalidateRounds]
    split
    · exact h1
    · exact h1.trans (ih _ _)

/-- A write of a vector register changes the list of registers alone: the written one holds the lanes in its frame, and every other
one reads as before from its frame. -/
theorem Core.writePreg_spec (k : Core) (p : Nat) (l : List W32) (hp : p < k.regs.pregs.length) :
    ∃ ps : List PReg, k.writePreg p l = { k with regs := { k.regs with pregs := ps } }
      ∧ (ps[p]?).getD PReg.reset = { st := .plain, frame := (k.regs.preg p).frame, lanes := l, bind := none }
      ∧ ∀ q, q ≠ p → ((ps[q]?).getD PReg.reset).read = (k.regs.preg q).read
          ∧ ((ps[q]?).getD PReg.reset).frame = (k.regs.preg q).frame := by
  obtain ⟨v, hv⟩ : ∃ v : PReg, v = { st := .plain, frame := (k.regs.preg p).frame, lanes := l, bind := none } := ⟨_, rfl⟩
  have h1 : ∀ q, ((k.regs.pregs.set p v)[q]?).getD PReg.reset = if q = p then v else k.regs.preg q := by
    intro q
    simp only [CRegs.preg, List.getElem?_set]
    by_cases e : p = q
    · subst e; simp [hp]
    · have : ¬ q = p := fun h => e h.symm
      simp [e, this]
  have hl : v.live = false := by subst hv; rfl
  rw [← hv]
  have hw : ∃ f, k.writePreg p l
      = ({ k with regs := { k.regs with pregs := k.regs.pregs.set p v } } : Core).invalidateBinds f := by
    subst hv; exact ⟨_, rfl⟩
  obtain ⟨f, hw⟩ := hw
  rw [hw]
  unfold Core.invalidateBinds
  dsimp only
  split
  · refine ⟨_, rfl, ?_, fun q hq => ?_⟩
    · have := (invalidateRounds_alike (fun b p_1 => Core.bindNames { k with regs := { k.regs with pregs := k.regs.pregs.set p v } } b p_1)
        ((k.regs.pregs.set p v).length + 1) f (k.regs.pregs.set p v) p).2.2
      rw [h1] at this
      simp only [if_true] at this
      exact this hl
    · have := invalidateRounds_alike (fun b p_1 => Core.bindNames { k with regs := { k.regs with pregs := k.regs.pregs.set p v } } b p_1)
        ((k.regs.pregs.set p v).length + 1) f (k.regs.pregs.set p v) q
      rw [h1] at this
      simp only [hq, if_false] at this
      exact ⟨this.1, this.2.1⟩
  · refine ⟨_, rfl, by simp [h1], fun q hq => ?_⟩
    rw [h1]; simp [hq]

/-! ### A lone word that writes a vector register -/

/-- A register takes a frame, if it needs one and one is free; nothing else differs. -/
theorem Core.takeFrame_spec (k : Core) (p : Nat) (hp : p < k.regs.pregs.length) :
    ∃ ps : List PReg, k.takeFrame p = { k with regs := { k.regs with pregs := ps } } ∧ ps.length = k.regs.pregs.length
      ∧ (ps[p]?).getD PReg.reset = { k.regs.preg p with
          frame := if (k.regs.preg p).frame.isSome then (k.regs.preg p).frame else k.poweredFree }
      ∧ ∀ q, q ≠ p → (ps[q]?).getD PReg.reset = k.regs.preg q := by
  unfold Core.takeFrame
  dsimp only
  split
  · exact ⟨_, rfl, rfl, rfl, fun q _ => rfl⟩
  · rename_i h
    cases e : k.poweredFree with
    | none =>
      refine ⟨k.regs.pregs, rfl, rfl, ?_, fun q _ => rfl⟩
      have h' : (k.regs.preg p).frame = none := by simpa using h
      change k.regs.preg p = _
      cases hq : k.regs.preg p
      simp_all
    | some f =>
      refine ⟨_, rfl, by simp, ?_, fun q hq => ?_⟩
      · simp [hp]
      · have : ¬ p = q := fun h => hq h.symm
        simp [this, CRegs.preg]

/-- A bundle that stores nothing leaves its matrix words as they are. -/
theorem Core.keepBytes_none (k old : Core) {ps : List (CPlan × CEff)} (h : ps.flatMap (fun p => p.1.stores) = []) :
    k.keepBytes old ps = k := by
  unfold Core.keepBytes
  rw [h]
  rfl

/-- Lanes are written to one register that has or can take a frame. -/
theorem Core.bundleWrite_vec {k : Core} {p : CPlan} {e : CEff} {d : Nat} {l : List W32} (end_ : W64) (hr : k.seqs.c.ret = [])
    (hd : p.dest = some d) (hl : e.lanes = some l) (he : e.early = fun k => k) (ha : e.apply = fun k => k)
    (ht : e.ret = fun f => .vec f none [] none) (hp : d < k.regs.pregs.length) (hst : p.stores = []) :
    ∃ ps : List PReg, ∃ act fl, k.bundleWrite [(p, e)] end_ = { k with
        regs := { k.regs with pregs := ps, fcs := k.regs.fcs ||| e.flags.setWidth 32 }
        activity := act
        fill := fl
        sync := { k.sync with waiters := k.sync.waiters.filter (fun w => w.1 != Agent.c) }
        seqs := { k.seqs with c := { k.seqs.c with pc := end_, popped := false, ret := [], fault := none, wait := none, stall := 0 } } }
      ∧ (ps[d]?).getD PReg.reset = 
          { st := .plain, frame := if (k.regs.preg d).frame.isSome then (k.regs.preg d).frame else k.poweredFree, lanes := l, bind := none }
      ∧ ∀ q, q ≠ d → ((ps[q]?).getD PReg.reset).read = (k.regs.preg q).read
          ∧ ((ps[q]?).getD PReg.reset).frame = (k.regs.preg q).frame := by
  -- the frame
  obtain ⟨k1, hk1, ps1, e1, len1, at1, ne1⟩ : ∃ k1, ((k.framesNeeded [p]).foldl Core.takeFrame k) = k1 ∧
      ∃ ps : List PReg, k1 = { k with regs := { k.regs with pregs := ps } } ∧ ps.length = k.regs.pregs.length
      ∧ (ps[d]?).getD PReg.reset = { k.regs.preg d with
          frame := if (k.regs.preg d).frame.isSome then (k.regs.preg d).frame else k.poweredFree }
      ∧ ∀ q, q ≠ d → (ps[q]?).getD PReg.reset = k.regs.preg q := by
    refine ⟨_, rfl, ?_⟩
    simp only [Core.framesNeeded, List.filterMap_cons, hd, List.filterMap_nil]
    by_cases h : (k.regs.preg d).frame.isNone = true
    · simp only [List.filter_cons, h, if_true, List.filter_nil, List.foldl_cons, List.foldl_nil]
      exact k.takeFrame_spec d hp
    · have h' : (k.regs.preg d).frame.isSome = true := by cases e : (k.regs.preg d).frame <;> simp_all
      simp only [List.filter_cons, h, List.filter_nil, h', if_true]
      exact ⟨_, rfl, rfl, rfl, fun q _ => rfl⟩
  -- the write
  obtain ⟨ps2, e2, at2, ne2⟩ := k1.writePreg_spec d l (by rw [e1]; simpa [len1] using hp)
  have pe1 : ∀ q, k1.regs.preg q = (ps1[q]?).getD PReg.reset := by intro q; rw [e1]; rfl
  refine ⟨ps2, (k.note .vector 1).activity, (k.note .vector 1).fill, ?_, ?_, ?_⟩
  · simp only [Core.bundleWrite, Core.keepBytes, List.flatMap_cons, List.flatMap_nil, hst, List.append_nil, List.isEmpty_nil, if_true,
      List.map_cons, List.map_nil, hk1, List.foldl_cons, List.foldl_nil, he, hd, hl, ha, ht, e2, Core.note,
      Core.leaveWait, Core.setC]
    subst e1
    simp only [Core.settleC, hr, List.nil_append, Core.retireC, Core.pushRet, Core.room, Core.retireVec,
      Core.setRet, Core.setC, Core.pushAll]
    by_cases hz : e.flags = 0
    · simp [hz]
    · have hz' : (e.flags == 0) = false := by simpa using hz
      simp only [hz']
      rfl
  · rw [at2, pe1, at1]
  · intro q hq
    have := ne2 q hq
    rw [pe1, ne1 q hq] at this
    exact this

/-- A lone word that writes lanes to one register. -/
theorem State.cBundle_sets {s : State} {c : CoreId} {w : CWord} {p : CPlan} {d : Nat} {l : List W32} (hr : CReady c s)
    (hp : w (s.core c) = p) (hs : p.sema = none) (hq : p.pops = []) (hc : p.check (s.core c) = none) (hw : p.waits (s.core c) = none)
    (hreads : ∀ r ∈ p.reads, (s.core c).readable r) (hd : p.dest = some d) (hdw : (s.core c).writable d)
    (he : p.run (s.core c) = CEff.of (p.run (s.core c)).flags (some l) (fun k => k))
    (hen : fcsEn (s.core c).regs.fcs &&& (p.run (s.core c)).flags = 0) (hst : p.stores = []) :
    CSets c s (.next (s.cBundle [w])) d l (p.run (s.core c)).flags := by
  rw [State.cBundle_one hr hp hs hq hc hw hreads (by intro r h; rw [hd] at h; cases h; exact hdw) hen]
  obtain ⟨ps, act, fl, e1, e2, e3⟩ := Core.bundleWrite_vec (k := s.core c) (p := p) (e := p.run (s.core c)) ((s.core c).seqs.c.pc + 4)
    hr.2.1 hd (by rw [he]; rfl) (by rw [he]; rfl) (by rw [he]; rfl) (by rw [he]; rfl) hdw.1 hst
  rw [e1]
  refine ⟨_, rfl, ⟨s.modCore_only c _, ⟨fun _ => rfl, fun a => by simp⟩, ?_, ?_⟩, ?_, ?_, ?_, ?_, ?_⟩
  all_goals simp only [State.modCore_core_self]
  · simp only [CRegs.preg]; rw [e2]
  · simp only [CRegs.preg]; rw [e2]
  · simp only [CRegs.preg] at e2 ⊢; rw [e2]
  · intro q hq
    exact e3 q hq

/-! ### A lone word that writes no vector register -/

/-- Without a destination a bundle applies its word's effect at the next word. -/
theorem Core.bundleWrite_none {k : Core} {p : CPlan} {e : CEff} {g : Core → Core} (end_ : W64) (hr : k.seqs.c.ret = [])
    (hd : p.dest = none) (he : e = CEff.of 0 none g) (hst : p.stores = [])
    (hg : ∀ k, (g k).seqs.c.ret = k.seqs.c.ret) :
    k.bundleWrite [(p, e)] end_ = ((g ((k.setC { k.seqs.c with
      pc := end_, popped := false, ret := [.vec 0 none [] none], fault := none, wait := none, stall := 0 }).leaveWait .c)).setRet []) := by
  subst he
  simp only [Core.bundleWrite, Core.keepBytes, List.flatMap_cons, List.flatMap_nil, hst, List.append_nil, List.isEmpty_nil, if_true,
    List.map_cons, List.map_nil, List.foldl_cons, List.foldl_nil, CEff.of, Core.framesNeeded,
    List.filterMap_cons, hd, List.filterMap_nil, List.filter_nil, hr, List.nil_append, Core.settleC]
  have h := hg ((k.setC { k.seqs.c with
      pc := end_, popped := false, ret := [.vec 0 none [] none], fault := none, wait := none, stall := 0 }).leaveWait .c)
  simp only [Core.leaveWait, Core.setC] at h ⊢
  rw [h]
  simp only [Core.retireC, Core.pushRet, Core.retireVec]
  rfl

end Sys2Proof.Machine
end

