-- ==== Sys2Proof/Laws/LS.lean ====
section
/-! SUPPORT. What the shared operations of the words of L and S can do: pops, pushes, and retirement with what a word owes. -/

namespace Sys2Proof.Machine

open Sys2Proof

/-! ### Pops and pushes -/

/-- Pushes change the queues alone. -/
theorem Core.pushAll_rest (k : Core) (l : List (QName × Option W32)) : ∃ qs, k.pushAll l = { k with queues := qs } := by
  induction l generalizing k with
  | nil => exact ⟨_, rfl⟩
  | cons p rest ih =>
    obtain ⟨qs, h⟩ := ih (k.pushQueue p.1 p.2)
    exact ⟨qs, by rw [Core.pushAll, h]; rfl⟩

/-- Pops change the queues alone. -/
theorem Core.popAll_rest (k : Core) (l : List QName) : ∃ qs, k.popAll l = { k with queues := qs } := by
  induction l generalizing k with
  | nil => exact ⟨_, rfl⟩
  | cons q rest ih =>
    obtain ⟨qs, h⟩ := ih (k.popQueue q)
    exact ⟨qs, by rw [Core.popAll, h]; rfl⟩

/-- Pushes depend on the queues alone. -/
theorem Core.pushAll_queues {k l : Core} (h : k.queues = l.queues) (ps : List (QName × Option W32)) :
    (k.pushAll ps).queues = (l.pushAll ps).queues := by
  induction ps generalizing k l with
  | nil => exact h
  | cons p rest ih => exact ih (by simp [Core.pushQueue, Core.setQueue, Core.queue, h])

/-- An increment changes the semaphores and SOVF alone, and depends on them alone. -/
theorem Core.semAdd_rest (k : Core) (i : BitVec 6) (n : Nat) :
    ∃ v w, k.semAdd i n = { k with sync := { k.sync with sems := v, sovf := w } }
      ∧ ∀ l : Core, l.sync.sems = k.sync.sems → l.sync.sovf = k.sync.sovf →
        (l.semAdd i n).sync.sems = v ∧ (l.semAdd i n).sync.sovf = w := by
  by_cases h : (k.sem i).toNat + n ≤ 65535
  · refine ⟨_, _, by simp only [Core.semAdd, h, if_true]; rfl, fun l h1 h2 => ?_⟩
    have e : l.sem i = k.sem i := by simp [Core.sem, h1]
    simp [Core.semAdd, e, h, Core.setSem, h1, h2]
  · refine ⟨_, _, by simp only [Core.semAdd, h, if_false]; rfl, fun l h1 h2 => ?_⟩
    have e : l.sem i = k.sem i := by simp [Core.sem, h1]
    simp [Core.semAdd, e, h, Core.setSem, h1, h2]

/-! ### Retirement -/

/-- Words that have reached their finishing points change queues, semaphores, SOVF and their own list alone. -/
theorem Core.flushPend_rest (k : Core) (isS : Bool) (n : Nat) :
    ∃ qs sems sovf pend, k.flushPend isS n
      = ({ k with queues := qs, sync := { k.sync with sems := sems, sovf := sovf } }).setLs isS { k.ls isS with pend := pend } := by
  induction n generalizing k with
  | zero => exact ⟨k.queues, k.sync.sems, k.sync.sovf, (k.ls isS).pend, by cases isS <;> rfl⟩
  | succ n ih =>
    rw [Core.flushPend]
    split
    · exact ⟨k.queues, k.sync.sems, k.sync.sovf, (k.ls isS).pend, by cases isS <;> rfl⟩
    · rename_i p rest _
      split
      · obtain ⟨q1, h1⟩ := (k.setLs isS { k.ls isS with pend := rest }).pushAll_rest p.pushes
        rw [h1]
        cases p.sem with
        | none =>
          obtain ⟨qs, v, w, pd, h⟩ := ih { k.setLs isS { k.ls isS with pend := rest } with queues := q1 }
          refine ⟨qs, v, w, pd, ?_⟩
          dsimp only
          rw [h]
          cases isS <;> rfl
        | some x =>
          obtain ⟨v1, w1, h2, -⟩ := ({ k.setLs isS { k.ls isS with pend := rest } with queues := q1 } : Core).semAdd_rest x.1 x.2
          dsimp only
          rw [h2]
          obtain ⟨qs, v, w, pd, h⟩ := ih
            { k.setLs isS { k.ls isS with pend := rest } with
              queues := q1
              sync := { (k.setLs isS { k.ls isS with pend := rest }).sync with sems := v1, sovf := w1 } }
          refine ⟨qs, v, w, pd, ?_⟩
          rw [h]
          cases isS <;> rfl
      · exact ⟨k.queues, k.sync.sems, k.sync.sovf, (k.ls isS).pend, by cases isS <;> rfl⟩

/-- With no word left nothing moves. -/
theorem Core.flushPend_nil (k : Core) (isS : Bool) (n : Nat) (h : (k.ls isS).pend = []) : k.flushPend isS n = k := by
  cases n with
  | zero => rfl
  | succ n => rw [Core.flushPend, h]

/-- A word that waits for nothing, behind none, makes its pushes and its increment at once when the pushes have room. -/
theorem Core.flushPend_one (k : Core) (isS : Bool) (n : Nat) (pc : W64) (pushes : List (QName × Option W32))
    (sem : Option (BitVec 6 × Nat)) (h : (k.ls isS).pend = [{ fin := .now, pc := pc, pushes := pushes, sem := sem }]) (hr : k.room pushes = true) :
    let l := (match sem with
      | some x => (k.pushAll pushes).semAdd x.1 x.2
      | none => k.pushAll pushes)
    (k.flushPend isS (n + 1)).queues = l.queues ∧ (k.flushPend isS (n + 1)).sync.sems = l.sync.sems
      ∧ (k.flushPend isS (n + 1)).sync.sovf = l.sync.sovf ∧ ((k.flushPend isS (n + 1)).ls isS).pend = [] := by
  have hf : k.finished .now = true := rfl
  obtain ⟨q1, h1⟩ := (k.setLs isS { k.ls isS with pend := [] }).pushAll_rest pushes
  obtain ⟨q2, h2⟩ := k.pushAll_rest pushes
  have hq : q1 = q2 := by
    have := Core.pushAll_queues (k := k.setLs isS { k.ls isS with pend := [] }) (l := k) (by cases isS <;> rfl) pushes
    rw [h1, h2] at this
    exact this
  subst hq
  rw [Core.flushPend, h]
  simp only [hf, hr, Bool.and_self, if_true]
  rw [h1, h2]
  cases sem with
  | none =>
    dsimp only
    rw [Core.flushPend_nil _ _ _ (by cases isS <;> rfl)]
    cases isS <;> exact ⟨rfl, rfl, rfl, rfl⟩
  | some x =>
    dsimp only
    obtain ⟨v, w, e1, e2⟩ := ({ k with queues := q1 } : Core).semAdd_rest x.1 x.2
    obtain ⟨v', w', e3, -⟩ := ({ k.setLs isS { k.ls isS with pend := [] } with queues := q1 } : Core).semAdd_rest x.1 x.2
    have hv := e2 { k.setLs isS { k.ls isS with pend := [] } with queues := q1 } (by cases isS <;> rfl) (by cases isS <;> rfl)
    rw [e3] at hv
    obtain ⟨rfl, rfl⟩ := hv
    rw [e1, e3, Core.flushPend_nil _ _ _ (by cases isS <;> rfl)]
    cases isS <;> exact ⟨rfl, rfl, rfl, rfl⟩

/-- A word of L or S retires: the sequencer has the registers and run state of `f`, stands at `pc`, and owes its pushes and its
increment, which it makes at once when no earlier word owes anything and they have room. -/
theorem State.lsRetire_runs {s : State} {c : CoreId} {isS : Bool} {pc : W64} {pushes : List (QName × Option W32)}
    {sem : Option (BitVec 6 × Nat)} {f : LSeq → LSeq} (kp : Core) (qs : Vector (List (Option W32)) 12) (sems : Vector W16 64)
    (waiters : List (Agent × WaitFor)) (popped : Bool)
    (hk : kp = { s.core c with queues := qs, sync := { (s.core c).sync with sems := sems, waiters := waiters } })
    (hfp : ∀ q : LSeq, f { q with popped := popped } = { f q with popped := popped })
    (hpend : (f ((s.core c).ls isS)).pend = ((s.core c).ls isS).pend) :
    LsRuns c isS s (.next (s.setCore c ((kp.setLs isS { kp.ls isS with popped := popped }).lsRetire isS pc
        { fin := .now, pushes := pushes, sem := sem } f))) pushes pc (f ((s.core c).ls isS)) kp
      (match sem with
        | some x => (kp.pushAll pushes).semAdd x.1 x.2
        | none => kp.pushAll pushes) := by
  obtain ⟨k0, hk0⟩ : ∃ k0 : Core, k0 = ((kp.setLs isS { f ((s.core c).ls isS) with
      pc := pc, popped := false, pend := ((s.core c).ls isS).pend ++ [{ fin := .now, pc := ((s.core c).ls isS).pc, pushes := pushes, sem := sem }]
      fault := none, wait := none, stall := 0 }).leaveWait (lsAgent isS)) := ⟨_, rfl⟩
  have e0 : (kp.setLs isS { kp.ls isS with popped := popped }).lsRetire isS pc { fin := .now, pushes := pushes, sem := sem } f
      = k0.flushPend isS 64 := by
    have hq : kp.ls isS = (s.core c).ls isS := by rw [hk]; cases isS <;> rfl
    have := hfp ((s.core c).ls isS)
    rw [hk0]
    simp only [Core.lsRetire, Core.setLs_ls, hq, this, hpend]
    cases isS <;> rfl
  rw [e0]
  obtain ⟨q1, v1, w1, p1, e1⟩ := k0.flushPend_rest isS 64
  refine ⟨_, rfl, ⟨rfl, fun d h => s.setCore_core_ne _ h⟩, ⟨fun _ => rfl, fun a => ?_⟩, ?_, ?_, ?_, ?_, ?_, ?_, ?_, ?_⟩
  all_goals simp only [State.setCore_core_self]
  iterate 3
    · rw [e1, hk0, hk]; cases isS <;> rfl
  · rw [e1, hk0, hk]; cases isS <;> simp [Core.setLs, Core.ls, Core.leaveWait]
  iterate 4
    · rw [e1, hk0, hk]; cases isS <;> rfl
  · intro hz hroom
    have hr : k0.room pushes = true := by
      rw [← hroom, hk0]; cases isS <;> rfl
    have h := k0.flushPend_one isS 63 ((s.core c).ls isS).pc pushes sem (by rw [hk0, hz]; cases isS <;> rfl) hr
    have hq : (k0.pushAll pushes).queues = (kp.pushAll pushes).queues :=
      Core.pushAll_queues (by rw [hk0]; cases isS <;> rfl) _
    obtain ⟨qa, ha⟩ := k0.pushAll_rest pushes
    obtain ⟨qb, hb⟩ := kp.pushAll_rest pushes
    have hs1 : (kp.pushAll pushes).sync.sems = (k0.pushAll pushes).sync.sems := by rw [ha, hb, hk0]; cases isS <;> rfl
    have hs2 : (kp.pushAll pushes).sync.sovf = (k0.pushAll pushes).sync.sovf := by rw [ha, hb, hk0]; cases isS <;> rfl
    obtain ⟨h1, h2, h3, h4⟩ := h
    rw [h1, h2, h3]
    cases sem with
    | none => exact ⟨hq, hs1.symm, hs2.symm, h4⟩
    | some x =>
      obtain ⟨v, w, e2, e3⟩ := (k0.pushAll pushes).semAdd_rest x.1 x.2
      obtain ⟨v', w', e4, -⟩ := (kp.pushAll pushes).semAdd_rest x.1 x.2
      have := e3 _ hs1 hs2
      dsimp only
      refine ⟨?_, ?_, ?_, h4⟩
      · rw [e2, e4]; exact hq
      · rw [this.1, e2]
      · rw [this.2, e2]

/-! ### Words -/

/-- A ready word makes its token pops and goes on. -/
theorem State.lsPops_ready {s : State} {c : CoreId} {isS : Bool} {t : Token} (h : LsReady c isS s t) (go : State → State) :
    s.lsPops t go = go (s.setCore c ((s.core c).lsPop isS t)) := by
  obtain ⟨hf, hp, hc⟩ := h
  have hi : s.fIsS = isS := by rw [State.fIsS, hf]; cases isS <;> rfl
  have ha : s.fls = lsAgent isS := by rw [State.fls, hi]; rfl
  have hh : s.here = s.core c := by simp [State.here, hf]
  have hq : s.fq.popped = false := by rw [State.fq, hh, hi]; exact hp
  simp only [State.lsPops, hq, hh, ha, hc, if_true, State.modHere, State.modCore, hf, hi, Bool.false_eq_true, if_false]

/-- After its pops a ready word is still in focus. -/
theorem State.lsPops_focus {s : State} {c : CoreId} {isS : Bool} {t : Token} (h : LsReady c isS s t) (k : Core) :
    (s.setCore c k).here = k ∧ (s.setCore c k).fIsS = isS ∧ (s.setCore c k).fls = lsAgent isS
      ∧ ∀ f, (s.setCore c k).modHere f = s.setCore c (f k) := by
  have hf := h.1
  have hi : (s.setCore c k).fIsS = isS := by rw [State.fIsS, State.setCore_focus, hf]; cases isS <;> rfl
  refine ⟨by simp [State.here, hf], hi, by rw [State.fls, hi]; rfl, fun f => ?_⟩
  simp [State.modHere, State.modCore, hf]

/-- The core after the token pops: only queues differ, and the mark that they were made. -/
theorem Core.lsPop_eq (k : Core) (isS : Bool) (t : Token) :
    ∃ qs, k.popAll (tokPops (lsAgent isS) t) = { k with queues := qs }
      ∧ k.lsPop isS t = (k.popAll (tokPops (lsAgent isS) t)).setLs isS
          { (k.popAll (tokPops (lsAgent isS) t)).ls isS with popped := true }
      ∧ (k.lsPop isS t).ls isS = { k.ls isS with popped := true } := by
  obtain ⟨qs, hq⟩ := k.popAll_rest (tokPops (lsAgent isS) t)
  have e : k.lsPop isS t = (k.popAll (tokPops (lsAgent isS) t)).setLs isS
      { (k.popAll (tokPops (lsAgent isS) t)).ls isS with popped := true } := by cases isS <;> rfl
  refine ⟨qs, hq, e, ?_⟩
  rw [e, Core.setLs_ls, hq]
  cases isS <;> rfl

/-- A word that computes registers and chooses the next offset. -/
theorem State.lsJump_steps {s : State} {c : CoreId} {isS : Bool} {t : Token} (h : LsReady c isS s t) (target : LSeq → W64)
    (f : LSeq → LSeq) (htarget : ∀ q : LSeq, target { q with popped := true } = target q)
    (hfp : ∀ q : LSeq, f { q with popped := true } = { f q with popped := true })
    (hpend : (f ((s.core c).ls isS)).pend = ((s.core c).ls isS).pend) :
    LsSteps c isS s (.next (s.lsJump t target f)) t (target ((s.core c).ls isS)) (f ((s.core c).ls isS)) := by
  obtain ⟨qs, hq, el, ep⟩ := (s.core c).lsPop_eq isS t
  obtain ⟨-, h2, h3, h4⟩ := State.lsPops_focus h ((s.core c).lsPop isS t)
  rw [State.lsJump, State.lsPops_ready h, h4, h2, h3, ep, htarget, el]
  exact State.lsRetire_runs (sem := none) _ qs (s.core c).sync.sems (s.core c).sync.waiters true hq hfp hpend

/-- A word that only computes registers. -/
theorem State.lsOp_steps {s : State} {c : CoreId} {isS : Bool} {t : Token} (h : LsReady c isS s t) (f : LSeq → LSeq)
    (hfp : ∀ q : LSeq, f { q with popped := true } = { f q with popped := true })
    (hpend : (f ((s.core c).ls isS)).pend = ((s.core c).ls isS).pend) :
    LsSteps c isS s (.next (s.lsOp t f)) t (((s.core c).ls isS).pc + 4) (f ((s.core c).ls isS)) :=
  State.lsJump_steps h (fun q => q.pc + 4) f (fun _ => rfl) hfp hpend

end Sys2Proof.Machine
end

