-- ==== Sys2Proof/Laws/Mem.lean ====
section
/-! SUPPORT. Every operation on memory keeps its canonical form, and what a byte reads as after one write. -/

namespace Sys2Proof.Machine

open Sys2Proof

/-- A bound below the first address can be lowered. -/
theorem Mem.wfFrom_mono {m : Mem} {lo lo' : Nat} (h : lo' ≤ lo) (w : m.wfFrom lo = true) : m.wfFrom lo' = true := by
  cases m with
  | nil => rfl
  | cons p rest =>
    obtain ⟨x, b⟩ := p
    simp only [Mem.wfFrom, Bool.and_eq_true, decide_eq_true_eq] at w ⊢
    exact ⟨⟨by omega, w.1.2⟩, w.2⟩

/-- Entries taken away keep the canonical form. -/
theorem Mem.filter_wfFrom {m : Mem} {lo : Nat} (p : Host.Cell → Bool) (w : m.wfFrom lo = true) :
    Mem.wfFrom lo (m.filter p) = true := by
  induction m generalizing lo with
  | nil => rfl
  | cons q rest ih =>
    obtain ⟨x, b⟩ := q
    simp only [Mem.wfFrom, Bool.and_eq_true, decide_eq_true_eq] at w
    simp only [List.filter]
    split
    · simp only [Mem.wfFrom, Bool.and_eq_true, decide_eq_true_eq]; exact ⟨w.1, ih w.2⟩
    · exact Mem.wfFrom_mono (by omega) (ih w.2)

/-- An inserted byte keeps the canonical form of entries that leave its address free. -/
theorem Mem.insert_wfFrom {m : Mem} {lo a : Nat} {b : Byte} (hb : b ≠ 0) (w : m.wfFrom lo = true) (h : lo ≤ a)
    (free : ∀ p ∈ m, p.1 ≠ a) : (m.insert a b).wfFrom lo = true := by
  induction m generalizing lo with
  | nil => simp only [Mem.insert, Mem.wfFrom, Bool.and_true, Bool.and_eq_true, decide_eq_true_eq, bne_iff_ne]; exact ⟨h, hb⟩
  | cons p rest ih =>
    obtain ⟨x, c⟩ := p
    have hx : x ≠ a := free (x, c) (by simp)
    simp only [Mem.wfFrom, Bool.and_eq_true, decide_eq_true_eq] at w
    simp only [Mem.insert]
    split
    · simp only [Mem.wfFrom, Bool.and_eq_true, decide_eq_true_eq]
      exact ⟨w.1, ih w.2 (by omega) (fun q hq => free q (by simp [hq]))⟩
    · simp only [Mem.wfFrom, Bool.and_eq_true, decide_eq_true_eq, bne_iff_ne]
      exact ⟨⟨h, hb⟩, ⟨by omega, by simpa using w.1.2⟩, w.2⟩

/-- A write keeps the canonical form. -/
theorem Mem.write_wf {m : Mem} {a : Nat} (b : Byte) (w : m.wf = true) : (m.write a b).wf = true := by
  unfold Mem.write
  simp only []
  split
  · exact Mem.filter_wfFrom _ w
  · rename_i hb
    exact Mem.insert_wfFrom (by simpa using hb) (Mem.filter_wfFrom _ w) (Nat.zero_le _) (by simp)

/-- A write of bytes keeps the canonical form. -/
theorem Mem.writeN_wf {m : Mem} {a : Nat} (bs : List Byte) (w : m.wf = true) : (m.writeN a bs).wf = true := by
  induction bs generalizing m a with
  | nil => exact w
  | cons b bs ih => exact ih (Mem.write_wf b w)

/-- A clear keeps the canonical form. -/
theorem Mem.clear_wf {m : Mem} (lo hi : Nat) (w : m.wf = true) : (m.clear lo hi).wf = true := Mem.filter_wfFrom _ w

/-- Entries of other addresses taken away leave a byte as it is. -/
theorem Mem.read_filter (m : Mem) (p : Host.Cell → Bool) (x : Nat) (keep : ∀ c : Byte, p (x, c) = true) :
    Mem.read (m.filter p) x = m.read x := by
  induction m with
  | nil => rfl
  | cons q rest ih =>
    obtain ⟨y, c⟩ := q
    by_cases hy : y = x
    · subst hy; simp [List.filter, keep, Mem.read]
    · cases hp : p (y, c) <;> simp [List.filter, hp, Mem.read, hy, ih]

/-- A byte after an insertion at an address that no entry has. -/
theorem Mem.read_insert (m : Mem) (a : Nat) (b : Byte) (x : Nat) (free : ∀ p ∈ m, p.1 ≠ a) :
    (m.insert a b).read x = if x = a then b else m.read x := by
  induction m with
  | nil =>
    by_cases hx : x = a
    · subst hx; simp [Mem.insert, Mem.read]
    · have hx' : ¬ a = x := fun e => hx e.symm
      simp [Mem.insert, Mem.read, hx, hx']
  | cons q rest ih =>
    obtain ⟨y, c⟩ := q
    have hy : y ≠ a := free (y, c) (by simp)
    simp only [Mem.insert]
    split
    · by_cases hx : y = x
      · subst hx; simp [Mem.read, hy]
      · simp [Mem.read, hx, ih (fun p hp => free p (by simp [hp]))]
    · by_cases hx : x = a
      · subst hx; simp [Mem.read]
      · have hx' : ¬ a = x := fun e => hx e.symm
        simp [Mem.read, hx, hx']

/-- An address that no entry has reads as zero. -/
theorem Mem.read_free (m : Mem) (x : Nat) (free : ∀ p ∈ m, p.1 ≠ x) : m.read x = 0 := by
  induction m with
  | nil => rfl
  | cons q rest ih =>
    obtain ⟨y, c⟩ := q
    have hy : y ≠ x := free (y, c) (by simp)
    simp [Mem.read, hy, ih (fun p hp => free p (by simp [hp]))]

/-- A byte after one write, whatever the memory lists. -/
theorem Mem.read_write (m : Mem) (a : Nat) (b : Byte) (x : Nat) : (m.write a b).read x = if x = a then b else m.read x := by
  have others : x ≠ a → Mem.read (m.filter (fun p => p.1 != a)) x = m.read x := fun hx =>
    Mem.read_filter m _ x (by simp [hx])
  unfold Mem.write
  simp only []
  split
  · rename_i hb
    by_cases hx : x = a
    · subst hx
      simp only [if_true]
      rw [Mem.read_free _ _ (by simp)]
      exact (by simpa using hb : b = 0).symm
    · simp [hx, others hx]
  · rw [Mem.read_insert _ _ _ _ (by simp)]
    by_cases hx : x = a
    · simp [hx]
    · simp [hx, others hx]

/-- Both memories of `writeMem` keep the canonical form. -/
theorem State.writeMem_wf {s : State} (pa pm : Nat) (data : List Byte) (w : s.mem.wf = true) : (s.writeMem pa pm data).mem.wf = true := by
  unfold State.writeMem
  split
  · exact Mem.writeN_wf data w
  · exact w

end Sys2Proof.Machine
end

