-- ==== Sys2Proof/Laws/PerInstr.lean ====
section
/-! SUPPORT. The statements made instruction by instruction, one lemma for each constructor. -/

section

set_option Elab.async false
set_option linter.unusedSimpArgs false
set_option linter.unusedVariables false

namespace Sys2Proof.Laws.Encodes

open Sys2Proof

/-- The word of a well-formed instruction decodes to it in every section that holds it (R33 to R48). -/
def Statement (i : Instr) : Prop :=
  i.wf = true →
    match i.home with
    | .scalar => encode i < 2 ^ 32 ∧ decodeX (encode i) = .ok i
    | .loadStore => encode i < 2 ^ 32 ∧ decodeL (encode i) = .ok i ∧ decodeS (encode i) = .ok i
    | .load => encode i < 2 ^ 32 ∧ decodeL (encode i) = .ok i
    | .store => encode i < 2 ^ 32 ∧ decodeS (encode i) = .ok i
    | .compute => encode i < 2 ^ 31 ∧ decodeCWord (encode i) = .ok i
    | .device => True

/-! ### Words as lists of fields -/

/-- The number whose fields, lowest first, have these widths and values. -/
def cat : List (Nat × Nat) → Nat
  | [] => 0
  | (m, x) :: rest => cat rest * 2 ^ m + x

/-- Each value fits its width. -/
def Fits : List (Nat × Nat) → Prop
  | [] => True
  | (m, x) :: rest => x < 2 ^ m ∧ Fits rest

/-- Bits in all. -/
def width : List (Nat × Nat) → Nat
  | [] => 0
  | (m, _) :: rest => width rest + m

/-- A field that is made of whole fields of the list. -/
def pick : List (Nat × Nat) → Nat → Nat → Option Nat
  | [], _, _ => some 0
  | (m, x) :: rest, lo, n =>
    match lo with
    | 0 => if n < m then none else if n = m then some x else (pick rest 0 (n - m)).map (fun v => v * 2 ^ m + x)
    | lo + 1 => if lo + 1 < m then none else pick rest (lo + 1 - m) n

theorem cat_lt {l : List (Nat × Nat)} (h : Fits l) : cat l < 2 ^ width l := by
  induction l with
  | nil => simp [cat, width]
  | cons p rest ih =>
    obtain ⟨m, x⟩ := p
    have h1 := ih h.2
    have h2 : (cat rest + 1) * 2 ^ m ≤ 2 ^ width rest * 2 ^ m := Nat.mul_le_mul_right _ h1
    have h3 := h.1
    simp only [cat, width, Nat.pow_add]
    rw [Nat.add_mul] at h2
    omega

/-- What `pick` finds is the field of the word. -/
theorem field_cat {l : List (Nat × Nat)} (h : Fits l) : ∀ {lo n v : Nat}, pick l lo n = some v → field (cat l) lo n = v := by
  induction l with
  | nil => intro lo n v e; simp only [pick, Option.some.injEq] at e; simp [field, cat, ← e]
  | cons p rest ih =>
    obtain ⟨m, x⟩ := p
    intro lo n v e
    have hx := h.1
    have hp : 0 < 2 ^ m := Nat.two_pow_pos m
    have hdiv : (cat rest * 2 ^ m + x) / 2 ^ m = cat rest := by
      rw [Nat.mul_comm, Nat.mul_add_div hp, Nat.div_eq_of_lt hx, Nat.add_zero]
    cases lo with
    | zero =>
      simp only [pick] at e
      split at e
      · cases e
      · split at e
        · rename_i h1 h2
          cases e; subst h2
          simp [field, cat, Nat.mod_eq_of_lt hx]
        · rename_i h1 h2
          obtain ⟨u, hu, rfl⟩ := Option.map_eq_some_iff.mp e
          have := ih h.2 hu
          have hn : 2 ^ n = 2 ^ m * 2 ^ (n - m) := by rw [← Nat.pow_add]; congr 1; omega
          simp only [field, Nat.pow_zero, Nat.div_one, cat] at this ⊢
          rw [hn, Nat.mod_mul, hdiv, this]
          have hm : (cat rest * 2 ^ m + x) % 2 ^ m = x := by
            rw [Nat.mul_comm, Nat.mul_add_mod, Nat.mod_eq_of_lt hx]
          rw [hm, Nat.mul_comm, Nat.add_comm]
    | succ lo =>
      simp only [pick] at e
      split at e
      · cases e
      · rename_i h1
        have := ih h.2 e
        have hn : 2 ^ (lo + 1) = 2 ^ m * 2 ^ (lo + 1 - m) := by rw [← Nat.pow_add]; congr 1; omega
        simp only [field, cat] at this ⊢
        rw [hn, ← Nat.div_div_eq_div_mul, hdiv, this]

theorem lt_of {x n : Nat} (h : x < n) : x < n := h

/-! ### From the word to the statement -/

theorem ofScalar {i : Instr} (l : List (Nat × Nat)) (h : i.home = .scalar) (o : Fits l) (n : width l = 32) (e : encode i = cat l)
    (r : ∀ w, (∀ lo n v, pick l lo n = some v → field w lo n = v) → i.wf = true → decodeX w = .ok i) : Statement i := by
  intro wf
  rw [h, e]
  exact ⟨n ▸ cat_lt o, r _ (fun lo n v => field_cat o) wf⟩
theorem ofLoadStore {i : Instr} (l : List (Nat × Nat)) (h : i.home = .loadStore) (o : Fits l) (n : width l = 32) (e : encode i = cat l)
    (r : ∀ w, (∀ lo n v, pick l lo n = some v → field w lo n = v) → i.wf = true → decodeL w = .ok i ∧ decodeS w = .ok i) : Statement i := by
  intro wf
  rw [h, e]
  exact ⟨n ▸ cat_lt o, r _ (fun lo n v => field_cat o) wf⟩
theorem ofLoad {i : Instr} (l : List (Nat × Nat)) (h : i.home = .load) (o : Fits l) (n : width l = 32) (e : encode i = cat l)
    (r : ∀ w, (∀ lo n v, pick l lo n = some v → field w lo n = v) → i.wf = true → decodeL w = .ok i) : Statement i := by
  intro wf
  rw [h, e]
  exact ⟨n ▸ cat_lt o, r _ (fun lo n v => field_cat o) wf⟩
theorem ofStore {i : Instr} (l : List (Nat × Nat)) (h : i.home = .store) (o : Fits l) (n : width l = 32) (e : encode i = cat l)
    (r : ∀ w, (∀ lo n v, pick l lo n = some v → field w lo n = v) → i.wf = true → decodeS w = .ok i) : Statement i := by
  intro wf
  rw [h, e]
  exact ⟨n ▸ cat_lt o, r _ (fun lo n v => field_cat o) wf⟩
theorem ofCompute {i : Instr} (l : List (Nat × Nat)) (h : i.home = .compute) (o : Fits l) (n : width l = 31) (e : encode i = cat l)
    (r : ∀ w, (∀ lo n v, pick l lo n = some v → field w lo n = v) → i.wf = true → decodeCWord w = .ok i) : Statement i := by
  intro wf
  rw [h, e]
  exact ⟨n ▸ cat_lt o, r _ (fun lo n v => field_cat o) wf⟩

/-! ### Fields and codes -/

theorem bvField_of {n w lo : Nat} {x : BitVec n} (h : field w lo n = x.toNat) : bvField n w lo = x := by
  apply BitVec.eq_of_toNat_eq
  simpa [bvField, field] using h

theorem bitField_of {w i : Nat} {b : Bool} (h : field w i 1 = bitCode b) : bitField w i = b := by
  simp only [field, Nat.pow_one] at h
  cases b <;> simp [bitField, h, bitCode]

theorem toNat_ne {n : Nat} {x : BitVec n} (h : (x != 0) = true) : x.toNat ≠ 0 := by
  intro e
  have : x = 0#n := BitVec.eq_of_toNat_eq (by simpa using e)
  simp [this] at h

theorem ne_zero {n : Nat} {x : BitVec n} (h : (x != 0) = true) : ¬ x = 0#n := by
  intro e
  simp [e] at h

theorem bitCode_lt (b : Bool) : bitCode b < 2 := by cases b <;> decide
theorem guardCode_lt (g : Guard) : guardCode g < 16 := by
  cases g with
  | none => decide
  | some g => have := g.isLt; simp [guardCode]; omega
@[simp] theorem guardOfCode_code (g : Guard) : guardOfCode (guardCode g) = some g := by
  cases g with
  | none => rfl
  | some g =>
    have := g.isLt
    have h2 : BitVec.ofNat 3 (8 + g.toNat) = g := by apply BitVec.eq_of_toNat_eq; simp; omega
    have h3 : (g.toNat / 8 + 1) % 2 = 1 := by omega
    simp [guardOfCode, guardCode, h2, h3]

end Sys2Proof.Laws.Encodes

namespace Sys2Proof

theorem VMod.code_lt (m : VMod) : m.code < 16 := by
  cases m with
  | plain => decide
  | mask k => have := k.isLt; simp [VMod.code]; omega
  | guard g => have := g.isLt; simp [VMod.code]; omega
theorem VMod.ofCode_code {m : VMod} (h : m.wf = true) : VMod.ofCode m.code = m := by
  cases m with
  | plain => rfl
  | mask k =>
    have := k.isLt
    have h0 : k.toNat ≠ 0 := by
      intro e
      have : k = 0#3 := BitVec.eq_of_toNat_eq e
      simp [VMod.wf, this] at h
    have h1 : ¬ k.toNat / 8 % 2 = 1 := by omega
    have h2 : ¬ k.toNat % 8 = 0 := by omega
    simp [VMod.ofCode, VMod.code, h1, h2]
  | guard g =>
    have := g.isLt
    have h2 : BitVec.ofNat 3 (8 + g.toNat) = g := by apply BitVec.eq_of_toNat_eq; simp; omega
    have h3 : (g.toNat / 8 + 1) % 2 = 1 := by omega
    simp [VMod.ofCode, VMod.code, h2, h3]
theorem VMod.wf_of_wfFor {m : VMod} {f : Fmt} (h : m.wfFor f = true) : m.wf = true := by
  cases m with
  | plain => rfl
  | mask k => simp only [VMod.wfFor, Bool.and_eq_true] at h; exact h.1
  | guard g => rfl
theorem Hint.code_lt (x : Hint) : x.code < 4 := by cases x <;> decide
@[simp] theorem Hint.ofCode_code (x : Hint) : Hint.ofCode x.code = x := by cases x <;> rfl
theorem Scope.code_lt (x : Scope) : x.code < 4 := by cases x <;> decide
@[simp] theorem Scope.ofCode_code (x : Scope) : Scope.ofCode x.code = x := by cases x <;> rfl
theorem Peer.code_lt (x : Peer) : x.code < 4 := by cases x <;> decide
@[simp] theorem Peer.ofCode_code (x : Peer) : Peer.ofCode x.code = some x := by cases x <;> rfl
theorem Fmt.code_lt (x : Fmt) : x.code < 16 := by cases x <;> decide
@[simp] theorem Fmt.ofCode_code (x : Fmt) : Fmt.ofCode x.code = some x := by cases x <;> rfl
theorem Rnd.code_lt (x : Rnd) : x.code < 8 := by cases x <;> decide
@[simp] theorem Rnd.ofCode_code (x : Rnd) : Rnd.ofCode x.code = some x := by cases x <;> rfl
theorem Cond.code_lt (x : Cond) : x.code < 16 := by cases x <;> decide
@[simp] theorem Cond.ofCode_code (x : Cond) : Cond.ofCode x.code = some x := by cases x <;> rfl
theorem RedOp.code_lt (x : RedOp) : x.code < 8 := by cases x <;> decide
@[simp] theorem RedOp.ofCode_code (x : RedOp) : RedOp.ofCode x.code = x := by cases x <;> rfl
theorem AtomOp.code_lt (x : AtomOp) : x.code < 8 := by cases x <;> decide
@[simp] theorem AtomOp.ofCode_code (x : AtomOp) : AtomOp.ofCode x.code = x := by cases x <;> rfl
theorem AtomOrd.code_lt (x : AtomOrd) : x.code < 4 := by cases x <;> decide
@[simp] theorem AtomOrd.ofCode_code (x : AtomOrd) : AtomOrd.ofCode x.code = x := by cases x <;> rfl
theorem AccOp.code_lt (x : AccOp) : x.code < 4 := by cases x <;> decide
@[simp] theorem AccOp.ofCode_code (x : AccOp) : AccOp.ofCode x.code = some x := by cases x <;> rfl
theorem AccFmt.code_lt (x : AccFmt) : x.code < 4 := by cases x <;> decide
@[simp] theorem AccFmt.ofCode_code (x : AccFmt) : AccFmt.ofCode x.code = some x := by cases x <;> rfl
theorem TileFmt.code_lt (x : TileFmt) : x.code < 4 := by cases x <;> decide
@[simp] theorem TileFmt.ofCode_code (x : TileFmt) : TileFmt.ofCode x.code = some x := by cases x <;> rfl
end Sys2Proof


namespace Sys2Proof.Laws.Encodes

open Sys2Proof

theorem xAdd (d : BitVec 5) (a : BitVec 5) (b : BitVec 5) : Statement (.xAdd d a b) := by
  refine ofScalar [(6, 1), (5, 0), (5, b.toNat), (5, a.toNat), (5, d.toNat), (6, 0)] rfl ⟨by decide, by decide, lt_of (b.isLt), lt_of (a.isLt), lt_of (d.isLt), by decide, trivial⟩ rfl (by show encXR 0x00 d a b 0 0x1 = _; simp only [cat, encXR, BitVec.ofNat_eq_ofNat, BitVec.toNat_ofNat]; try omega) fun z pk _ => ?_
  have b11_5 : bvField 5 z 11 = b := bvField_of (pk _ _ _ rfl)
  have b16_5 : bvField 5 z 16 = a := bvField_of (pk _ _ _ rfl)
  have b21_5 : bvField 5 z 21 = d := bvField_of (pk _ _ _ rfl)
  have f0_6 : field z 0 6 = 1 := pk _ _ _ rfl
  have f6_5 : field z 6 5 = 0 := pk _ _ _ rfl
  have f26_6 : field z 26 6 = 0 := pk _ _ _ rfl
  simp [accept, decodeX, decodeXAlu, b11_5, b16_5, b21_5, f0_6, f6_5, f26_6]

theorem xSub (d : BitVec 5) (a : BitVec 5) (b : BitVec 5) : Statement (.xSub d a b) := by
  refine ofScalar [(6, 2), (5, 0), (5, b.toNat), (5, a.toNat), (5, d.toNat), (6, 0)] rfl ⟨by decide, by decide, lt_of (b.isLt), lt_of (a.isLt), lt_of (d.isLt), by decide, trivial⟩ rfl (by show encXR 0x00 d a b 0 0x2 = _; simp only [cat, encXR, BitVec.ofNat_eq_ofNat, BitVec.toNat_ofNat]; try omega) fun z pk _ => ?_
  have b11_5 : bvField 5 z 11 = b := bvField_of (pk _ _ _ rfl)
  have b16_5 : bvField 5 z 16 = a := bvField_of (pk _ _ _ rfl)
  have b21_5 : bvField 5 z 21 = d := bvField_of (pk _ _ _ rfl)
  have f0_6 : field z 0 6 = 2 := pk _ _ _ rfl
  have f6_5 : field z 6 5 = 0 := pk _ _ _ rfl
  have f26_6 : field z 26 6 = 0 := pk _ _ _ rfl
  simp [accept, decodeX, decodeXAlu, b11_5, b16_5, b21_5, f0_6, f6_5, f26_6]

theorem xAnd (d : BitVec 5) (a : BitVec 5) (b : BitVec 5) : Statement (.xAnd d a b) := by
  refine ofScalar [(6, 3), (5, 0), (5, b.toNat), (5, a.toNat), (5, d.toNat), (6, 0)] rfl ⟨by decide, by decide, lt_of (b.isLt), lt_of (a.isLt), lt_of (d.isLt), by decide, trivial⟩ rfl (by show encXR 0x00 d a b 0 0x3 = _; simp only [cat, encXR, BitVec.ofNat_eq_ofNat, BitVec.toNat_ofNat]; try omega) fun z pk _ => ?_
  have b11_5 : bvField 5 z 11 = b := bvField_of (pk _ _ _ rfl)
  have b16_5 : bvField 5 z 16 = a := bvField_of (pk _ _ _ rfl)
  have b21_5 : bvField 5 z 21 = d := bvField_of (pk _ _ _ rfl)
  have f0_6 : field z 0 6 = 3 := pk _ _ _ rfl
  have f6_5 : field z 6 5 = 0 := pk _ _ _ rfl
  have f26_6 : field z 26 6 = 0 := pk _ _ _ rfl
  simp [accept, decodeX, decodeXAlu, b11_5, b16_5, b21_5, f0_6, f6_5, f26_6]

theorem xOr (d : BitVec 5) (a : BitVec 5) (b : BitVec 5) : Statement (.xOr d a b) := by
  refine ofScalar [(6, 4), (5, 0), (5, b.toNat), (5, a.toNat), (5, d.toNat), (6, 0)] rfl ⟨by decide, by decide, lt_of (b.isLt), lt_of (a.isLt), lt_of (d.isLt), by decide, trivial⟩ rfl (by show encXR 0x00 d a b 0 0x4 = _; simp only [cat, encXR, BitVec.ofNat_eq_ofNat, BitVec.toNat_ofNat]; try omega) fun z pk _ => ?_
  have b11_5 : bvField 5 z 11 = b := bvField_of (pk _ _ _ rfl)
  have b16_5 : bvField 5 z 16 = a := bvField_of (pk _ _ _ rfl)
  have b21_5 : bvField 5 z 21 = d := bvField_of (pk _ _ _ rfl)
  have f0_6 : field z 0 6 = 4 := pk _ _ _ rfl
  have f6_5 : field z 6 5 = 0 := pk _ _ _ rfl
  have f26_6 : field z 26 6 = 0 := pk _ _ _ rfl
  simp [accept, decodeX, decodeXAlu, b11_5, b16_5, b21_5, f0_6, f6_5, f26_6]

theorem xXor (d : BitVec 5) (a : BitVec 5) (b : BitVec 5) : Statement (.xXor d a b) := by
  refine ofScalar [(6, 5), (5, 0), (5, b.toNat), (5, a.toNat), (5, d.toNat), (6, 0)] rfl ⟨by decide, by decide, lt_of (b.isLt), lt_of (a.isLt), lt_of (d.isLt), by decide, trivial⟩ rfl (by show encXR 0x00 d a b 0 0x5 = _; simp only [cat, encXR, BitVec.ofNat_eq_ofNat, BitVec.toNat_ofNat]; try omega) fun z pk _ => ?_
  have b11_5 : bvField 5 z 11 = b := bvField_of (pk _ _ _ rfl)
  have b16_5 : bvField 5 z 16 = a := bvField_of (pk _ _ _ rfl)
  have b21_5 : bvField 5 z 21 = d := bvField_of (pk _ _ _ rfl)
  have f0_6 : field z 0 6 = 5 := pk _ _ _ rfl
  have f6_5 : field z 6 5 = 0 := pk _ _ _ rfl
  have f26_6 : field z 26 6 = 0 := pk _ _ _ rfl
  simp [accept, decodeX, decodeXAlu, b11_5, b16_5, b21_5, f0_6, f6_5, f26_6]

theorem xAndn (d : BitVec 5) (a : BitVec 5) (b : BitVec 5) : Statement (.xAndn d a b) := by
  refine ofScalar [(6, 6), (5, 0), (5, b.toNat), (5, a.toNat), (5, d.toNat), (6, 0)] rfl ⟨by decide, by decide, lt_of (b.isLt), lt_of (a.isLt), lt_of (d.isLt), by decide, trivial⟩ rfl (by show encXR 0x00 d a b 0 0x6 = _; simp only [cat, encXR, BitVec.ofNat_eq_ofNat, BitVec.toNat_ofNat]; try omega) fun z pk _ => ?_
  have b11_5 : bvField 5 z 11 = b := bvField_of (pk _ _ _ rfl)
  have b16_5 : bvField 5 z 16 = a := bvField_of (pk _ _ _ rfl)
  have b21_5 : bvField 5 z 21 = d := bvField_of (pk _ _ _ rfl)
  have f0_6 : field z 0 6 = 6 := pk _ _ _ rfl
  have f6_5 : field z 6 5 = 0 := pk _ _ _ rfl
  have f26_6 : field z 26 6 = 0 := pk _ _ _ rfl
  simp [accept, decodeX, decodeXAlu, b11_5, b16_5, b21_5, f0_6, f6_5, f26_6]

theorem xSll (d : BitVec 5) (a : BitVec 5) (b : BitVec 5) : Statement (.xSll d a b) := by
  refine ofScalar [(6, 7), (5, 0), (5, b.toNat), (5, a.toNat), (5, d.toNat), (6, 0)] rfl ⟨by decide, by decide, lt_of (b.isLt), lt_of (a.isLt), lt_of (d.isLt), by decide, trivial⟩ rfl (by show encXR 0x00 d a b 0 0x7 = _; simp only [cat, encXR, BitVec.ofNat_eq_ofNat, BitVec.toNat_ofNat]; try omega) fun z pk _ => ?_
  have b11_5 : bvField 5 z 11 = b := bvField_of (pk _ _ _ rfl)
  have b16_5 : bvField 5 z 16 = a := bvField_of (pk _ _ _ rfl)
  have b21_5 : bvField 5 z 21 = d := bvField_of (pk _ _ _ rfl)
  have f0_6 : field z 0 6 = 7 := pk _ _ _ rfl
  have f6_5 : field z 6 5 = 0 := pk _ _ _ rfl
  have f26_6 : field z 26 6 = 0 := pk _ _ _ rfl
  simp [accept, decodeX, decodeXAlu, b11_5, b16_5, b21_5, f0_6, f6_5, f26_6]

theorem xSrl (d : BitVec 5) (a : BitVec 5) (b : BitVec 5) : Statement (.xSrl d a b) := by
  refine ofScalar [(6, 8), (5, 0), (5, b.toNat), (5, a.toNat), (5, d.toNat), (6, 0)] rfl ⟨by decide, by decide, lt_of (b.isLt), lt_of (a.isLt), lt_of (d.isLt), by decide, trivial⟩ rfl (by show encXR 0x00 d a b 0 0x8 = _; simp only [cat, encXR, BitVec.ofNat_eq_ofNat, BitVec.toNat_ofNat]; try omega) fun z pk _ => ?_
  have b11_5 : bvField 5 z 11 = b := bvField_of (pk _ _ _ rfl)
  have b16_5 : bvField 5 z 16 = a := bvField_of (pk _ _ _ rfl)
  have b21_5 : bvField 5 z 21 = d := bvField_of (pk _ _ _ rfl)
  have f0_6 : field z 0 6 = 8 := pk _ _ _ rfl
  have f6_5 : field z 6 5 = 0 := pk _ _ _ rfl
  have f26_6 : field z 26 6 = 0 := pk _ _ _ rfl
  simp [accept, decodeX, decodeXAlu, b11_5, b16_5, b21_5, f0_6, f6_5, f26_6]

theorem xSra (d : BitVec 5) (a : BitVec 5) (b : BitVec 5) : Statement (.xSra d a b) := by
  refine ofScalar [(6, 9), (5, 0), (5, b.toNat), (5, a.toNat), (5, d.toNat), (6, 0)] rfl ⟨by decide, by decide, lt_of (b.isLt), lt_of (a.isLt), lt_of (d.isLt), by decide, trivial⟩ rfl (by show encXR 0x00 d a b 0 0x9 = _; simp only [cat, encXR, BitVec.ofNat_eq_ofNat, BitVec.toNat_ofNat]; try omega) fun z pk _ => ?_
  have b11_5 : bvField 5 z 11 = b := bvField_of (pk _ _ _ rfl)
  have b16_5 : bvField 5 z 16 = a := bvField_of (pk _ _ _ rfl)
  have b21_5 : bvField 5 z 21 = d := bvField_of (pk _ _ _ rfl)
  have f0_6 : field z 0 6 = 9 := pk _ _ _ rfl
  have f6_5 : field z 6 5 = 0 := pk _ _ _ rfl
  have f26_6 : field z 26 6 = 0 := pk _ _ _ rfl
  simp [accept, decodeX, decodeXAlu, b11_5, b16_5, b21_5, f0_6, f6_5, f26_6]

theorem xSlt (d : BitVec 5) (a : BitVec 5) (b : BitVec 5) : Statement (.xSlt d a b) := by
  refine ofScalar [(6, 10), (5, 0), (5, b.toNat), (5, a.toNat), (5, d.toNat), (6, 0)] rfl ⟨by decide, by decide, lt_of (b.isLt), lt_of (a.isLt), lt_of (d.isLt), by decide, trivial⟩ rfl (by show encXR 0x00 d a b 0 0xa = _; simp only [cat, encXR, BitVec.ofNat_eq_ofNat, BitVec.toNat_ofNat]; try omega) fun z pk _ => ?_
  have b11_5 : bvField 5 z 11 = b := bvField_of (pk _ _ _ rfl)
  have b16_5 : bvField 5 z 16 = a := bvField_of (pk _ _ _ rfl)
  have b21_5 : bvField 5 z 21 = d := bvField_of (pk _ _ _ rfl)
  have f0_6 : field z 0 6 = 10 := pk _ _ _ rfl
  have f6_5 : field z 6 5 = 0 := pk _ _ _ rfl
  have f26_6 : field z 26 6 = 0 := pk _ _ _ rfl
  simp [accept, decodeX, decodeXAlu, b11_5, b16_5, b21_5, f0_6, f6_5, f26_6]

theorem xSltu (d : BitVec 5) (a : BitVec 5) (b : BitVec 5) : Statement (.xSltu d a b) := by
  refine ofScalar [(6, 11), (5, 0), (5, b.toNat), (5, a.toNat), (5, d.toNat), (6, 0)] rfl ⟨by decide, by decide, lt_of (b.isLt), lt_of (a.isLt), lt_of (d.isLt), by decide, trivial⟩ rfl (by show encXR 0x00 d a b 0 0xb = _; simp only [cat, encXR, BitVec.ofNat_eq_ofNat, BitVec.toNat_ofNat]; try omega) fun z pk _ => ?_
  have b11_5 : bvField 5 z 11 = b := bvField_of (pk _ _ _ rfl)
  have b16_5 : bvField 5 z 16 = a := bvField_of (pk _ _ _ rfl)
  have b21_5 : bvField 5 z 21 = d := bvField_of (pk _ _ _ rfl)
  have f0_6 : field z 0 6 = 11 := pk _ _ _ rfl
  have f6_5 : field z 6 5 = 0 := pk _ _ _ rfl
  have f26_6 : field z 26 6 = 0 := pk _ _ _ rfl
  simp [accept, decodeX, decodeXAlu, b11_5, b16_5, b21_5, f0_6, f6_5, f26_6]

theorem xSeq (d : BitVec 5) (a : BitVec 5) (b : BitVec 5) : Statement (.xSeq d a b) := by
  refine ofScalar [(6, 12), (5, 0), (5, b.toNat), (5, a.toNat), (5, d.toNat), (6, 0)] rfl ⟨by decide, by decide, lt_of (b.isLt), lt_of (a.isLt), lt_of (d.isLt), by decide, trivial⟩ rfl (by show encXR 0x00 d a b 0 0xc = _; simp only [cat, encXR, BitVec.ofNat_eq_ofNat, BitVec.toNat_ofNat]; try omega) fun z pk _ => ?_
  have b11_5 : bvField 5 z 11 = b := bvField_of (pk _ _ _ rfl)
  have b16_5 : bvField 5 z 16 = a := bvField_of (pk _ _ _ rfl)
  have b21_5 : bvField 5 z 21 = d := bvField_of (pk _ _ _ rfl)
  have f0_6 : field z 0 6 = 12 := pk _ _ _ rfl
  have f6_5 : field z 6 5 = 0 := pk _ _ _ rfl
  have f26_6 : field z 26 6 = 0 := pk _ _ _ rfl
  simp [accept, decodeX, decodeXAlu, b11_5, b16_5, b21_5, f0_6, f6_5, f26_6]

theorem xSne (d : BitVec 5) (a : BitVec 5) (b : BitVec 5) : Statement (.xSne d a b) := by
  refine ofScalar [(6, 13), (5, 0), (5, b.toNat), (5, a.toNat), (5, d.toNat), (6, 0)] rfl ⟨by decide, by decide, lt_of (b.isLt), lt_of (a.isLt), lt_of (d.isLt), by decide, trivial⟩ rfl (by show encXR 0x00 d a b 0 0xd = _; simp only [cat, encXR, BitVec.ofNat_eq_ofNat, BitVec.toNat_ofNat]; try omega) fun z pk _ => ?_
  have b11_5 : bvField 5 z 11 = b := bvField_of (pk _ _ _ rfl)
  have b16_5 : bvField 5 z 16 = a := bvField_of (pk _ _ _ rfl)
  have b21_5 : bvField 5 z 21 = d := bvField_of (pk _ _ _ rfl)
  have f0_6 : field z 0 6 = 13 := pk _ _ _ rfl
  have f6_5 : field z 6 5 = 0 := pk _ _ _ rfl
  have f26_6 : field z 26 6 = 0 := pk _ _ _ rfl
  simp [accept, decodeX, decodeXAlu, b11_5, b16_5, b21_5, f0_6, f6_5, f26_6]

theorem xMin (d : BitVec 5) (a : BitVec 5) (b : BitVec 5) : Statement (.xMin d a b) := by
  refine ofScalar [(6, 14), (5, 0), (5, b.toNat), (5, a.toNat), (5, d.toNat), (6, 0)] rfl ⟨by decide, by decide, lt_of (b.isLt), lt_of (a.isLt), lt_of (d.isLt), by decide, trivial⟩ rfl (by show encXR 0x00 d a b 0 0xe = _; simp only [cat, encXR, BitVec.ofNat_eq_ofNat, BitVec.toNat_ofNat]; try omega) fun z pk _ => ?_
  have b11_5 : bvField 5 z 11 = b := bvField_of (pk _ _ _ rfl)
  have b16_5 : bvField 5 z 16 = a := bvField_of (pk _ _ _ rfl)
  have b21_5 : bvField 5 z 21 = d := bvField_of (pk _ _ _ rfl)
  have f0_6 : field z 0 6 = 14 := pk _ _ _ rfl
  have f6_5 : field z 6 5 = 0 := pk _ _ _ rfl
  have f26_6 : field z 26 6 = 0 := pk _ _ _ rfl
  simp [accept, decodeX, decodeXAlu, b11_5, b16_5, b21_5, f0_6, f6_5, f26_6]

theorem xMax (d : BitVec 5) (a : BitVec 5) (b : BitVec 5) : Statement (.xMax d a b) := by
  refine ofScalar [(6, 15), (5, 0), (5, b.toNat), (5, a.toNat), (5, d.toNat), (6, 0)] rfl ⟨by decide, by decide, lt_of (b.isLt), lt_of (a.isLt), lt_of (d.isLt), by decide, trivial⟩ rfl (by show encXR 0x00 d a b 0 0xf = _; simp only [cat, encXR, BitVec.ofNat_eq_ofNat, BitVec.toNat_ofNat]; try omega) fun z pk _ => ?_
  have b11_5 : bvField 5 z 11 = b := bvField_of (pk _ _ _ rfl)
  have b16_5 : bvField 5 z 16 = a := bvField_of (pk _ _ _ rfl)
  have b21_5 : bvField 5 z 21 = d := bvField_of (pk _ _ _ rfl)
  have f0_6 : field z 0 6 = 15 := pk _ _ _ rfl
  have f6_5 : field z 6 5 = 0 := pk _ _ _ rfl
  have f26_6 : field z 26 6 = 0 := pk _ _ _ rfl
  simp [accept, decodeX, decodeXAlu, b11_5, b16_5, b21_5, f0_6, f6_5, f26_6]

theorem xMinu (d : BitVec 5) (a : BitVec 5) (b : BitVec 5) : Statement (.xMinu d a b) := by
  refine ofScalar [(6, 16), (5, 0), (5, b.toNat), (5, a.toNat), (5, d.toNat), (6, 0)] rfl ⟨by decide, by decide, lt_of (b.isLt), lt_of (a.isLt), lt_of (d.isLt), by decide, trivial⟩ rfl (by show encXR 0x00 d a b 0 0x10 = _; simp only [cat, encXR, BitVec.ofNat_eq_ofNat, BitVec.toNat_ofNat]; try omega) fun z pk _ => ?_
  have b11_5 : bvField 5 z 11 = b := bvField_of (pk _ _ _ rfl)
  have b16_5 : bvField 5 z 16 = a := bvField_of (pk _ _ _ rfl)
  have b21_5 : bvField 5 z 21 = d := bvField_of (pk _ _ _ rfl)
  have f0_6 : field z 0 6 = 16 := pk _ _ _ rfl
  have f6_5 : field z 6 5 = 0 := pk _ _ _ rfl
  have f26_6 : field z 26 6 = 0 := pk _ _ _ rfl
  simp [accept, decodeX, decodeXAlu, b11_5, b16_5, b21_5, f0_6, f6_5, f26_6]

theorem xMaxu (d : BitVec 5) (a : BitVec 5) (b : BitVec 5) : Statement (.xMaxu d a b) := by
  refine ofScalar [(6, 17), (5, 0), (5, b.toNat), (5, a.toNat), (5, d.toNat), (6, 0)] rfl ⟨by decide, by decide, lt_of (b.isLt), lt_of (a.isLt), lt_of (d.isLt), by decide, trivial⟩ rfl (by show encXR 0x00 d a b 0 0x11 = _; simp only [cat, encXR, BitVec.ofNat_eq_ofNat, BitVec.toNat_ofNat]; try omega) fun z pk _ => ?_
  have b11_5 : bvField 5 z 11 = b := bvField_of (pk _ _ _ rfl)
  have b16_5 : bvField 5 z 16 = a := bvField_of (pk _ _ _ rfl)
  have b21_5 : bvField 5 z 21 = d := bvField_of (pk _ _ _ rfl)
  have f0_6 : field z 0 6 = 17 := pk _ _ _ rfl
  have f6_5 : field z 6 5 = 0 := pk _ _ _ rfl
  have f26_6 : field z 26 6 = 0 := pk _ _ _ rfl
  simp [accept, decodeX, decodeXAlu, b11_5, b16_5, b21_5, f0_6, f6_5, f26_6]

theorem xSel (d : BitVec 5) (a : BitVec 5) (b : BitVec 5) (c : BitVec 5) : Statement (.xSel d a b c) := by
  refine ofScalar [(6, 18), (5, c.toNat), (5, b.toNat), (5, a.toNat), (5, d.toNat), (6, 0)] rfl ⟨by decide, lt_of (c.isLt), lt_of (b.isLt), lt_of (a.isLt), lt_of (d.isLt), by decide, trivial⟩ rfl (by show encXR 0x00 d a b c 0x12 = _; simp only [cat, encXR]; try omega) fun z pk _ => ?_
  have b6_5 : bvField 5 z 6 = c := bvField_of (pk _ _ _ rfl)
  have b11_5 : bvField 5 z 11 = b := bvField_of (pk _ _ _ rfl)
  have b16_5 : bvField 5 z 16 = a := bvField_of (pk _ _ _ rfl)
  have b21_5 : bvField 5 z 21 = d := bvField_of (pk _ _ _ rfl)
  have f0_6 : field z 0 6 = 18 := pk _ _ _ rfl
  have f26_6 : field z 26 6 = 0 := pk _ _ _ rfl
  simp [decodeX, decodeXAlu, b6_5, b11_5, b16_5, b21_5, f0_6, f26_6]

theorem xClz (d : BitVec 5) (a : BitVec 5) : Statement (.xClz d a) := by
  refine ofScalar [(6, 19), (10, 0), (5, a.toNat), (5, d.toNat), (6, 0)] rfl ⟨by decide, by decide, lt_of (a.isLt), lt_of (d.isLt), by decide, trivial⟩ rfl (by show encXR 0x00 d a 0 0 0x13 = _; simp only [cat, encXR, BitVec.ofNat_eq_ofNat, BitVec.toNat_ofNat]; try omega) fun z pk _ => ?_
  have b16_5 : bvField 5 z 16 = a := bvField_of (pk _ _ _ rfl)
  have b21_5 : bvField 5 z 21 = d := bvField_of (pk _ _ _ rfl)
  have f0_6 : field z 0 6 = 19 := pk _ _ _ rfl
  have f6_10 : field z 6 10 = 0 := pk _ _ _ rfl
  have f26_6 : field z 26 6 = 0 := pk _ _ _ rfl
  simp [accept, decodeX, decodeXAlu, b16_5, b21_5, f0_6, f6_10, f26_6]

theorem xCtz (d : BitVec 5) (a : BitVec 5) : Statement (.xCtz d a) := by
  refine ofScalar [(6, 20), (10, 0), (5, a.toNat), (5, d.toNat), (6, 0)] rfl ⟨by decide, by decide, lt_of (a.isLt), lt_of (d.isLt), by decide, trivial⟩ rfl (by show encXR 0x00 d a 0 0 0x14 = _; simp only [cat, encXR, BitVec.ofNat_eq_ofNat, BitVec.toNat_ofNat]; try omega) fun z pk _ => ?_
  have b16_5 : bvField 5 z 16 = a := bvField_of (pk _ _ _ rfl)
  have b21_5 : bvField 5 z 21 = d := bvField_of (pk _ _ _ rfl)
  have f0_6 : field z 0 6 = 20 := pk _ _ _ rfl
  have f6_10 : field z 6 10 = 0 := pk _ _ _ rfl
  have f26_6 : field z 26 6 = 0 := pk _ _ _ rfl
  simp [accept, decodeX, decodeXAlu, b16_5, b21_5, f0_6, f6_10, f26_6]

theorem xPopc (d : BitVec 5) (a : BitVec 5) : Statement (.xPopc d a) := by
  refine ofScalar [(6, 21), (10, 0), (5, a.toNat), (5, d.toNat), (6, 0)] rfl ⟨by decide, by decide, lt_of (a.isLt), lt_of (d.isLt), by decide, trivial⟩ rfl (by show encXR 0x00 d a 0 0 0x15 = _; simp only [cat, encXR, BitVec.ofNat_eq_ofNat, BitVec.toNat_ofNat]; try omega) fun z pk _ => ?_
  have b16_5 : bvField 5 z 16 = a := bvField_of (pk _ _ _ rfl)
  have b21_5 : bvField 5 z 21 = d := bvField_of (pk _ _ _ rfl)
  have f0_6 : field z 0 6 = 21 := pk _ _ _ rfl
  have f6_10 : field z 6 10 = 0 := pk _ _ _ rfl
  have f26_6 : field z 26 6 = 0 := pk _ _ _ rfl
  simp [accept, decodeX, decodeXAlu, b16_5, b21_5, f0_6, f6_10, f26_6]

theorem xMul (d : BitVec 5) (a : BitVec 5) (b : BitVec 5) : Statement (.xMul d a b) := by
  refine ofScalar [(6, 1), (5, 0), (5, b.toNat), (5, a.toNat), (5, d.toNat), (6, 1)] rfl ⟨by decide, by decide, lt_of (b.isLt), lt_of (a.isLt), lt_of (d.isLt), by decide, trivial⟩ rfl (by show encXR 0x01 d a b 0 0x1 = _; simp only [cat, encXR, BitVec.ofNat_eq_ofNat, BitVec.toNat_ofNat]; try omega) fun z pk _ => ?_
  have b11_5 : bvField 5 z 11 = b := bvField_of (pk _ _ _ rfl)
  have b16_5 : bvField 5 z 16 = a := bvField_of (pk _ _ _ rfl)
  have b21_5 : bvField 5 z 21 = d := bvField_of (pk _ _ _ rfl)
  have f0_6 : field z 0 6 = 1 := pk _ _ _ rfl
  have f6_5 : field z 6 5 = 0 := pk _ _ _ rfl
  have f26_6 : field z 26 6 = 1 := pk _ _ _ rfl
  simp [accept, decodeX, decodeXMul, b11_5, b16_5, b21_5, f0_6, f6_5, f26_6]

theorem xMulh (d : BitVec 5) (a : BitVec 5) (b : BitVec 5) : Statement (.xMulh d a b) := by
  refine ofScalar [(6, 2), (5, 0), (5, b.toNat), (5, a.toNat), (5, d.toNat), (6, 1)] rfl ⟨by decide, by decide, lt_of (b.isLt), lt_of (a.isLt), lt_of (d.isLt), by decide, trivial⟩ rfl (by show encXR 0x01 d a b 0 0x2 = _; simp only [cat, encXR, BitVec.ofNat_eq_ofNat, BitVec.toNat_ofNat]; try omega) fun z pk _ => ?_
  have b11_5 : bvField 5 z 11 = b := bvField_of (pk _ _ _ rfl)
  have b16_5 : bvField 5 z 16 = a := bvField_of (pk _ _ _ rfl)
  have b21_5 : bvField 5 z 21 = d := bvField_of (pk _ _ _ rfl)
  have f0_6 : field z 0 6 = 2 := pk _ _ _ rfl
  have f6_5 : field z 6 5 = 0 := pk _ _ _ rfl
  have f26_6 : field z 26 6 = 1 := pk _ _ _ rfl
  simp [accept, decodeX, decodeXMul, b11_5, b16_5, b21_5, f0_6, f6_5, f26_6]

theorem xMulhu (d : BitVec 5) (a : BitVec 5) (b : BitVec 5) : Statement (.xMulhu d a b) := by
  refine ofScalar [(6, 3), (5, 0), (5, b.toNat), (5, a.toNat), (5, d.toNat), (6, 1)] rfl ⟨by decide, by decide, lt_of (b.isLt), lt_of (a.isLt), lt_of (d.isLt), by decide, trivial⟩ rfl (by show encXR 0x01 d a b 0 0x3 = _; simp only [cat, encXR, BitVec.ofNat_eq_ofNat, BitVec.toNat_ofNat]; try omega) fun z pk _ => ?_
  have b11_5 : bvField 5 z 11 = b := bvField_of (pk _ _ _ rfl)
  have b16_5 : bvField 5 z 16 = a := bvField_of (pk _ _ _ rfl)
  have b21_5 : bvField 5 z 21 = d := bvField_of (pk _ _ _ rfl)
  have f0_6 : field z 0 6 = 3 := pk _ _ _ rfl
  have f6_5 : field z 6 5 = 0 := pk _ _ _ rfl
  have f26_6 : field z 26 6 = 1 := pk _ _ _ rfl
  simp [accept, decodeX, decodeXMul, b11_5, b16_5, b21_5, f0_6, f6_5, f26_6]

theorem xDiv (d : BitVec 5) (a : BitVec 5) (b : BitVec 5) : Statement (.xDiv d a b) := by
  refine ofScalar [(6, 4), (5, 0), (5, b.toNat), (5, a.toNat), (5, d.toNat), (6, 1)] rfl ⟨by decide, by decide, lt_of (b.isLt), lt_of (a.isLt), lt_of (d.isLt), by decide, trivial⟩ rfl (by show encXR 0x01 d a b 0 0x4 = _; simp only [cat, encXR, BitVec.ofNat_eq_ofNat, BitVec.toNat_ofNat]; try omega) fun z pk _ => ?_
  have b11_5 : bvField 5 z 11 = b := bvField_of (pk _ _ _ rfl)
  have b16_5 : bvField 5 z 16 = a := bvField_of (pk _ _ _ rfl)
  have b21_5 : bvField 5 z 21 = d := bvField_of (pk _ _ _ rfl)
  have f0_6 : field z 0 6 = 4 := pk _ _ _ rfl
  have f6_5 : field z 6 5 = 0 := pk _ _ _ rfl
  have f26_6 : field z 26 6 = 1 := pk _ _ _ rfl
  simp [accept, decodeX, decodeXMul, b11_5, b16_5, b21_5, f0_6, f6_5, f26_6]

theorem xDivu (d : BitVec 5) (a : BitVec 5) (b : BitVec 5) : Statement (.xDivu d a b) := by
  refine ofScalar [(6, 5), (5, 0), (5, b.toNat), (5, a.toNat), (5, d.toNat), (6, 1)] rfl ⟨by decide, by decide, lt_of (b.isLt), lt_of (a.isLt), lt_of (d.isLt), by decide, trivial⟩ rfl (by show encXR 0x01 d a b 0 0x5 = _; simp only [cat, encXR, BitVec.ofNat_eq_ofNat, BitVec.toNat_ofNat]; try omega) fun z pk _ => ?_
  have b11_5 : bvField 5 z 11 = b := bvField_of (pk _ _ _ rfl)
  have b16_5 : bvField 5 z 16 = a := bvField_of (pk _ _ _ rfl)
  have b21_5 : bvField 5 z 21 = d := bvField_of (pk _ _ _ rfl)
  have f0_6 : field z 0 6 = 5 := pk _ _ _ rfl
  have f6_5 : field z 6 5 = 0 := pk _ _ _ rfl
  have f26_6 : field z 26 6 = 1 := pk _ _ _ rfl
  simp [accept, decodeX, decodeXMul, b11_5, b16_5, b21_5, f0_6, f6_5, f26_6]

theorem xRem (d : BitVec 5) (a : BitVec 5) (b : BitVec 5) : Statement (.xRem d a b) := by
  refine ofScalar [(6, 6), (5, 0), (5, b.toNat), (5, a.toNat), (5, d.toNat), (6, 1)] rfl ⟨by decide, by decide, lt_of (b.isLt), lt_of (a.isLt), lt_of (d.isLt), by decide, trivial⟩ rfl (by show encXR 0x01 d a b 0 0x6 = _; simp only [cat, encXR, BitVec.ofNat_eq_ofNat, BitVec.toNat_ofNat]; try omega) fun z pk _ => ?_
  have b11_5 : bvField 5 z 11 = b := bvField_of (pk _ _ _ rfl)
  have b16_5 : bvField 5 z 16 = a := bvField_of (pk _ _ _ rfl)
  have b21_5 : bvField 5 z 21 = d := bvField_of (pk _ _ _ rfl)
  have f0_6 : field z 0 6 = 6 := pk _ _ _ rfl
  have f6_5 : field z 6 5 = 0 := pk _ _ _ rfl
  have f26_6 : field z 26 6 = 1 := pk _ _ _ rfl
  simp [accept, decodeX, decodeXMul, b11_5, b16_5, b21_5, f0_6, f6_5, f26_6]

theorem xRemu (d : BitVec 5) (a : BitVec 5) (b : BitVec 5) : Statement (.xRemu d a b) := by
  refine ofScalar [(6, 7), (5, 0), (5, b.toNat), (5, a.toNat), (5, d.toNat), (6, 1)] rfl ⟨by decide, by decide, lt_of (b.isLt), lt_of (a.isLt), lt_of (d.isLt), by decide, trivial⟩ rfl (by show encXR 0x01 d a b 0 0x7 = _; simp only [cat, encXR, BitVec.ofNat_eq_ofNat, BitVec.toNat_ofNat]; try omega) fun z pk _ => ?_
  have b11_5 : bvField 5 z 11 = b := bvField_of (pk _ _ _ rfl)
  have b16_5 : bvField 5 z 16 = a := bvField_of (pk _ _ _ rfl)
  have b21_5 : bvField 5 z 21 = d := bvField_of (pk _ _ _ rfl)
  have f0_6 : field z 0 6 = 7 := pk _ _ _ rfl
  have f6_5 : field z 6 5 = 0 := pk _ _ _ rfl
  have f26_6 : field z 26 6 = 1 := pk _ _ _ rfl
  simp [accept, decodeX, decodeXMul, b11_5, b16_5, b21_5, f0_6, f6_5, f26_6]

theorem bxp (d : BitVec 5) (a : BitVec 5) (k : BitVec 3) : Statement (.bxp d a k) := by
  refine ofScalar [(6, 1), (3, k.toNat), (7, 0), (5, a.toNat), (5, d.toNat), (6, 2)] rfl ⟨by decide, lt_of (k.isLt), by decide, lt_of (a.isLt), lt_of (d.isLt), by decide, trivial⟩ rfl (by show encXR 0x02 d a 0 (k.setWidth 5) 0x01 = _; simp only [cat, encXR, BitVec.ofNat_eq_ofNat, BitVec.toNat_ofNat, BitVec.toNat_setWidth]; try omega) fun z pk _ => ?_
  have b6_3 : bvField 3 z 6 = k := bvField_of (pk _ _ _ rfl)
  have b16_5 : bvField 5 z 16 = a := bvField_of (pk _ _ _ rfl)
  have b21_5 : bvField 5 z 21 = d := bvField_of (pk _ _ _ rfl)
  have f0_6 : field z 0 6 = 1 := pk _ _ _ rfl
  have f9_7 : field z 9 7 = 0 := pk _ _ _ rfl
  have f26_6 : field z 26 6 = 2 := pk _ _ _ rfl
  simp [accept, decodeX, decodeXBit, b6_3, b16_5, b21_5, f0_6, f9_7, f26_6]

theorem bxl (a : BitVec 5) (k : BitVec 3) : Statement (.bxl a k) := by
  refine ofScalar [(6, 2), (3, k.toNat), (7, 0), (5, a.toNat), (5, 0), (6, 2)] rfl ⟨by decide, lt_of (k.isLt), by decide, lt_of (a.isLt), by decide, by decide, trivial⟩ rfl (by show encXR 0x02 0 a 0 (k.setWidth 5) 0x02 = _; simp only [cat, encXR, BitVec.ofNat_eq_ofNat, BitVec.toNat_ofNat, BitVec.toNat_setWidth]; try omega) fun z pk _ => ?_
  have b6_3 : bvField 3 z 6 = k := bvField_of (pk _ _ _ rfl)
  have b16_5 : bvField 5 z 16 = a := bvField_of (pk _ _ _ rfl)
  have f0_6 : field z 0 6 = 2 := pk _ _ _ rfl
  have f9_7 : field z 9 7 = 0 := pk _ _ _ rfl
  have f21_5 : field z 21 5 = 0 := pk _ _ _ rfl
  have f26_6 : field z 26 6 = 2 := pk _ _ _ rfl
  simp [accept, decodeX, decodeXBit, b6_3, b16_5, f0_6, f9_7, f21_5, f26_6]

theorem xAddi (d : BitVec 5) (a : BitVec 5) (imm : BitVec 16) : Statement (.xAddi d a imm) := by
  refine ofScalar [(16, imm.toNat), (5, a.toNat), (5, d.toNat), (6, 4)] rfl ⟨lt_of (imm.isLt), lt_of (a.isLt), lt_of (d.isLt), by decide, trivial⟩ rfl (by show encXI 0x4 d a imm = _; simp only [cat, encXI]; try omega) fun z pk _ => ?_
  have b0_16 : bvField 16 z 0 = imm := bvField_of (pk _ _ _ rfl)
  have b16_5 : bvField 5 z 16 = a := bvField_of (pk _ _ _ rfl)
  have b21_5 : bvField 5 z 21 = d := bvField_of (pk _ _ _ rfl)
  have f26_6 : field z 26 6 = 4 := pk _ _ _ rfl
  simp [decodeX, b0_16, b16_5, b21_5, f26_6]

theorem xAndi (d : BitVec 5) (a : BitVec 5) (imm : BitVec 16) : Statement (.xAndi d a imm) := by
  refine ofScalar [(16, imm.toNat), (5, a.toNat), (5, d.toNat), (6, 5)] rfl ⟨lt_of (imm.isLt), lt_of (a.isLt), lt_of (d.isLt), by decide, trivial⟩ rfl (by show encXI 0x5 d a imm = _; simp only [cat, encXI]; try omega) fun z pk _ => ?_
  have b0_16 : bvField 16 z 0 = imm := bvField_of (pk _ _ _ rfl)
  have b16_5 : bvField 5 z 16 = a := bvField_of (pk _ _ _ rfl)
  have b21_5 : bvField 5 z 21 = d := bvField_of (pk _ _ _ rfl)
  have f26_6 : field z 26 6 = 5 := pk _ _ _ rfl
  simp [decodeX, b0_16, b16_5, b21_5, f26_6]

theorem xOri (d : BitVec 5) (a : BitVec 5) (imm : BitVec 16) : Statement (.xOri d a imm) := by
  refine ofScalar [(16, imm.toNat), (5, a.toNat), (5, d.toNat), (6, 6)] rfl ⟨lt_of (imm.isLt), lt_of (a.isLt), lt_of (d.isLt), by decide, trivial⟩ rfl (by show encXI 0x6 d a imm = _; simp only [cat, encXI]; try omega) fun z pk _ => ?_
  have b0_16 : bvField 16 z 0 = imm := bvField_of (pk _ _ _ rfl)
  have b16_5 : bvField 5 z 16 = a := bvField_of (pk _ _ _ rfl)
  have b21_5 : bvField 5 z 21 = d := bvField_of (pk _ _ _ rfl)
  have f26_6 : field z 26 6 = 6 := pk _ _ _ rfl
  simp [decodeX, b0_16, b16_5, b21_5, f26_6]

theorem xXori (d : BitVec 5) (a : BitVec 5) (imm : BitVec 16) : Statement (.xXori d a imm) := by
  refine ofScalar [(16, imm.toNat), (5, a.toNat), (5, d.toNat), (6, 7)] rfl ⟨lt_of (imm.isLt), lt_of (a.isLt), lt_of (d.isLt), by decide, trivial⟩ rfl (by show encXI 0x7 d a imm = _; simp only [cat, encXI]; try omega) fun z pk _ => ?_
  have b0_16 : bvField 16 z 0 = imm := bvField_of (pk _ _ _ rfl)
  have b16_5 : bvField 5 z 16 = a := bvField_of (pk _ _ _ rfl)
  have b21_5 : bvField 5 z 21 = d := bvField_of (pk _ _ _ rfl)
  have f26_6 : field z 26 6 = 7 := pk _ _ _ rfl
  simp [decodeX, b0_16, b16_5, b21_5, f26_6]

theorem xSlti (d : BitVec 5) (a : BitVec 5) (imm : BitVec 16) : Statement (.xSlti d a imm) := by
  refine ofScalar [(16, imm.toNat), (5, a.toNat), (5, d.toNat), (6, 8)] rfl ⟨lt_of (imm.isLt), lt_of (a.isLt), lt_of (d.isLt), by decide, trivial⟩ rfl (by show encXI 0x8 d a imm = _; simp only [cat, encXI]; try omega) fun z pk _ => ?_
  have b0_16 : bvField 16 z 0 = imm := bvField_of (pk _ _ _ rfl)
  have b16_5 : bvField 5 z 16 = a := bvField_of (pk _ _ _ rfl)
  have b21_5 : bvField 5 z 21 = d := bvField_of (pk _ _ _ rfl)
  have f26_6 : field z 26 6 = 8 := pk _ _ _ rfl
  simp [decodeX, b0_16, b16_5, b21_5, f26_6]

theorem xSltiu (d : BitVec 5) (a : BitVec 5) (imm : BitVec 16) : Statement (.xSltiu d a imm) := by
  refine ofScalar [(16, imm.toNat), (5, a.toNat), (5, d.toNat), (6, 9)] rfl ⟨lt_of (imm.isLt), lt_of (a.isLt), lt_of (d.isLt), by decide, trivial⟩ rfl (by show encXI 0x9 d a imm = _; simp only [cat, encXI]; try omega) fun z pk _ => ?_
  have b0_16 : bvField 16 z 0 = imm := bvField_of (pk _ _ _ rfl)
  have b16_5 : bvField 5 z 16 = a := bvField_of (pk _ _ _ rfl)
  have b21_5 : bvField 5 z 21 = d := bvField_of (pk _ _ _ rfl)
  have f26_6 : field z 26 6 = 9 := pk _ _ _ rfl
  simp [decodeX, b0_16, b16_5, b21_5, f26_6]

theorem xLui (d : BitVec 5) (imm : BitVec 16) : Statement (.xLui d imm) := by
  refine ofScalar [(16, imm.toNat), (5, 0), (5, d.toNat), (6, 10)] rfl ⟨lt_of (imm.isLt), by decide, lt_of (d.isLt), by decide, trivial⟩ rfl (by show encXI 0x0A d 0 imm = _; simp only [cat, encXI, BitVec.ofNat_eq_ofNat, BitVec.toNat_ofNat]; try omega) fun z pk _ => ?_
  have b0_16 : bvField 16 z 0 = imm := bvField_of (pk _ _ _ rfl)
  have b21_5 : bvField 5 z 21 = d := bvField_of (pk _ _ _ rfl)
  have f16_5 : field z 16 5 = 0 := pk _ _ _ rfl
  have f26_6 : field z 26 6 = 10 := pk _ _ _ rfl
  simp [accept, decodeX, b0_16, b21_5, f16_5, f26_6]

theorem xSlli (d : BitVec 5) (a : BitVec 5) (n : BitVec 6) : Statement (.xSlli d a n) := by
  refine ofScalar [(6, n.toNat), (10, 0), (5, a.toNat), (5, d.toNat), (6, 11)] rfl ⟨lt_of (n.isLt), by decide, lt_of (a.isLt), lt_of (d.isLt), by decide, trivial⟩ rfl (by show encXI 0xb d a (n.setWidth 16) = _; simp only [cat, encXI, BitVec.ofNat_eq_ofNat, BitVec.toNat_ofNat, BitVec.toNat_setWidth]; try omega) fun z pk _ => ?_
  have b0_6 : bvField 6 z 0 = n := bvField_of (pk _ _ _ rfl)
  have b16_5 : bvField 5 z 16 = a := bvField_of (pk _ _ _ rfl)
  have b21_5 : bvField 5 z 21 = d := bvField_of (pk _ _ _ rfl)
  have f6_10 : field z 6 10 = 0 := pk _ _ _ rfl
  have f26_6 : field z 26 6 = 11 := pk _ _ _ rfl
  simp [accept, decodeX, b0_6, b16_5, b21_5, f6_10, f26_6]

theorem xSrli (d : BitVec 5) (a : BitVec 5) (n : BitVec 6) : Statement (.xSrli d a n) := by
  refine ofScalar [(6, n.toNat), (10, 0), (5, a.toNat), (5, d.toNat), (6, 12)] rfl ⟨lt_of (n.isLt), by decide, lt_of (a.isLt), lt_of (d.isLt), by decide, trivial⟩ rfl (by show encXI 0xc d a (n.setWidth 16) = _; simp only [cat, encXI, BitVec.ofNat_eq_ofNat, BitVec.toNat_ofNat, BitVec.toNat_setWidth]; try omega) fun z pk _ => ?_
  have b0_6 : bvField 6 z 0 = n := bvField_of (pk _ _ _ rfl)
  have b16_5 : bvField 5 z 16 = a := bvField_of (pk _ _ _ rfl)
  have b21_5 : bvField 5 z 21 = d := bvField_of (pk _ _ _ rfl)
  have f6_10 : field z 6 10 = 0 := pk _ _ _ rfl
  have f26_6 : field z 26 6 = 12 := pk _ _ _ rfl
  simp [accept, decodeX, b0_6, b16_5, b21_5, f6_10, f26_6]

theorem xSrai (d : BitVec 5) (a : BitVec 5) (n : BitVec 6) : Statement (.xSrai d a n) := by
  refine ofScalar [(6, n.toNat), (10, 0), (5, a.toNat), (5, d.toNat), (6, 13)] rfl ⟨lt_of (n.isLt), by decide, lt_of (a.isLt), lt_of (d.isLt), by decide, trivial⟩ rfl (by show encXI 0xd d a (n.setWidth 16) = _; simp only [cat, encXI, BitVec.ofNat_eq_ofNat, BitVec.toNat_ofNat, BitVec.toNat_setWidth]; try omega) fun z pk _ => ?_
  have b0_6 : bvField 6 z 0 = n := bvField_of (pk _ _ _ rfl)
  have b16_5 : bvField 5 z 16 = a := bvField_of (pk _ _ _ rfl)
  have b21_5 : bvField 5 z 21 = d := bvField_of (pk _ _ _ rfl)
  have f6_10 : field z 6 10 = 0 := pk _ _ _ rfl
  have f26_6 : field z 26 6 = 13 := pk _ _ _ rfl
  simp [accept, decodeX, b0_6, b16_5, b21_5, f6_10, f26_6]

theorem xBeq (a : BitVec 5) (b : BitVec 5) (off : BitVec 16) : Statement (.xBeq a b off) := by
  refine ofScalar [(16, off.toNat), (5, b.toNat), (5, a.toNat), (6, 16)] rfl ⟨lt_of (off.isLt), lt_of (b.isLt), lt_of (a.isLt), by decide, trivial⟩ rfl (by show encXI 0x10 a b off = _; simp only [cat, encXI]; try omega) fun z pk _ => ?_
  have b0_16 : bvField 16 z 0 = off := bvField_of (pk _ _ _ rfl)
  have b16_5 : bvField 5 z 16 = b := bvField_of (pk _ _ _ rfl)
  have b21_5 : bvField 5 z 21 = a := bvField_of (pk _ _ _ rfl)
  have f26_6 : field z 26 6 = 16 := pk _ _ _ rfl
  simp [decodeX, b0_16, b16_5, b21_5, f26_6]

theorem xBne (a : BitVec 5) (b : BitVec 5) (off : BitVec 16) : Statement (.xBne a b off) := by
  refine ofScalar [(16, off.toNat), (5, b.toNat), (5, a.toNat), (6, 17)] rfl ⟨lt_of (off.isLt), lt_of (b.isLt), lt_of (a.isLt), by decide, trivial⟩ rfl (by show encXI 0x11 a b off = _; simp only [cat, encXI]; try omega) fun z pk _ => ?_
  have b0_16 : bvField 16 z 0 = off := bvField_of (pk _ _ _ rfl)
  have b16_5 : bvField 5 z 16 = b := bvField_of (pk _ _ _ rfl)
  have b21_5 : bvField 5 z 21 = a := bvField_of (pk _ _ _ rfl)
  have f26_6 : field z 26 6 = 17 := pk _ _ _ rfl
  simp [decodeX, b0_16, b16_5, b21_5, f26_6]

theorem xBlt (a : BitVec 5) (b : BitVec 5) (off : BitVec 16) : Statement (.xBlt a b off) := by
  refine ofScalar [(16, off.toNat), (5, b.toNat), (5, a.toNat), (6, 18)] rfl ⟨lt_of (off.isLt), lt_of (b.isLt), lt_of (a.isLt), by decide, trivial⟩ rfl (by show encXI 0x12 a b off = _; simp only [cat, encXI]; try omega) fun z pk _ => ?_
  have b0_16 : bvField 16 z 0 = off := bvField_of (pk _ _ _ rfl)
  have b16_5 : bvField 5 z 16 = b := bvField_of (pk _ _ _ rfl)
  have b21_5 : bvField 5 z 21 = a := bvField_of (pk _ _ _ rfl)
  have f26_6 : field z 26 6 = 18 := pk _ _ _ rfl
  simp [decodeX, b0_16, b16_5, b21_5, f26_6]

theorem xBge (a : BitVec 5) (b : BitVec 5) (off : BitVec 16) : Statement (.xBge a b off) := by
  refine ofScalar [(16, off.toNat), (5, b.toNat), (5, a.toNat), (6, 19)] rfl ⟨lt_of (off.isLt), lt_of (b.isLt), lt_of (a.isLt), by decide, trivial⟩ rfl (by show encXI 0x13 a b off = _; simp only [cat, encXI]; try omega) fun z pk _ => ?_
  have b0_16 : bvField 16 z 0 = off := bvField_of (pk _ _ _ rfl)
  have b16_5 : bvField 5 z 16 = b := bvField_of (pk _ _ _ rfl)
  have b21_5 : bvField 5 z 21 = a := bvField_of (pk _ _ _ rfl)
  have f26_6 : field z 26 6 = 19 := pk _ _ _ rfl
  simp [decodeX, b0_16, b16_5, b21_5, f26_6]

theorem xBltu (a : BitVec 5) (b : BitVec 5) (off : BitVec 16) : Statement (.xBltu a b off) := by
  refine ofScalar [(16, off.toNat), (5, b.toNat), (5, a.toNat), (6, 20)] rfl ⟨lt_of (off.isLt), lt_of (b.isLt), lt_of (a.isLt), by decide, trivial⟩ rfl (by show encXI 0x14 a b off = _; simp only [cat, encXI]; try omega) fun z pk _ => ?_
  have b0_16 : bvField 16 z 0 = off := bvField_of (pk _ _ _ rfl)
  have b16_5 : bvField 5 z 16 = b := bvField_of (pk _ _ _ rfl)
  have b21_5 : bvField 5 z 21 = a := bvField_of (pk _ _ _ rfl)
  have f26_6 : field z 26 6 = 20 := pk _ _ _ rfl
  simp [decodeX, b0_16, b16_5, b21_5, f26_6]

theorem xBgeu (a : BitVec 5) (b : BitVec 5) (off : BitVec 16) : Statement (.xBgeu a b off) := by
  refine ofScalar [(16, off.toNat), (5, b.toNat), (5, a.toNat), (6, 21)] rfl ⟨lt_of (off.isLt), lt_of (b.isLt), lt_of (a.isLt), by decide, trivial⟩ rfl (by show encXI 0x15 a b off = _; simp only [cat, encXI]; try omega) fun z pk _ => ?_
  have b0_16 : bvField 16 z 0 = off := bvField_of (pk _ _ _ rfl)
  have b16_5 : bvField 5 z 16 = b := bvField_of (pk _ _ _ rfl)
  have b21_5 : bvField 5 z 21 = a := bvField_of (pk _ _ _ rfl)
  have f26_6 : field z 26 6 = 21 := pk _ _ _ rfl
  simp [decodeX, b0_16, b16_5, b21_5, f26_6]

theorem xJ (off : BitVec 26) : Statement (.xJ off) := by
  refine ofScalar [(26, off.toNat), (6, 22)] rfl ⟨lt_of (off.isLt), by decide, trivial⟩ rfl (by show 0x16 * 2 ^ 26 + off.toNat = _; simp only [cat]; try omega) fun z pk _ => ?_
  have b0_26 : bvField 26 z 0 = off := bvField_of (pk _ _ _ rfl)
  have f26_6 : field z 26 6 = 22 := pk _ _ _ rfl
  simp [decodeX, b0_26, f26_6]

theorem call (off : BitVec 26) : Statement (.call off) := by
  refine ofScalar [(26, off.toNat), (6, 23)] rfl ⟨lt_of (off.isLt), by decide, trivial⟩ rfl (by show 0x17 * 2 ^ 26 + off.toNat = _; simp only [cat]; try omega) fun z pk _ => ?_
  have b0_26 : bvField 26 z 0 = off := bvField_of (pk _ _ _ rfl)
  have f26_6 : field z 26 6 = 23 := pk _ _ _ rfl
  simp [decodeX, b0_26, f26_6]

theorem jr (a : BitVec 5) (imm : BitVec 16) : Statement (.jr a imm) := by
  refine ofScalar [(16, imm.toNat), (5, a.toNat), (5, 0), (6, 24)] rfl ⟨lt_of (imm.isLt), lt_of (a.isLt), by decide, by decide, trivial⟩ rfl (by show encXI 0x18 0 a imm = _; simp only [cat, encXI, BitVec.ofNat_eq_ofNat, BitVec.toNat_ofNat]; try omega) fun z pk _ => ?_
  have b0_16 : bvField 16 z 0 = imm := bvField_of (pk _ _ _ rfl)
  have b16_5 : bvField 5 z 16 = a := bvField_of (pk _ _ _ rfl)
  have f21_5 : field z 21 5 = 0 := pk _ _ _ rfl
  have f26_6 : field z 26 6 = 24 := pk _ _ _ rfl
  simp [accept, decodeX, b0_16, b16_5, f21_5, f26_6]

theorem callr (d : BitVec 5) (a : BitVec 5) : Statement (.callr d a) := by
  refine ofScalar [(16, 0), (5, a.toNat), (5, d.toNat), (6, 25)] rfl ⟨by decide, lt_of (a.isLt), lt_of (d.isLt), by decide, trivial⟩ rfl (by show encXI 0x19 d a 0 = _; simp only [cat, encXI, BitVec.ofNat_eq_ofNat, BitVec.toNat_ofNat]; try omega) fun z pk _ => ?_
  have b16_5 : bvField 5 z 16 = a := bvField_of (pk _ _ _ rfl)
  have b21_5 : bvField 5 z 21 = d := bvField_of (pk _ _ _ rfl)
  have f0_16 : field z 0 16 = 0 := pk _ _ _ rfl
  have f26_6 : field z 26 6 = 25 := pk _ _ _ rfl
  simp [accept, decodeX, b16_5, b21_5, f0_16, f26_6]

theorem ldD (o : XMem) : Statement (.ldD o) := by
  obtain ⟨d, a, hint, ord, off⟩ := o
  cases ord with
  | none =>
    refine ofScalar [(11, off.toNat), (2, 0), (1, 0), (2, hint.code), (5, a.toNat), (5, d.toNat), (6, 32)] rfl ⟨lt_of (off.isLt), by decide, by decide, lt_of (hint.code_lt), lt_of (a.isLt), lt_of (d.isLt), by decide, trivial⟩ rfl (by show encXM 0x20 { d := d, a := a, hint := hint, ord := none, off := off } = _; simp only [cat, encXM]; try omega) fun z pk _ => ?_
    have t13 : bitField z 13 = false := bitField_of (pk _ _ _ rfl)
    have b0_11 : bvField 11 z 0 = off := bvField_of (pk _ _ _ rfl)
    have b16_5 : bvField 5 z 16 = a := bvField_of (pk _ _ _ rfl)
    have b21_5 : bvField 5 z 21 = d := bvField_of (pk _ _ _ rfl)
    have f11_2 : field z 11 2 = 0 := pk _ _ _ rfl
    have f14_2 : field z 14 2 = hint.code := pk _ _ _ rfl
    have f26_6 : field z 26 6 = 32 := pk _ _ _ rfl
    simp [accept, decodeX, decodeXMem, t13, b0_11, b16_5, b21_5, f11_2, f14_2, f26_6]
  | some sc =>
    refine ofScalar [(11, off.toNat), (2, sc.code), (1, 1), (2, hint.code), (5, a.toNat), (5, d.toNat), (6, 32)] rfl ⟨lt_of (off.isLt), lt_of (sc.code_lt), by decide, lt_of (hint.code_lt), lt_of (a.isLt), lt_of (d.isLt), by decide, trivial⟩ rfl (by show encXM 0x20 { d := d, a := a, hint := hint, ord := some sc, off := off } = _; simp only [cat, encXM]; try omega) fun z pk _ => ?_
    have t13 : bitField z 13 = true := bitField_of (pk _ _ _ rfl)
    have b0_11 : bvField 11 z 0 = off := bvField_of (pk _ _ _ rfl)
    have b16_5 : bvField 5 z 16 = a := bvField_of (pk _ _ _ rfl)
    have b21_5 : bvField 5 z 21 = d := bvField_of (pk _ _ _ rfl)
    have f11_2 : field z 11 2 = sc.code := pk _ _ _ rfl
    have f14_2 : field z 14 2 = hint.code := pk _ _ _ rfl
    have f26_6 : field z 26 6 = 32 := pk _ _ _ rfl
    simp [accept, decodeX, decodeXMem, t13, b0_11, b16_5, b21_5, f11_2, f14_2, f26_6]

theorem ldW (o : XMem) : Statement (.ldW o) := by
  obtain ⟨d, a, hint, ord, off⟩ := o
  cases ord with
  | none =>
    refine ofScalar [(11, off.toNat), (2, 0), (1, 0), (2, hint.code), (5, a.toNat), (5, d.toNat), (6, 33)] rfl ⟨lt_of (off.isLt), by decide, by decide, lt_of (hint.code_lt), lt_of (a.isLt), lt_of (d.isLt), by decide, trivial⟩ rfl (by show encXM 0x21 { d := d, a := a, hint := hint, ord := none, off := off } = _; simp only [cat, encXM]; try omega) fun z pk _ => ?_
    have t13 : bitField z 13 = false := bitField_of (pk _ _ _ rfl)
    have b0_11 : bvField 11 z 0 = off := bvField_of (pk _ _ _ rfl)
    have b16_5 : bvField 5 z 16 = a := bvField_of (pk _ _ _ rfl)
    have b21_5 : bvField 5 z 21 = d := bvField_of (pk _ _ _ rfl)
    have f11_2 : field z 11 2 = 0 := pk _ _ _ rfl
    have f14_2 : field z 14 2 = hint.code := pk _ _ _ rfl
    have f26_6 : field z 26 6 = 33 := pk _ _ _ rfl
    simp [accept, decodeX, decodeXMem, t13, b0_11, b16_5, b21_5, f11_2, f14_2, f26_6]
  | some sc =>
    refine ofScalar [(11, off.toNat), (2, sc.code), (1, 1), (2, hint.code), (5, a.toNat), (5, d.toNat), (6, 33)] rfl ⟨lt_of (off.isLt), lt_of (sc.code_lt), by decide, lt_of (hint.code_lt), lt_of (a.isLt), lt_of (d.isLt), by decide, trivial⟩ rfl (by show encXM 0x21 { d := d, a := a, hint := hint, ord := some sc, off := off } = _; simp only [cat, encXM]; try omega) fun z pk _ => ?_
    have t13 : bitField z 13 = true := bitField_of (pk _ _ _ rfl)
    have b0_11 : bvField 11 z 0 = off := bvField_of (pk _ _ _ rfl)
    have b16_5 : bvField 5 z 16 = a := bvField_of (pk _ _ _ rfl)
    have b21_5 : bvField 5 z 21 = d := bvField_of (pk _ _ _ rfl)
    have f11_2 : field z 11 2 = sc.code := pk _ _ _ rfl
    have f14_2 : field z 14 2 = hint.code := pk _ _ _ rfl
    have f26_6 : field z 26 6 = 33 := pk _ _ _ rfl
    simp [accept, decodeX, decodeXMem, t13, b0_11, b16_5, b21_5, f11_2, f14_2, f26_6]

theorem ldWu (o : XMem) : Statement (.ldWu o) := by
  obtain ⟨d, a, hint, ord, off⟩ := o
  cases ord with
  | none =>
    refine ofScalar [(11, off.toNat), (2, 0), (1, 0), (2, hint.code), (5, a.toNat), (5, d.toNat), (6, 34)] rfl ⟨lt_of (off.isLt), by decide, by decide, lt_of (hint.code_lt), lt_of (a.isLt), lt_of (d.isLt), by decide, trivial⟩ rfl (by show encXM 0x22 { d := d, a := a, hint := hint, ord := none, off := off } = _; simp only [cat, encXM]; try omega) fun z pk _ => ?_
    have t13 : bitField z 13 = false := bitField_of (pk _ _ _ rfl)
    have b0_11 : bvField 11 z 0 = off := bvField_of (pk _ _ _ rfl)
    have b16_5 : bvField 5 z 16 = a := bvField_of (pk _ _ _ rfl)
    have b21_5 : bvField 5 z 21 = d := bvField_of (pk _ _ _ rfl)
    have f11_2 : field z 11 2 = 0 := pk _ _ _ rfl
    have f14_2 : field z 14 2 = hint.code := pk _ _ _ rfl
    have f26_6 : field z 26 6 = 34 := pk _ _ _ rfl
    simp [accept, decodeX, decodeXMem, t13, b0_11, b16_5, b21_5, f11_2, f14_2, f26_6]
  | some sc =>
    refine ofScalar [(11, off.toNat), (2, sc.code), (1, 1), (2, hint.code), (5, a.toNat), (5, d.toNat), (6, 34)] rfl ⟨lt_of (off.isLt), lt_of (sc.code_lt), by decide, lt_of (hint.code_lt), lt_of (a.isLt), lt_of (d.isLt), by decide, trivial⟩ rfl (by show encXM 0x22 { d := d, a := a, hint := hint, ord := some sc, off := off } = _; simp only [cat, encXM]; try omega) fun z pk _ => ?_
    have t13 : bitField z 13 = true := bitField_of (pk _ _ _ rfl)
    have b0_11 : bvField 11 z 0 = off := bvField_of (pk _ _ _ rfl)
    have b16_5 : bvField 5 z 16 = a := bvField_of (pk _ _ _ rfl)
    have b21_5 : bvField 5 z 21 = d := bvField_of (pk _ _ _ rfl)
    have f11_2 : field z 11 2 = sc.code := pk _ _ _ rfl
    have f14_2 : field z 14 2 = hint.code := pk _ _ _ rfl
    have f26_6 : field z 26 6 = 34 := pk _ _ _ rfl
    simp [accept, decodeX, decodeXMem, t13, b0_11, b16_5, b21_5, f11_2, f14_2, f26_6]

theorem ldH (o : XMem) : Statement (.ldH o) := by
  obtain ⟨d, a, hint, ord, off⟩ := o
  cases ord with
  | none =>
    refine ofScalar [(11, off.toNat), (2, 0), (1, 0), (2, hint.code), (5, a.toNat), (5, d.toNat), (6, 35)] rfl ⟨lt_of (off.isLt), by decide, by decide, lt_of (hint.code_lt), lt_of (a.isLt), lt_of (d.isLt), by decide, trivial⟩ rfl (by show encXM 0x23 { d := d, a := a, hint := hint, ord := none, off := off } = _; simp only [cat, encXM]; try omega) fun z pk _ => ?_
    have t13 : bitField z 13 = false := bitField_of (pk _ _ _ rfl)
    have b0_11 : bvField 11 z 0 = off := bvField_of (pk _ _ _ rfl)
    have b16_5 : bvField 5 z 16 = a := bvField_of (pk _ _ _ rfl)
    have b21_5 : bvField 5 z 21 = d := bvField_of (pk _ _ _ rfl)
    have f11_2 : field z 11 2 = 0 := pk _ _ _ rfl
    have f14_2 : field z 14 2 = hint.code := pk _ _ _ rfl
    have f26_6 : field z 26 6 = 35 := pk _ _ _ rfl
    simp [accept, decodeX, decodeXMem, t13, b0_11, b16_5, b21_5, f11_2, f14_2, f26_6]
  | some sc =>
    refine ofScalar [(11, off.toNat), (2, sc.code), (1, 1), (2, hint.code), (5, a.toNat), (5, d.toNat), (6, 35)] rfl ⟨lt_of (off.isLt), lt_of (sc.code_lt), by decide, lt_of (hint.code_lt), lt_of (a.isLt), lt_of (d.isLt), by decide, trivial⟩ rfl (by show encXM 0x23 { d := d, a := a, hint := hint, ord := some sc, off := off } = _; simp only [cat, encXM]; try omega) fun z pk _ => ?_
    have t13 : bitField z 13 = true := bitField_of (pk _ _ _ rfl)
    have b0_11 : bvField 11 z 0 = off := bvField_of (pk _ _ _ rfl)
    have b16_5 : bvField 5 z 16 = a := bvField_of (pk _ _ _ rfl)
    have b21_5 : bvField 5 z 21 = d := bvField_of (pk _ _ _ rfl)
    have f11_2 : field z 11 2 = sc.code := pk _ _ _ rfl
    have f14_2 : field z 14 2 = hint.code := pk _ _ _ rfl
    have f26_6 : field z 26 6 = 35 := pk _ _ _ rfl
    simp [accept, decodeX, decodeXMem, t13, b0_11, b16_5, b21_5, f11_2, f14_2, f26_6]

theorem ldHu (o : XMem) : Statement (.ldHu o) := by
  obtain ⟨d, a, hint, ord, off⟩ := o
  cases ord with
  | none =>
    refine ofScalar [(11, off.toNat), (2, 0), (1, 0), (2, hint.code), (5, a.toNat), (5, d.toNat), (6, 36)] rfl ⟨lt_of (off.isLt), by decide, by decide, lt_of (hint.code_lt), lt_of (a.isLt), lt_of (d.isLt), by decide, trivial⟩ rfl (by show encXM 0x24 { d := d, a := a, hint := hint, ord := none, off := off } = _; simp only [cat, encXM]; try omega) fun z pk _ => ?_
    have t13 : bitField z 13 = false := bitField_of (pk _ _ _ rfl)
    have b0_11 : bvField 11 z 0 = off := bvField_of (pk _ _ _ rfl)
    have b16_5 : bvField 5 z 16 = a := bvField_of (pk _ _ _ rfl)
    have b21_5 : bvField 5 z 21 = d := bvField_of (pk _ _ _ rfl)
    have f11_2 : field z 11 2 = 0 := pk _ _ _ rfl
    have f14_2 : field z 14 2 = hint.code := pk _ _ _ rfl
    have f26_6 : field z 26 6 = 36 := pk _ _ _ rfl
    simp [accept, decodeX, decodeXMem, t13, b0_11, b16_5, b21_5, f11_2, f14_2, f26_6]
  | some sc =>
    refine ofScalar [(11, off.toNat), (2, sc.code), (1, 1), (2, hint.code), (5, a.toNat), (5, d.toNat), (6, 36)] rfl ⟨lt_of (off.isLt), lt_of (sc.code_lt), by decide, lt_of (hint.code_lt), lt_of (a.isLt), lt_of (d.isLt), by decide, trivial⟩ rfl (by show encXM 0x24 { d := d, a := a, hint := hint, ord := some sc, off := off } = _; simp only [cat, encXM]; try omega) fun z pk _ => ?_
    have t13 : bitField z 13 = true := bitField_of (pk _ _ _ rfl)
    have b0_11 : bvField 11 z 0 = off := bvField_of (pk _ _ _ rfl)
    have b16_5 : bvField 5 z 16 = a := bvField_of (pk _ _ _ rfl)
    have b21_5 : bvField 5 z 21 = d := bvField_of (pk _ _ _ rfl)
    have f11_2 : field z 11 2 = sc.code := pk _ _ _ rfl
    have f14_2 : field z 14 2 = hint.code := pk _ _ _ rfl
    have f26_6 : field z 26 6 = 36 := pk _ _ _ rfl
    simp [accept, decodeX, decodeXMem, t13, b0_11, b16_5, b21_5, f11_2, f14_2, f26_6]

theorem ldB (o : XMem) : Statement (.ldB o) := by
  obtain ⟨d, a, hint, ord, off⟩ := o
  cases ord with
  | none =>
    refine ofScalar [(11, off.toNat), (2, 0), (1, 0), (2, hint.code), (5, a.toNat), (5, d.toNat), (6, 37)] rfl ⟨lt_of (off.isLt), by decide, by decide, lt_of (hint.code_lt), lt_of (a.isLt), lt_of (d.isLt), by decide, trivial⟩ rfl (by show encXM 0x25 { d := d, a := a, hint := hint, ord := none, off := off } = _; simp only [cat, encXM]; try omega) fun z pk _ => ?_
    have t13 : bitField z 13 = false := bitField_of (pk _ _ _ rfl)
    have b0_11 : bvField 11 z 0 = off := bvField_of (pk _ _ _ rfl)
    have b16_5 : bvField 5 z 16 = a := bvField_of (pk _ _ _ rfl)
    have b21_5 : bvField 5 z 21 = d := bvField_of (pk _ _ _ rfl)
    have f11_2 : field z 11 2 = 0 := pk _ _ _ rfl
    have f14_2 : field z 14 2 = hint.code := pk _ _ _ rfl
    have f26_6 : field z 26 6 = 37 := pk _ _ _ rfl
    simp [accept, decodeX, decodeXMem, t13, b0_11, b16_5, b21_5, f11_2, f14_2, f26_6]
  | some sc =>
    refine ofScalar [(11, off.toNat), (2, sc.code), (1, 1), (2, hint.code), (5, a.toNat), (5, d.toNat), (6, 37)] rfl ⟨lt_of (off.isLt), lt_of (sc.code_lt), by decide, lt_of (hint.code_lt), lt_of (a.isLt), lt_of (d.isLt), by decide, trivial⟩ rfl (by show encXM 0x25 { d := d, a := a, hint := hint, ord := some sc, off := off } = _; simp only [cat, encXM]; try omega) fun z pk _ => ?_
    have t13 : bitField z 13 = true := bitField_of (pk _ _ _ rfl)
    have b0_11 : bvField 11 z 0 = off := bvField_of (pk _ _ _ rfl)
    have b16_5 : bvField 5 z 16 = a := bvField_of (pk _ _ _ rfl)
    have b21_5 : bvField 5 z 21 = d := bvField_of (pk _ _ _ rfl)
    have f11_2 : field z 11 2 = sc.code := pk _ _ _ rfl
    have f14_2 : field z 14 2 = hint.code := pk _ _ _ rfl
    have f26_6 : field z 26 6 = 37 := pk _ _ _ rfl
    simp [accept, decodeX, decodeXMem, t13, b0_11, b16_5, b21_5, f11_2, f14_2, f26_6]

theorem ldBu (o : XMem) : Statement (.ldBu o) := by
  obtain ⟨d, a, hint, ord, off⟩ := o
  cases ord with
  | none =>
    refine ofScalar [(11, off.toNat), (2, 0), (1, 0), (2, hint.code), (5, a.toNat), (5, d.toNat), (6, 38)] rfl ⟨lt_of (off.isLt), by decide, by decide, lt_of (hint.code_lt), lt_of (a.isLt), lt_of (d.isLt), by decide, trivial⟩ rfl (by show encXM 0x26 { d := d, a := a, hint := hint, ord := none, off := off } = _; simp only [cat, encXM]; try omega) fun z pk _ => ?_
    have t13 : bitField z 13 = false := bitField_of (pk _ _ _ rfl)
    have b0_11 : bvField 11 z 0 = off := bvField_of (pk _ _ _ rfl)
    have b16_5 : bvField 5 z 16 = a := bvField_of (pk _ _ _ rfl)
    have b21_5 : bvField 5 z 21 = d := bvField_of (pk _ _ _ rfl)
    have f11_2 : field z 11 2 = 0 := pk _ _ _ rfl
    have f14_2 : field z 14 2 = hint.code := pk _ _ _ rfl
    have f26_6 : field z 26 6 = 38 := pk _ _ _ rfl
    simp [accept, decodeX, decodeXMem, t13, b0_11, b16_5, b21_5, f11_2, f14_2, f26_6]
  | some sc =>
    refine ofScalar [(11, off.toNat), (2, sc.code), (1, 1), (2, hint.code), (5, a.toNat), (5, d.toNat), (6, 38)] rfl ⟨lt_of (off.isLt), lt_of (sc.code_lt), by decide, lt_of (hint.code_lt), lt_of (a.isLt), lt_of (d.isLt), by decide, trivial⟩ rfl (by show encXM 0x26 { d := d, a := a, hint := hint, ord := some sc, off := off } = _; simp only [cat, encXM]; try omega) fun z pk _ => ?_
    have t13 : bitField z 13 = true := bitField_of (pk _ _ _ rfl)
    have b0_11 : bvField 11 z 0 = off := bvField_of (pk _ _ _ rfl)
    have b16_5 : bvField 5 z 16 = a := bvField_of (pk _ _ _ rfl)
    have b21_5 : bvField 5 z 21 = d := bvField_of (pk _ _ _ rfl)
    have f11_2 : field z 11 2 = sc.code := pk _ _ _ rfl
    have f14_2 : field z 14 2 = hint.code := pk _ _ _ rfl
    have f26_6 : field z 26 6 = 38 := pk _ _ _ rfl
    simp [accept, decodeX, decodeXMem, t13, b0_11, b16_5, b21_5, f11_2, f14_2, f26_6]

theorem stD (o : XMem) : Statement (.stD o) := by
  obtain ⟨d, a, hint, ord, off⟩ := o
  cases ord with
  | none =>
    refine ofScalar [(11, off.toNat), (2, 0), (1, 0), (2, hint.code), (5, a.toNat), (5, d.toNat), (6, 40)] rfl ⟨lt_of (off.isLt), by decide, by decide, lt_of (hint.code_lt), lt_of (a.isLt), lt_of (d.isLt), by decide, trivial⟩ rfl (by show encXM 0x28 { d := d, a := a, hint := hint, ord := none, off := off } = _; simp only [cat, encXM]; try omega) fun z pk _ => ?_
    have t13 : bitField z 13 = false := bitField_of (pk _ _ _ rfl)
    have b0_11 : bvField 11 z 0 = off := bvField_of (pk _ _ _ rfl)
    have b16_5 : bvField 5 z 16 = a := bvField_of (pk _ _ _ rfl)
    have b21_5 : bvField 5 z 21 = d := bvField_of (pk _ _ _ rfl)
    have f11_2 : field z 11 2 = 0 := pk _ _ _ rfl
    have f14_2 : field z 14 2 = hint.code := pk _ _ _ rfl
    have f26_6 : field z 26 6 = 40 := pk _ _ _ rfl
    simp [accept, decodeX, decodeXMem, t13, b0_11, b16_5, b21_5, f11_2, f14_2, f26_6]
  | some sc =>
    refine ofScalar [(11, off.toNat), (2, sc.code), (1, 1), (2, hint.code), (5, a.toNat), (5, d.toNat), (6, 40)] rfl ⟨lt_of (off.isLt), lt_of (sc.code_lt), by decide, lt_of (hint.code_lt), lt_of (a.isLt), lt_of (d.isLt), by decide, trivial⟩ rfl (by show encXM 0x28 { d := d, a := a, hint := hint, ord := some sc, off := off } = _; simp only [cat, encXM]; try omega) fun z pk _ => ?_
    have t13 : bitField z 13 = true := bitField_of (pk _ _ _ rfl)
    have b0_11 : bvField 11 z 0 = off := bvField_of (pk _ _ _ rfl)
    have b16_5 : bvField 5 z 16 = a := bvField_of (pk _ _ _ rfl)
    have b21_5 : bvField 5 z 21 = d := bvField_of (pk _ _ _ rfl)
    have f11_2 : field z 11 2 = sc.code := pk _ _ _ rfl
    have f14_2 : field z 14 2 = hint.code := pk _ _ _ rfl
    have f26_6 : field z 26 6 = 40 := pk _ _ _ rfl
    simp [accept, decodeX, decodeXMem, t13, b0_11, b16_5, b21_5, f11_2, f14_2, f26_6]

theorem stW (o : XMem) : Statement (.stW o) := by
  obtain ⟨d, a, hint, ord, off⟩ := o
  cases ord with
  | none =>
    refine ofScalar [(11, off.toNat), (2, 0), (1, 0), (2, hint.code), (5, a.toNat), (5, d.toNat), (6, 41)] rfl ⟨lt_of (off.isLt), by decide, by decide, lt_of (hint.code_lt), lt_of (a.isLt), lt_of (d.isLt), by decide, trivial⟩ rfl (by show encXM 0x29 { d := d, a := a, hint := hint, ord := none, off := off } = _; simp only [cat, encXM]; try omega) fun z pk _ => ?_
    have t13 : bitField z 13 = false := bitField_of (pk _ _ _ rfl)
    have b0_11 : bvField 11 z 0 = off := bvField_of (pk _ _ _ rfl)
    have b16_5 : bvField 5 z 16 = a := bvField_of (pk _ _ _ rfl)
    have b21_5 : bvField 5 z 21 = d := bvField_of (pk _ _ _ rfl)
    have f11_2 : field z 11 2 = 0 := pk _ _ _ rfl
    have f14_2 : field z 14 2 = hint.code := pk _ _ _ rfl
    have f26_6 : field z 26 6 = 41 := pk _ _ _ rfl
    simp [accept, decodeX, decodeXMem, t13, b0_11, b16_5, b21_5, f11_2, f14_2, f26_6]
  | some sc =>
    refine ofScalar [(11, off.toNat), (2, sc.code), (1, 1), (2, hint.code), (5, a.toNat), (5, d.toNat), (6, 41)] rfl ⟨lt_of (off.isLt), lt_of (sc.code_lt), by decide, lt_of (hint.code_lt), lt_of (a.isLt), lt_of (d.isLt), by decide, trivial⟩ rfl (by show encXM 0x29 { d := d, a := a, hint := hint, ord := some sc, off := off } = _; simp only [cat, encXM]; try omega) fun z pk _ => ?_
    have t13 : bitField z 13 = true := bitField_of (pk _ _ _ rfl)
    have b0_11 : bvField 11 z 0 = off := bvField_of (pk _ _ _ rfl)
    have b16_5 : bvField 5 z 16 = a := bvField_of (pk _ _ _ rfl)
    have b21_5 : bvField 5 z 21 = d := bvField_of (pk _ _ _ rfl)
    have f11_2 : field z 11 2 = sc.code := pk _ _ _ rfl
    have f14_2 : field z 14 2 = hint.code := pk _ _ _ rfl
    have f26_6 : field z 26 6 = 41 := pk _ _ _ rfl
    simp [accept, decodeX, decodeXMem, t13, b0_11, b16_5, b21_5, f11_2, f14_2, f26_6]

theorem stH (o : XMem) : Statement (.stH o) := by
  obtain ⟨d, a, hint, ord, off⟩ := o
  cases ord with
  | none =>
    refine ofScalar [(11, off.toNat), (2, 0), (1, 0), (2, hint.code), (5, a.toNat), (5, d.toNat), (6, 42)] rfl ⟨lt_of (off.isLt), by decide, by decide, lt_of (hint.code_lt), lt_of (a.isLt), lt_of (d.isLt), by decide, trivial⟩ rfl (by show encXM 0x2a { d := d, a := a, hint := hint, ord := none, off := off } = _; simp only [cat, encXM]; try omega) fun z pk _ => ?_
    have t13 : bitField z 13 = false := bitField_of (pk _ _ _ rfl)
    have b0_11 : bvField 11 z 0 = off := bvField_of (pk _ _ _ rfl)
    have b16_5 : bvField 5 z 16 = a := bvField_of (pk _ _ _ rfl)
    have b21_5 : bvField 5 z 21 = d := bvField_of (pk _ _ _ rfl)
    have f11_2 : field z 11 2 = 0 := pk _ _ _ rfl
    have f14_2 : field z 14 2 = hint.code := pk _ _ _ rfl
    have f26_6 : field z 26 6 = 42 := pk _ _ _ rfl
    simp [accept, decodeX, decodeXMem, t13, b0_11, b16_5, b21_5, f11_2, f14_2, f26_6]
  | some sc =>
    refine ofScalar [(11, off.toNat), (2, sc.code), (1, 1), (2, hint.code), (5, a.toNat), (5, d.toNat), (6, 42)] rfl ⟨lt_of (off.isLt), lt_of (sc.code_lt), by decide, lt_of (hint.code_lt), lt_of (a.isLt), lt_of (d.isLt), by decide, trivial⟩ rfl (by show encXM 0x2a { d := d, a := a, hint := hint, ord := some sc, off := off } = _; simp only [cat, encXM]; try omega) fun z pk _ => ?_
    have t13 : bitField z 13 = true := bitField_of (pk _ _ _ rfl)
    have b0_11 : bvField 11 z 0 = off := bvField_of (pk _ _ _ rfl)
    have b16_5 : bvField 5 z 16 = a := bvField_of (pk _ _ _ rfl)
    have b21_5 : bvField 5 z 21 = d := bvField_of (pk _ _ _ rfl)
    have f11_2 : field z 11 2 = sc.code := pk _ _ _ rfl
    have f14_2 : field z 14 2 = hint.code := pk _ _ _ rfl
    have f26_6 : field z 26 6 = 42 := pk _ _ _ rfl
    simp [accept, decodeX, decodeXMem, t13, b0_11, b16_5, b21_5, f11_2, f14_2, f26_6]

theorem stB (o : XMem) : Statement (.stB o) := by
  obtain ⟨d, a, hint, ord, off⟩ := o
  cases ord with
  | none =>
    refine ofScalar [(11, off.toNat), (2, 0), (1, 0), (2, hint.code), (5, a.toNat), (5, d.toNat), (6, 43)] rfl ⟨lt_of (off.isLt), by decide, by decide, lt_of (hint.code_lt), lt_of (a.isLt), lt_of (d.isLt), by decide, trivial⟩ rfl (by show encXM 0x2b { d := d, a := a, hint := hint, ord := none, off := off } = _; simp only [cat, encXM]; try omega) fun z pk _ => ?_
    have t13 : bitField z 13 = false := bitField_of (pk _ _ _ rfl)
    have b0_11 : bvField 11 z 0 = off := bvField_of (pk _ _ _ rfl)
    have b16_5 : bvField 5 z 16 = a := bvField_of (pk _ _ _ rfl)
    have b21_5 : bvField 5 z 21 = d := bvField_of (pk _ _ _ rfl)
    have f11_2 : field z 11 2 = 0 := pk _ _ _ rfl
    have f14_2 : field z 14 2 = hint.code := pk _ _ _ rfl
    have f26_6 : field z 26 6 = 43 := pk _ _ _ rfl
    simp [accept, decodeX, decodeXMem, t13, b0_11, b16_5, b21_5, f11_2, f14_2, f26_6]
  | some sc =>
    refine ofScalar [(11, off.toNat), (2, sc.code), (1, 1), (2, hint.code), (5, a.toNat), (5, d.toNat), (6, 43)] rfl ⟨lt_of (off.isLt), lt_of (sc.code_lt), by decide, lt_of (hint.code_lt), lt_of (a.isLt), lt_of (d.isLt), by decide, trivial⟩ rfl (by show encXM 0x2b { d := d, a := a, hint := hint, ord := some sc, off := off } = _; simp only [cat, encXM]; try omega) fun z pk _ => ?_
    have t13 : bitField z 13 = true := bitField_of (pk _ _ _ rfl)
    have b0_11 : bvField 11 z 0 = off := bvField_of (pk _ _ _ rfl)
    have b16_5 : bvField 5 z 16 = a := bvField_of (pk _ _ _ rfl)
    have b21_5 : bvField 5 z 21 = d := bvField_of (pk _ _ _ rfl)
    have f11_2 : field z 11 2 = sc.code := pk _ _ _ rfl
    have f14_2 : field z 14 2 = hint.code := pk _ _ _ rfl
    have f26_6 : field z 26 6 = 43 := pk _ _ _ rfl
    simp [accept, decodeX, decodeXMem, t13, b0_11, b16_5, b21_5, f11_2, f14_2, f26_6]

theorem fence (sc : Scope) : Statement (.fence sc) := by
  refine ofScalar [(11, 0), (2, sc.code), (3, 1), (5, 0), (5, 0), (6, 44)] rfl ⟨by decide, lt_of (sc.code_lt), by decide, by decide, by decide, by decide, trivial⟩ rfl (by show 0x2C * 2 ^ 26 + 2 ^ 13 + sc.code * 2 ^ 11 = _; simp only [cat]; try omega) fun z pk _ => ?_
  have f0_11 : field z 0 11 = 0 := pk _ _ _ rfl
  have f11_2 : field z 11 2 = sc.code := pk _ _ _ rfl
  have f13_3 : field z 13 3 = 1 := pk _ _ _ rfl
  have f16_5 : field z 16 5 = 0 := pk _ _ _ rfl
  have f21_5 : field z 21 5 = 0 := pk _ _ _ rfl
  have f26_6 : field z 26 6 = 44 := pk _ _ _ rfl
  simp [accept, decodeX, f0_11, f11_2, f13_3, f16_5, f21_5, f26_6]

theorem xPushValue (a : BitVec 5) (p : Peer) : Statement (.xPushValue a p) := by
  refine ofScalar [(13, 0), (1, 1), (2, p.code), (5, a.toNat), (5, 0), (6, 48)] rfl ⟨by decide, by decide, lt_of (p.code_lt), lt_of (a.isLt), by decide, by decide, trivial⟩ rfl (by show encXQ 0x30 0 a p true = _; simp only [cat, encXQ, BitVec.ofNat_eq_ofNat, BitVec.toNat_ofNat, bitCode, if_true]; try omega) fun z pk _ => ?_
  have t13 : bitField z 13 = true := bitField_of (pk _ _ _ rfl)
  have b16_5 : bvField 5 z 16 = a := bvField_of (pk _ _ _ rfl)
  have b21_5 : bvField 5 z 21 = 0#5 := bvField_of (pk _ _ _ rfl)
  have f0_13 : field z 0 13 = 0 := pk _ _ _ rfl
  have f14_2 : field z 14 2 = p.code := pk _ _ _ rfl
  have f16_5 : field z 16 5 = a.toNat := pk _ _ _ rfl
  have f21_5 : field z 21 5 = 0 := pk _ _ _ rfl
  have f26_6 : field z 26 6 = 48 := pk _ _ _ rfl
  simp [accept, decodeX, decodeXQueue, t13, b16_5, b21_5, f0_13, f14_2, f16_5, f21_5, f26_6]

theorem xPushBare (p : Peer) : Statement (.xPushBare p) := by
  refine ofScalar [(13, 0), (1, 0), (2, p.code), (5, 0), (5, 0), (6, 48)] rfl ⟨by decide, by decide, lt_of (p.code_lt), by decide, by decide, by decide, trivial⟩ rfl (by show encXQ 0x30 0 0 p false = _; simp only [cat, encXQ, BitVec.ofNat_eq_ofNat, BitVec.toNat_ofNat, bitCode, if_false, Bool.false_eq_true]; try omega) fun z pk _ => ?_
  have t13 : bitField z 13 = false := bitField_of (pk _ _ _ rfl)
  have b16_5 : bvField 5 z 16 = 0#5 := bvField_of (pk _ _ _ rfl)
  have b21_5 : bvField 5 z 21 = 0#5 := bvField_of (pk _ _ _ rfl)
  have f0_13 : field z 0 13 = 0 := pk _ _ _ rfl
  have f14_2 : field z 14 2 = p.code := pk _ _ _ rfl
  have f16_5 : field z 16 5 = 0 := pk _ _ _ rfl
  have f16_10 : field z 16 10 = 0 := pk _ _ _ rfl
  have f21_5 : field z 21 5 = 0 := pk _ _ _ rfl
  have f26_6 : field z 26 6 = 48 := pk _ _ _ rfl
  simp [accept, decodeX, decodeXQueue, t13, b16_5, b21_5, f0_13, f14_2, f16_5, f16_10, f21_5, f26_6]

theorem xPopValue (d : BitVec 5) (p : Peer) : Statement (.xPopValue d p) := by
  refine ofScalar [(13, 0), (1, 1), (2, p.code), (5, 0), (5, d.toNat), (6, 49)] rfl ⟨by decide, by decide, lt_of (p.code_lt), by decide, lt_of (d.isLt), by decide, trivial⟩ rfl (by show encXQ 0x31 d 0 p true = _; simp only [cat, encXQ, BitVec.ofNat_eq_ofNat, BitVec.toNat_ofNat, bitCode, if_true]; try omega) fun z pk _ => ?_
  have t13 : bitField z 13 = true := bitField_of (pk _ _ _ rfl)
  have b16_5 : bvField 5 z 16 = 0#5 := bvField_of (pk _ _ _ rfl)
  have b21_5 : bvField 5 z 21 = d := bvField_of (pk _ _ _ rfl)
  have f0_13 : field z 0 13 = 0 := pk _ _ _ rfl
  have f14_2 : field z 14 2 = p.code := pk _ _ _ rfl
  have f16_5 : field z 16 5 = 0 := pk _ _ _ rfl
  have f21_5 : field z 21 5 = d.toNat := pk _ _ _ rfl
  have f26_6 : field z 26 6 = 49 := pk _ _ _ rfl
  simp [accept, decodeX, decodeXQueue, t13, b16_5, b21_5, f0_13, f14_2, f16_5, f21_5, f26_6]

theorem xPopBare (p : Peer) : Statement (.xPopBare p) := by
  refine ofScalar [(13, 0), (1, 0), (2, p.code), (5, 0), (5, 0), (6, 49)] rfl ⟨by decide, by decide, lt_of (p.code_lt), by decide, by decide, by decide, trivial⟩ rfl (by show encXQ 0x31 0 0 p false = _; simp only [cat, encXQ, BitVec.ofNat_eq_ofNat, BitVec.toNat_ofNat, bitCode, if_false, Bool.false_eq_true]; try omega) fun z pk _ => ?_
  have t13 : bitField z 13 = false := bitField_of (pk _ _ _ rfl)
  have b16_5 : bvField 5 z 16 = 0#5 := bvField_of (pk _ _ _ rfl)
  have b21_5 : bvField 5 z 21 = 0#5 := bvField_of (pk _ _ _ rfl)
  have f0_13 : field z 0 13 = 0 := pk _ _ _ rfl
  have f14_2 : field z 14 2 = p.code := pk _ _ _ rfl
  have f16_5 : field z 16 5 = 0 := pk _ _ _ rfl
  have f16_10 : field z 16 10 = 0 := pk _ _ _ rfl
  have f21_5 : field z 21 5 = 0 := pk _ _ _ rfl
  have f26_6 : field z 26 6 = 49 := pk _ _ _ rfl
  simp [accept, decodeX, decodeXQueue, t13, b16_5, b21_5, f0_13, f14_2, f16_5, f16_10, f21_5, f26_6]

theorem xSema (k : BitVec 6) (n : BitVec 10) : Statement (.xSema k n) := by
  refine ofScalar [(10, n.toNat), (6, k.toNat), (5, 0), (5, 0), (6, 50)] rfl ⟨lt_of (n.isLt), lt_of (k.isLt), by decide, by decide, by decide, trivial⟩ rfl (by show 0x32 * 2 ^ 26 + k.toNat * 2 ^ 10 + n.toNat = _; simp only [cat]; try omega) fun z pk hwf => ?_
  replace hwf : (n != 0) = true := hwf
  have hz := toNat_ne hwf
  have hn := ne_zero hwf
  have b0_10 : bvField 10 z 0 = n := bvField_of (pk _ _ _ rfl)
  have b10_6 : bvField 6 z 10 = k := bvField_of (pk _ _ _ rfl)
  have f0_10 : field z 0 10 = n.toNat := pk _ _ _ rfl
  have f16_5 : field z 16 5 = 0 := pk _ _ _ rfl
  have f21_5 : field z 21 5 = 0 := pk _ _ _ rfl
  have f26_6 : field z 26 6 = 50 := pk _ _ _ rfl
  simp [accept, decodeX, hz, hn, b0_10, b10_6, f0_10, f16_5, f21_5, f26_6, hwf]

theorem xSemv (k : BitVec 6) (n : BitVec 10) : Statement (.xSemv k n) := by
  refine ofScalar [(10, n.toNat), (6, k.toNat), (5, 0), (5, 0), (6, 51)] rfl ⟨lt_of (n.isLt), lt_of (k.isLt), by decide, by decide, by decide, trivial⟩ rfl (by show 0x33 * 2 ^ 26 + k.toNat * 2 ^ 10 + n.toNat = _; simp only [cat]; try omega) fun z pk hwf => ?_
  replace hwf : (n != 0) = true := hwf
  have hz := toNat_ne hwf
  have hn := ne_zero hwf
  have b0_10 : bvField 10 z 0 = n := bvField_of (pk _ _ _ rfl)
  have b10_6 : bvField 6 z 10 = k := bvField_of (pk _ _ _ rfl)
  have f0_10 : field z 0 10 = n.toNat := pk _ _ _ rfl
  have f16_5 : field z 16 5 = 0 := pk _ _ _ rfl
  have f21_5 : field z 21 5 = 0 := pk _ _ _ rfl
  have f26_6 : field z 26 6 = 51 := pk _ _ _ rfl
  simp [accept, decodeX, hz, hn, b0_10, b10_6, f0_10, f16_5, f21_5, f26_6, hwf]

theorem barr (a : BitVec 5) : Statement (.barr a) := by
  refine ofScalar [(16, 0), (5, a.toNat), (5, 0), (6, 52)] rfl ⟨by decide, lt_of (a.isLt), by decide, by decide, trivial⟩ rfl (by show encXR 0x34 0 a 0 0 0 = _; simp only [cat, encXR, BitVec.ofNat_eq_ofNat, BitVec.toNat_ofNat]; try omega) fun z pk _ => ?_
  have b16_5 : bvField 5 z 16 = a := bvField_of (pk _ _ _ rfl)
  have f0_16 : field z 0 16 = 0 := pk _ _ _ rfl
  have f21_5 : field z 21 5 = 0 := pk _ _ _ rfl
  have f26_6 : field z 26 6 = 52 := pk _ _ _ rfl
  simp [accept, decodeX, b16_5, f0_16, f21_5, f26_6]

theorem bexp (a : BitVec 5) (b : BitVec 5) : Statement (.bexp a b) := by
  refine ofScalar [(11, 0), (5, b.toNat), (5, a.toNat), (5, 0), (6, 53)] rfl ⟨by decide, lt_of (b.isLt), lt_of (a.isLt), by decide, by decide, trivial⟩ rfl (by show encXR 0x35 0 a b 0 0 = _; simp only [cat, encXR, BitVec.ofNat_eq_ofNat, BitVec.toNat_ofNat]; try omega) fun z pk _ => ?_
  have b11_5 : bvField 5 z 11 = b := bvField_of (pk _ _ _ rfl)
  have b16_5 : bvField 5 z 16 = a := bvField_of (pk _ _ _ rfl)
  have f0_11 : field z 0 11 = 0 := pk _ _ _ rfl
  have f21_5 : field z 21 5 = 0 := pk _ _ _ rfl
  have f26_6 : field z 26 6 = 53 := pk _ _ _ rfl
  simp [accept, decodeX, b11_5, b16_5, f0_11, f21_5, f26_6]

theorem bwait (a : BitVec 5) (b : BitVec 5) (k : BitVec 6) : Statement (.bwait a b k) := by
  refine ofScalar [(5, 0), (6, k.toNat), (5, b.toNat), (5, a.toNat), (5, 0), (6, 54)] rfl ⟨by decide, lt_of (k.isLt), lt_of (b.isLt), lt_of (a.isLt), by decide, by decide, trivial⟩ rfl (by show 0x36 * 2 ^ 26 + a.toNat * 2 ^ 16 + b.toNat * 2 ^ 11 + k.toNat * 2 ^ 5 = _; simp only [cat]; try omega) fun z pk _ => ?_
  have b5_6 : bvField 6 z 5 = k := bvField_of (pk _ _ _ rfl)
  have b11_5 : bvField 5 z 11 = b := bvField_of (pk _ _ _ rfl)
  have b16_5 : bvField 5 z 16 = a := bvField_of (pk _ _ _ rfl)
  have f0_5 : field z 0 5 = 0 := pk _ _ _ rfl
  have f21_5 : field z 21 5 = 0 := pk _ _ _ rfl
  have f26_6 : field z 26 6 = 54 := pk _ _ _ rfl
  simp [accept, decodeX, b5_6, b11_5, b16_5, f0_5, f21_5, f26_6]

theorem msend (d : BitVec 5) (a : BitVec 5) (b : BitVec 5) : Statement (.msend d a b) := by
  refine ofScalar [(11, 0), (5, b.toNat), (5, a.toNat), (5, d.toNat), (6, 55)] rfl ⟨by decide, lt_of (b.isLt), lt_of (a.isLt), lt_of (d.isLt), by decide, trivial⟩ rfl (by show encXR 0x37 d a b 0 0 = _; simp only [cat, encXR, BitVec.ofNat_eq_ofNat, BitVec.toNat_ofNat]; try omega) fun z pk _ => ?_
  have b11_5 : bvField 5 z 11 = b := bvField_of (pk _ _ _ rfl)
  have b16_5 : bvField 5 z 16 = a := bvField_of (pk _ _ _ rfl)
  have b21_5 : bvField 5 z 21 = d := bvField_of (pk _ _ _ rfl)
  have f0_11 : field z 0 11 = 0 := pk _ _ _ rfl
  have f26_6 : field z 26 6 = 55 := pk _ _ _ rfl
  simp [accept, decodeX, b11_5, b16_5, b21_5, f0_11, f26_6]

theorem hend : Statement (.hend) := by
  refine ofScalar [(26, 0), (6, 56)] rfl ⟨by decide, by decide, trivial⟩ rfl (by show 0x38 * 2 ^ 26 = _; simp only [cat]; try omega) fun z pk _ => ?_
  have f0_26 : field z 0 26 = 0 := pk _ _ _ rfl
  have f26_6 : field z 26 6 = 56 := pk _ _ _ rfl
  simp [accept, decodeX, f0_26, f26_6]

theorem launch (a : BitVec 5) (q : BitVec 2) : Statement (.launch a q) := by
  refine ofScalar [(14, 0), (2, q.toNat), (5, a.toNat), (5, 0), (6, 57)] rfl ⟨by decide, lt_of (q.isLt), lt_of (a.isLt), by decide, by decide, trivial⟩ rfl (by show 0x39 * 2 ^ 26 + a.toNat * 2 ^ 16 + q.toNat * 2 ^ 14 = _; simp only [cat]; try omega) fun z pk _ => ?_
  have b14_2 : bvField 2 z 14 = q := bvField_of (pk _ _ _ rfl)
  have b16_5 : bvField 5 z 16 = a := bvField_of (pk _ _ _ rfl)
  have f0_14 : field z 0 14 = 0 := pk _ _ _ rfl
  have f21_5 : field z 21 5 = 0 := pk _ _ _ rfl
  have f26_6 : field z 26 6 = 57 := pk _ _ _ rfl
  simp [accept, decodeX, b14_2, b16_5, f0_14, f21_5, f26_6]

theorem rsys (d : BitVec 5) (k : BitVec 16) : Statement (.rsys d k) := by
  refine ofScalar [(16, k.toNat), (5, 0), (5, d.toNat), (6, 58)] rfl ⟨lt_of (k.isLt), by decide, lt_of (d.isLt), by decide, trivial⟩ rfl (by show encXI 0x3A d 0 k = _; simp only [cat, encXI, BitVec.ofNat_eq_ofNat, BitVec.toNat_ofNat]; try omega) fun z pk _ => ?_
  have b0_16 : bvField 16 z 0 = k := bvField_of (pk _ _ _ rfl)
  have b21_5 : bvField 5 z 21 = d := bvField_of (pk _ _ _ rfl)
  have f16_5 : field z 16 5 = 0 := pk _ _ _ rfl
  have f26_6 : field z 26 6 = 58 := pk _ _ _ rfl
  simp [accept, decodeX, b0_16, b21_5, f16_5, f26_6]

theorem wsys (a : BitVec 5) (k : BitVec 16) : Statement (.wsys a k) := by
  refine ofScalar [(16, k.toNat), (5, a.toNat), (5, 0), (6, 59)] rfl ⟨lt_of (k.isLt), lt_of (a.isLt), by decide, by decide, trivial⟩ rfl (by show encXI 0x3B 0 a k = _; simp only [cat, encXI, BitVec.ofNat_eq_ofNat, BitVec.toNat_ofNat]; try omega) fun z pk _ => ?_
  have b0_16 : bvField 16 z 0 = k := bvField_of (pk _ _ _ rfl)
  have b16_5 : bvField 5 z 16 = a := bvField_of (pk _ _ _ rfl)
  have f21_5 : field z 21 5 = 0 := pk _ _ _ rfl
  have f26_6 : field z 26 6 = 59 := pk _ _ _ rfl
  simp [accept, decodeX, b0_16, b16_5, f21_5, f26_6]

theorem sys (k : BitVec 16) : Statement (.sys k) := by
  refine ofScalar [(16, k.toNat), (5, 0), (5, 0), (6, 60)] rfl ⟨lt_of (k.isLt), by decide, by decide, by decide, trivial⟩ rfl (by show encXI 0x3C 0 0 k = _; simp only [cat, encXI, BitVec.ofNat_eq_ofNat, BitVec.toNat_ofNat]; try omega) fun z pk _ => ?_
  have b0_16 : bvField 16 z 0 = k := bvField_of (pk _ _ _ rfl)
  have f16_5 : field z 16 5 = 0 := pk _ _ _ rfl
  have f21_5 : field z 21 5 = 0 := pk _ _ _ rfl
  have f26_6 : field z 26 6 = 60 := pk _ _ _ rfl
  simp [accept, decodeX, b0_16, f16_5, f21_5, f26_6]

theorem tret : Statement (.tret) := by
  refine ofScalar [(26, 0), (6, 61)] rfl ⟨by decide, by decide, trivial⟩ rfl (by show 0x3D * 2 ^ 26 = _; simp only [cat]; try omega) fun z pk _ => ?_
  have f0_26 : field z 0 26 = 0 := pk _ _ _ rfl
  have f26_6 : field z 26 6 = 61 := pk _ _ _ rfl
  simp [accept, decodeX, f0_26, f26_6]

theorem xEnd : Statement (.xEnd) := by
  refine ofScalar [(26, 0), (6, 62)] rfl ⟨by decide, by decide, trivial⟩ rfl (by show 0x3E * 2 ^ 26 = _; simp only [cat]; try omega) fun z pk _ => ?_
  have f0_26 : field z 0 26 = 0 := pk _ _ _ rfl
  have f26_6 : field z 26 6 = 62 := pk _ _ _ rfl
  simp [accept, decodeX, f0_26, f26_6]

theorem xNop : Statement (.xNop) := by
  refine ofScalar [(26, 0), (6, 63)] rfl ⟨by decide, by decide, trivial⟩ rfl (by show 0x3F * 2 ^ 26 = _; simp only [cat]; try omega) fun z pk _ => ?_
  have f0_26 : field z 0 26 = 0 := pk _ _ _ rfl
  have f26_6 : field z 26 6 = 63 := pk _ _ _ rfl
  simp [accept, decodeX, f0_26, f26_6]

theorem lsAddi (d : BitVec 4) (a : BitVec 4) (imm : BitVec 12) (t : Token) : Statement (.lsAddi d a imm t) := by
  refine ofLoadStore [(6, t.toNat), (12, imm.toNat), (4, a.toNat), (4, d.toNat), (6, 1)] rfl ⟨lt_of (t.isLt), lt_of (imm.isLt), lt_of (a.isLt), lt_of (d.isLt), by decide, trivial⟩ rfl (by show encSA 0x01 d a imm t = _; simp only [cat, encSA]; try omega) fun z pk _ => ?_
  have b0_6 : bvField 6 z 0 = t := bvField_of (pk _ _ _ rfl)
  have b6_12 : bvField 12 z 6 = imm := bvField_of (pk _ _ _ rfl)
  have b18_4 : bvField 4 z 18 = a := bvField_of (pk _ _ _ rfl)
  have b22_4 : bvField 4 z 22 = d := bvField_of (pk _ _ _ rfl)
  have f26_6 : field z 26 6 = 1 := pk _ _ _ rfl
  constructor
  · simp [decodeL, decodeLS, b0_6, b6_12, b18_4, b22_4, f26_6]
  · simp [decodeLS, decodeS, b0_6, b6_12, b18_4, b22_4, f26_6]

theorem lsAdd (d : BitVec 4) (a : BitVec 4) (b : BitVec 4) (t : Token) : Statement (.lsAdd d a b t) := by
  refine ofLoadStore [(6, t.toNat), (8, 1), (4, b.toNat), (4, a.toNat), (4, d.toNat), (6, 2)] rfl ⟨lt_of (t.isLt), by decide, lt_of (b.isLt), lt_of (a.isLt), lt_of (d.isLt), by decide, trivial⟩ rfl (by show encSR d a b 0x1 t = _; simp only [cat, encSR]; try omega) fun z pk _ => ?_
  have b0_6 : bvField 6 z 0 = t := bvField_of (pk _ _ _ rfl)
  have b14_4 : bvField 4 z 14 = b := bvField_of (pk _ _ _ rfl)
  have b18_4 : bvField 4 z 18 = a := bvField_of (pk _ _ _ rfl)
  have b22_4 : bvField 4 z 22 = d := bvField_of (pk _ _ _ rfl)
  have f6_8 : field z 6 8 = 1 := pk _ _ _ rfl
  have f26_6 : field z 26 6 = 2 := pk _ _ _ rfl
  constructor
  · simp [decodeL, decodeLS, decodeLSReg, b0_6, b14_4, b18_4, b22_4, f6_8, f26_6]
  · simp [decodeLS, decodeLSReg, decodeS, b0_6, b14_4, b18_4, b22_4, f6_8, f26_6]

theorem lsSub (d : BitVec 4) (a : BitVec 4) (b : BitVec 4) (t : Token) : Statement (.lsSub d a b t) := by
  refine ofLoadStore [(6, t.toNat), (8, 2), (4, b.toNat), (4, a.toNat), (4, d.toNat), (6, 2)] rfl ⟨lt_of (t.isLt), by decide, lt_of (b.isLt), lt_of (a.isLt), lt_of (d.isLt), by decide, trivial⟩ rfl (by show encSR d a b 0x2 t = _; simp only [cat, encSR]; try omega) fun z pk _ => ?_
  have b0_6 : bvField 6 z 0 = t := bvField_of (pk _ _ _ rfl)
  have b14_4 : bvField 4 z 14 = b := bvField_of (pk _ _ _ rfl)
  have b18_4 : bvField 4 z 18 = a := bvField_of (pk _ _ _ rfl)
  have b22_4 : bvField 4 z 22 = d := bvField_of (pk _ _ _ rfl)
  have f6_8 : field z 6 8 = 2 := pk _ _ _ rfl
  have f26_6 : field z 26 6 = 2 := pk _ _ _ rfl
  constructor
  · simp [decodeL, decodeLS, decodeLSReg, b0_6, b14_4, b18_4, b22_4, f6_8, f26_6]
  · simp [decodeLS, decodeLSReg, decodeS, b0_6, b14_4, b18_4, b22_4, f6_8, f26_6]

theorem lsMul (d : BitVec 4) (a : BitVec 4) (b : BitVec 4) (t : Token) : Statement (.lsMul d a b t) := by
  refine ofLoadStore [(6, t.toNat), (8, 3), (4, b.toNat), (4, a.toNat), (4, d.toNat), (6, 2)] rfl ⟨lt_of (t.isLt), by decide, lt_of (b.isLt), lt_of (a.isLt), lt_of (d.isLt), by decide, trivial⟩ rfl (by show encSR d a b 0x3 t = _; simp only [cat, encSR]; try omega) fun z pk _ => ?_
  have b0_6 : bvField 6 z 0 = t := bvField_of (pk _ _ _ rfl)
  have b14_4 : bvField 4 z 14 = b := bvField_of (pk _ _ _ rfl)
  have b18_4 : bvField 4 z 18 = a := bvField_of (pk _ _ _ rfl)
  have b22_4 : bvField 4 z 22 = d := bvField_of (pk _ _ _ rfl)
  have f6_8 : field z 6 8 = 3 := pk _ _ _ rfl
  have f26_6 : field z 26 6 = 2 := pk _ _ _ rfl
  constructor
  · simp [decodeL, decodeLS, decodeLSReg, b0_6, b14_4, b18_4, b22_4, f6_8, f26_6]
  · simp [decodeLS, decodeLSReg, decodeS, b0_6, b14_4, b18_4, b22_4, f6_8, f26_6]

theorem lsAnd (d : BitVec 4) (a : BitVec 4) (b : BitVec 4) (t : Token) : Statement (.lsAnd d a b t) := by
  refine ofLoadStore [(6, t.toNat), (8, 4), (4, b.toNat), (4, a.toNat), (4, d.toNat), (6, 2)] rfl ⟨lt_of (t.isLt), by decide, lt_of (b.isLt), lt_of (a.isLt), lt_of (d.isLt), by decide, trivial⟩ rfl (by show encSR d a b 0x4 t = _; simp only [cat, encSR]; try omega) fun z pk _ => ?_
  have b0_6 : bvField 6 z 0 = t := bvField_of (pk _ _ _ rfl)
  have b14_4 : bvField 4 z 14 = b := bvField_of (pk _ _ _ rfl)
  have b18_4 : bvField 4 z 18 = a := bvField_of (pk _ _ _ rfl)
  have b22_4 : bvField 4 z 22 = d := bvField_of (pk _ _ _ rfl)
  have f6_8 : field z 6 8 = 4 := pk _ _ _ rfl
  have f26_6 : field z 26 6 = 2 := pk _ _ _ rfl
  constructor
  · simp [decodeL, decodeLS, decodeLSReg, b0_6, b14_4, b18_4, b22_4, f6_8, f26_6]
  · simp [decodeLS, decodeLSReg, decodeS, b0_6, b14_4, b18_4, b22_4, f6_8, f26_6]

theorem lsOr (d : BitVec 4) (a : BitVec 4) (b : BitVec 4) (t : Token) : Statement (.lsOr d a b t) := by
  refine ofLoadStore [(6, t.toNat), (8, 5), (4, b.toNat), (4, a.toNat), (4, d.toNat), (6, 2)] rfl ⟨lt_of (t.isLt), by decide, lt_of (b.isLt), lt_of (a.isLt), lt_of (d.isLt), by decide, trivial⟩ rfl (by show encSR d a b 0x5 t = _; simp only [cat, encSR]; try omega) fun z pk _ => ?_
  have b0_6 : bvField 6 z 0 = t := bvField_of (pk _ _ _ rfl)
  have b14_4 : bvField 4 z 14 = b := bvField_of (pk _ _ _ rfl)
  have b18_4 : bvField 4 z 18 = a := bvField_of (pk _ _ _ rfl)
  have b22_4 : bvField 4 z 22 = d := bvField_of (pk _ _ _ rfl)
  have f6_8 : field z 6 8 = 5 := pk _ _ _ rfl
  have f26_6 : field z 26 6 = 2 := pk _ _ _ rfl
  constructor
  · simp [decodeL, decodeLS, decodeLSReg, b0_6, b14_4, b18_4, b22_4, f6_8, f26_6]
  · simp [decodeLS, decodeLSReg, decodeS, b0_6, b14_4, b18_4, b22_4, f6_8, f26_6]

theorem lsXor (d : BitVec 4) (a : BitVec 4) (b : BitVec 4) (t : Token) : Statement (.lsXor d a b t) := by
  refine ofLoadStore [(6, t.toNat), (8, 6), (4, b.toNat), (4, a.toNat), (4, d.toNat), (6, 2)] rfl ⟨lt_of (t.isLt), by decide, lt_of (b.isLt), lt_of (a.isLt), lt_of (d.isLt), by decide, trivial⟩ rfl (by show encSR d a b 0x6 t = _; simp only [cat, encSR]; try omega) fun z pk _ => ?_
  have b0_6 : bvField 6 z 0 = t := bvField_of (pk _ _ _ rfl)
  have b14_4 : bvField 4 z 14 = b := bvField_of (pk _ _ _ rfl)
  have b18_4 : bvField 4 z 18 = a := bvField_of (pk _ _ _ rfl)
  have b22_4 : bvField 4 z 22 = d := bvField_of (pk _ _ _ rfl)
  have f6_8 : field z 6 8 = 6 := pk _ _ _ rfl
  have f26_6 : field z 26 6 = 2 := pk _ _ _ rfl
  constructor
  · simp [decodeL, decodeLS, decodeLSReg, b0_6, b14_4, b18_4, b22_4, f6_8, f26_6]
  · simp [decodeLS, decodeLSReg, decodeS, b0_6, b14_4, b18_4, b22_4, f6_8, f26_6]

theorem lsSll (d : BitVec 4) (a : BitVec 4) (b : BitVec 4) (t : Token) : Statement (.lsSll d a b t) := by
  refine ofLoadStore [(6, t.toNat), (8, 7), (4, b.toNat), (4, a.toNat), (4, d.toNat), (6, 2)] rfl ⟨lt_of (t.isLt), by decide, lt_of (b.isLt), lt_of (a.isLt), lt_of (d.isLt), by decide, trivial⟩ rfl (by show encSR d a b 0x7 t = _; simp only [cat, encSR]; try omega) fun z pk _ => ?_
  have b0_6 : bvField 6 z 0 = t := bvField_of (pk _ _ _ rfl)
  have b14_4 : bvField 4 z 14 = b := bvField_of (pk _ _ _ rfl)
  have b18_4 : bvField 4 z 18 = a := bvField_of (pk _ _ _ rfl)
  have b22_4 : bvField 4 z 22 = d := bvField_of (pk _ _ _ rfl)
  have f6_8 : field z 6 8 = 7 := pk _ _ _ rfl
  have f26_6 : field z 26 6 = 2 := pk _ _ _ rfl
  constructor
  · simp [decodeL, decodeLS, decodeLSReg, b0_6, b14_4, b18_4, b22_4, f6_8, f26_6]
  · simp [decodeLS, decodeLSReg, decodeS, b0_6, b14_4, b18_4, b22_4, f6_8, f26_6]

theorem lsSrl (d : BitVec 4) (a : BitVec 4) (b : BitVec 4) (t : Token) : Statement (.lsSrl d a b t) := by
  refine ofLoadStore [(6, t.toNat), (8, 8), (4, b.toNat), (4, a.toNat), (4, d.toNat), (6, 2)] rfl ⟨lt_of (t.isLt), by decide, lt_of (b.isLt), lt_of (a.isLt), lt_of (d.isLt), by decide, trivial⟩ rfl (by show encSR d a b 0x8 t = _; simp only [cat, encSR]; try omega) fun z pk _ => ?_
  have b0_6 : bvField 6 z 0 = t := bvField_of (pk _ _ _ rfl)
  have b14_4 : bvField 4 z 14 = b := bvField_of (pk _ _ _ rfl)
  have b18_4 : bvField 4 z 18 = a := bvField_of (pk _ _ _ rfl)
  have b22_4 : bvField 4 z 22 = d := bvField_of (pk _ _ _ rfl)
  have f6_8 : field z 6 8 = 8 := pk _ _ _ rfl
  have f26_6 : field z 26 6 = 2 := pk _ _ _ rfl
  constructor
  · simp [decodeL, decodeLS, decodeLSReg, b0_6, b14_4, b18_4, b22_4, f6_8, f26_6]
  · simp [decodeLS, decodeLSReg, decodeS, b0_6, b14_4, b18_4, b22_4, f6_8, f26_6]

theorem li (d : BitVec 4) (imm : BitVec 16) (t : Token) : Statement (.li d imm t) := by
  refine ofLoadStore [(6, t.toNat), (16, imm.toNat), (4, d.toNat), (6, 3)] rfl ⟨lt_of (t.isLt), lt_of (imm.isLt), lt_of (d.isLt), by decide, trivial⟩ rfl (by show 0x03 * 2 ^ 26 + d.toNat * 2 ^ 22 + imm.toNat * 2 ^ 6 + t.toNat = _; simp only [cat]; try omega) fun z pk _ => ?_
  have b0_6 : bvField 6 z 0 = t := bvField_of (pk _ _ _ rfl)
  have b6_16 : bvField 16 z 6 = imm := bvField_of (pk _ _ _ rfl)
  have b22_4 : bvField 4 z 22 = d := bvField_of (pk _ _ _ rfl)
  have f26_6 : field z 26 6 = 3 := pk _ _ _ rfl
  constructor
  · simp [decodeL, decodeLS, b0_6, b6_16, b22_4, f26_6]
  · simp [decodeLS, decodeS, b0_6, b6_16, b22_4, f26_6]

theorem lih (d : BitVec 4) (imm : BitVec 16) (t : Token) : Statement (.lih d imm t) := by
  refine ofLoadStore [(6, t.toNat), (16, imm.toNat), (4, d.toNat), (6, 4)] rfl ⟨lt_of (t.isLt), lt_of (imm.isLt), lt_of (d.isLt), by decide, trivial⟩ rfl (by show 0x04 * 2 ^ 26 + d.toNat * 2 ^ 22 + imm.toNat * 2 ^ 6 + t.toNat = _; simp only [cat]; try omega) fun z pk _ => ?_
  have b0_6 : bvField 6 z 0 = t := bvField_of (pk _ _ _ rfl)
  have b6_16 : bvField 16 z 6 = imm := bvField_of (pk _ _ _ rfl)
  have b22_4 : bvField 4 z 22 = d := bvField_of (pk _ _ _ rfl)
  have f26_6 : field z 26 6 = 4 := pk _ _ _ rfl
  constructor
  · simp [decodeL, decodeLS, b0_6, b6_16, b22_4, f26_6]
  · simp [decodeLS, decodeS, b0_6, b6_16, b22_4, f26_6]

theorem shli (d : BitVec 4) (a : BitVec 4) (n : BitVec 6) (t : Token) : Statement (.shli d a n t) := by
  refine ofLoadStore [(6, t.toNat), (6, n.toNat), (6, 0), (4, a.toNat), (4, d.toNat), (6, 5)] rfl ⟨lt_of (t.isLt), lt_of (n.isLt), by decide, lt_of (a.isLt), lt_of (d.isLt), by decide, trivial⟩ rfl (by show encSA 0x05 d a (n.setWidth 12) t = _; simp only [cat, encSA, BitVec.ofNat_eq_ofNat, BitVec.toNat_ofNat, BitVec.toNat_setWidth]; try omega) fun z pk _ => ?_
  have b0_6 : bvField 6 z 0 = t := bvField_of (pk _ _ _ rfl)
  have b6_6 : bvField 6 z 6 = n := bvField_of (pk _ _ _ rfl)
  have b18_4 : bvField 4 z 18 = a := bvField_of (pk _ _ _ rfl)
  have b22_4 : bvField 4 z 22 = d := bvField_of (pk _ _ _ rfl)
  have f12_6 : field z 12 6 = 0 := pk _ _ _ rfl
  have f26_6 : field z 26 6 = 5 := pk _ _ _ rfl
  constructor
  · simp [accept, decodeL, decodeLS, b0_6, b6_6, b18_4, b22_4, f12_6, f26_6]
  · simp [accept, decodeLS, decodeS, b0_6, b6_6, b18_4, b22_4, f12_6, f26_6]

theorem shri (d : BitVec 4) (a : BitVec 4) (n : BitVec 6) (t : Token) : Statement (.shri d a n t) := by
  refine ofLoadStore [(6, t.toNat), (6, n.toNat), (6, 0), (4, a.toNat), (4, d.toNat), (6, 6)] rfl ⟨lt_of (t.isLt), lt_of (n.isLt), by decide, lt_of (a.isLt), lt_of (d.isLt), by decide, trivial⟩ rfl (by show encSA 0x06 d a (n.setWidth 12) t = _; simp only [cat, encSA, BitVec.ofNat_eq_ofNat, BitVec.toNat_ofNat, BitVec.toNat_setWidth]; try omega) fun z pk _ => ?_
  have b0_6 : bvField 6 z 0 = t := bvField_of (pk _ _ _ rfl)
  have b6_6 : bvField 6 z 6 = n := bvField_of (pk _ _ _ rfl)
  have b18_4 : bvField 4 z 18 = a := bvField_of (pk _ _ _ rfl)
  have b22_4 : bvField 4 z 22 = d := bvField_of (pk _ _ _ rfl)
  have f12_6 : field z 12 6 = 0 := pk _ _ _ rfl
  have f26_6 : field z 26 6 = 6 := pk _ _ _ rfl
  constructor
  · simp [accept, decodeL, decodeLS, b0_6, b6_6, b18_4, b22_4, f12_6, f26_6]
  · simp [accept, decodeLS, decodeS, b0_6, b6_6, b18_4, b22_4, f12_6, f26_6]

theorem lset (a : BitVec 4) (k : BitVec 2) (t : Token) : Statement (.lset a k t) := by
  refine ofLoadStore [(6, t.toNat), (14, 0), (2, k.toNat), (4, a.toNat), (6, 8)] rfl ⟨lt_of (t.isLt), by decide, lt_of (k.isLt), lt_of (a.isLt), by decide, trivial⟩ rfl (by show encSL 0x08 a k 0 t = _; simp only [cat, encSL, BitVec.ofNat_eq_ofNat, BitVec.toNat_ofNat]; try omega) fun z pk _ => ?_
  have b0_6 : bvField 6 z 0 = t := bvField_of (pk _ _ _ rfl)
  have b20_2 : bvField 2 z 20 = k := bvField_of (pk _ _ _ rfl)
  have b22_4 : bvField 4 z 22 = a := bvField_of (pk _ _ _ rfl)
  have f6_14 : field z 6 14 = 0 := pk _ _ _ rfl
  have f26_6 : field z 26 6 = 8 := pk _ _ _ rfl
  constructor
  · simp [accept, decodeL, decodeLS, b0_6, b20_2, b22_4, f6_14, f26_6]
  · simp [accept, decodeLS, decodeS, b0_6, b20_2, b22_4, f6_14, f26_6]

theorem lnext (k : BitVec 2) (off : BitVec 12) (t : Token) : Statement (.lnext k off t) := by
  refine ofLoadStore [(6, t.toNat), (12, off.toNat), (2, 0), (2, k.toNat), (4, 0), (6, 9)] rfl ⟨lt_of (t.isLt), lt_of (off.isLt), by decide, lt_of (k.isLt), by decide, by decide, trivial⟩ rfl (by show encSL 0x09 0 k off t = _; simp only [cat, encSL, BitVec.ofNat_eq_ofNat, BitVec.toNat_ofNat]; try omega) fun z pk _ => ?_
  have b0_6 : bvField 6 z 0 = t := bvField_of (pk _ _ _ rfl)
  have b6_12 : bvField 12 z 6 = off := bvField_of (pk _ _ _ rfl)
  have b20_2 : bvField 2 z 20 = k := bvField_of (pk _ _ _ rfl)
  have f18_2 : field z 18 2 = 0 := pk _ _ _ rfl
  have f22_4 : field z 22 4 = 0 := pk _ _ _ rfl
  have f26_6 : field z 26 6 = 9 := pk _ _ _ rfl
  constructor
  · simp [accept, decodeL, decodeLS, b0_6, b6_12, b20_2, f18_2, f22_4, f26_6]
  · simp [accept, decodeLS, decodeS, b0_6, b6_12, b20_2, f18_2, f22_4, f26_6]

theorem bz (a : BitVec 4) (off : BitVec 12) (t : Token) : Statement (.bz a off t) := by
  refine ofLoadStore [(6, t.toNat), (12, off.toNat), (4, 0), (4, a.toNat), (6, 10)] rfl ⟨lt_of (t.isLt), lt_of (off.isLt), by decide, lt_of (a.isLt), by decide, trivial⟩ rfl (by show encSL 0x0A a 0 off t = _; simp only [cat, encSL, BitVec.ofNat_eq_ofNat, BitVec.toNat_ofNat]; try omega) fun z pk _ => ?_
  have b0_6 : bvField 6 z 0 = t := bvField_of (pk _ _ _ rfl)
  have b6_12 : bvField 12 z 6 = off := bvField_of (pk _ _ _ rfl)
  have b22_4 : bvField 4 z 22 = a := bvField_of (pk _ _ _ rfl)
  have f18_4 : field z 18 4 = 0 := pk _ _ _ rfl
  have f26_6 : field z 26 6 = 10 := pk _ _ _ rfl
  constructor
  · simp [accept, decodeL, decodeLS, b0_6, b6_12, b22_4, f18_4, f26_6]
  · simp [accept, decodeLS, decodeS, b0_6, b6_12, b22_4, f18_4, f26_6]

theorem bnz (a : BitVec 4) (off : BitVec 12) (t : Token) : Statement (.bnz a off t) := by
  refine ofLoadStore [(6, t.toNat), (12, off.toNat), (4, 0), (4, a.toNat), (6, 11)] rfl ⟨lt_of (t.isLt), lt_of (off.isLt), by decide, lt_of (a.isLt), by decide, trivial⟩ rfl (by show encSL 0x0B a 0 off t = _; simp only [cat, encSL, BitVec.ofNat_eq_ofNat, BitVec.toNat_ofNat]; try omega) fun z pk _ => ?_
  have b0_6 : bvField 6 z 0 = t := bvField_of (pk _ _ _ rfl)
  have b6_12 : bvField 12 z 6 = off := bvField_of (pk _ _ _ rfl)
  have b22_4 : bvField 4 z 22 = a := bvField_of (pk _ _ _ rfl)
  have f18_4 : field z 18 4 = 0 := pk _ _ _ rfl
  have f26_6 : field z 26 6 = 11 := pk _ _ _ rfl
  constructor
  · simp [accept, decodeL, decodeLS, b0_6, b6_12, b22_4, f18_4, f26_6]
  · simp [accept, decodeLS, decodeS, b0_6, b6_12, b22_4, f18_4, f26_6]

theorem lsJ (off : BitVec 20) (t : Token) : Statement (.lsJ off t) := by
  refine ofLoadStore [(6, t.toNat), (20, off.toNat), (6, 12)] rfl ⟨lt_of (t.isLt), lt_of (off.isLt), by decide, trivial⟩ rfl (by show 0x0C * 2 ^ 26 + off.toNat * 2 ^ 6 + t.toNat = _; simp only [cat]; try omega) fun z pk _ => ?_
  have b0_6 : bvField 6 z 0 = t := bvField_of (pk _ _ _ rfl)
  have b6_20 : bvField 20 z 6 = off := bvField_of (pk _ _ _ rfl)
  have f26_6 : field z 26 6 = 12 := pk _ _ _ rfl
  constructor
  · simp [decodeL, decodeLS, b0_6, b6_20, f26_6]
  · simp [decodeLS, decodeS, b0_6, b6_20, f26_6]

theorem qpopValue (d : BitVec 4) (p : Peer) (t : Token) : Statement (.qpopValue d p t) := by
  refine ofLoadStore [(6, t.toNat), (13, 0), (1, 1), (2, p.code), (4, d.toNat), (6, 13)] rfl ⟨lt_of (t.isLt), by decide, by decide, lt_of (p.code_lt), lt_of (d.isLt), by decide, trivial⟩ rfl (by show encSQ 0x0D d p true t = _; simp only [cat, encSQ, bitCode, if_true]; try omega) fun z pk _ => ?_
  have t19 : bitField z 19 = true := bitField_of (pk _ _ _ rfl)
  have b0_6 : bvField 6 z 0 = t := bvField_of (pk _ _ _ rfl)
  have b22_4 : bvField 4 z 22 = d := bvField_of (pk _ _ _ rfl)
  have f6_13 : field z 6 13 = 0 := pk _ _ _ rfl
  have f20_2 : field z 20 2 = p.code := pk _ _ _ rfl
  have f22_4 : field z 22 4 = d.toNat := pk _ _ _ rfl
  have f26_6 : field z 26 6 = 13 := pk _ _ _ rfl
  constructor
  · simp [accept, decodeL, decodeLS, decodeLSQueue, t19, b0_6, b22_4, f6_13, f20_2, f22_4, f26_6]
  · simp [accept, decodeLS, decodeLSQueue, decodeS, t19, b0_6, b22_4, f6_13, f20_2, f22_4, f26_6]

theorem qpopBare (p : Peer) (t : Token) : Statement (.qpopBare p t) := by
  refine ofLoadStore [(6, t.toNat), (13, 0), (1, 0), (2, p.code), (4, 0), (6, 13)] rfl ⟨lt_of (t.isLt), by decide, by decide, lt_of (p.code_lt), by decide, by decide, trivial⟩ rfl (by show encSQ 0x0D 0 p false t = _; simp only [cat, encSQ, BitVec.ofNat_eq_ofNat, BitVec.toNat_ofNat, bitCode, if_false, Bool.false_eq_true]; try omega) fun z pk _ => ?_
  have t19 : bitField z 19 = false := bitField_of (pk _ _ _ rfl)
  have b0_6 : bvField 6 z 0 = t := bvField_of (pk _ _ _ rfl)
  have b22_4 : bvField 4 z 22 = 0#4 := bvField_of (pk _ _ _ rfl)
  have f6_13 : field z 6 13 = 0 := pk _ _ _ rfl
  have f20_2 : field z 20 2 = p.code := pk _ _ _ rfl
  have f22_4 : field z 22 4 = 0 := pk _ _ _ rfl
  have f26_6 : field z 26 6 = 13 := pk _ _ _ rfl
  constructor
  · simp [accept, decodeL, decodeLS, decodeLSQueue, t19, b0_6, b22_4, f6_13, f20_2, f22_4, f26_6]
  · simp [accept, decodeLS, decodeLSQueue, decodeS, t19, b0_6, b22_4, f6_13, f20_2, f22_4, f26_6]

theorem qpushValue (a : BitVec 4) (p : Peer) (t : Token) : Statement (.qpushValue a p t) := by
  refine ofLoadStore [(6, t.toNat), (13, 0), (1, 1), (2, p.code), (4, a.toNat), (6, 14)] rfl ⟨lt_of (t.isLt), by decide, by decide, lt_of (p.code_lt), lt_of (a.isLt), by decide, trivial⟩ rfl (by show encSQ 0x0E a p true t = _; simp only [cat, encSQ, bitCode, if_true]; try omega) fun z pk _ => ?_
  have t19 : bitField z 19 = true := bitField_of (pk _ _ _ rfl)
  have b0_6 : bvField 6 z 0 = t := bvField_of (pk _ _ _ rfl)
  have b22_4 : bvField 4 z 22 = a := bvField_of (pk _ _ _ rfl)
  have f6_13 : field z 6 13 = 0 := pk _ _ _ rfl
  have f20_2 : field z 20 2 = p.code := pk _ _ _ rfl
  have f22_4 : field z 22 4 = a.toNat := pk _ _ _ rfl
  have f26_6 : field z 26 6 = 14 := pk _ _ _ rfl
  constructor
  · simp [accept, decodeL, decodeLS, decodeLSQueue, t19, b0_6, b22_4, f6_13, f20_2, f22_4, f26_6]
  · simp [accept, decodeLS, decodeLSQueue, decodeS, t19, b0_6, b22_4, f6_13, f20_2, f22_4, f26_6]

theorem qpushBare (p : Peer) (t : Token) : Statement (.qpushBare p t) := by
  refine ofLoadStore [(6, t.toNat), (13, 0), (1, 0), (2, p.code), (4, 0), (6, 14)] rfl ⟨lt_of (t.isLt), by decide, by decide, lt_of (p.code_lt), by decide, by decide, trivial⟩ rfl (by show encSQ 0x0E 0 p false t = _; simp only [cat, encSQ, BitVec.ofNat_eq_ofNat, BitVec.toNat_ofNat, bitCode, if_false, Bool.false_eq_true]; try omega) fun z pk _ => ?_
  have t19 : bitField z 19 = false := bitField_of (pk _ _ _ rfl)
  have b0_6 : bvField 6 z 0 = t := bvField_of (pk _ _ _ rfl)
  have b22_4 : bvField 4 z 22 = 0#4 := bvField_of (pk _ _ _ rfl)
  have f6_13 : field z 6 13 = 0 := pk _ _ _ rfl
  have f20_2 : field z 20 2 = p.code := pk _ _ _ rfl
  have f22_4 : field z 22 4 = 0 := pk _ _ _ rfl
  have f26_6 : field z 26 6 = 14 := pk _ _ _ rfl
  constructor
  · simp [accept, decodeL, decodeLS, decodeLSQueue, t19, b0_6, b22_4, f6_13, f20_2, f22_4, f26_6]
  · simp [accept, decodeLS, decodeLSQueue, decodeS, t19, b0_6, b22_4, f6_13, f20_2, f22_4, f26_6]

theorem hset (h : BitVec 6) (a : BitVec 4) (k : BitVec 2) (t : Token) : Statement (.hset h a k t) := by
  refine ofLoadStore [(6, t.toNat), (2, k.toNat), (4, 0), (4, a.toNat), (4, 0), (6, h.toNat), (6, 15)] rfl ⟨lt_of (t.isLt), lt_of (k.isLt), by decide, lt_of (a.isLt), by decide, lt_of (h.isLt), by decide, trivial⟩ rfl (by show encSC 0x0F h 0 a .dflt k.toNat t = _; simp only [cat, encSC, BitVec.ofNat_eq_ofNat, BitVec.toNat_ofNat, Hint.code]; try omega) fun z pk _ => ?_
  have b0_6 : bvField 6 z 0 = t := bvField_of (pk _ _ _ rfl)
  have b6_2 : bvField 2 z 6 = k := bvField_of (pk _ _ _ rfl)
  have b12_4 : bvField 4 z 12 = a := bvField_of (pk _ _ _ rfl)
  have b20_6 : bvField 6 z 20 = h := bvField_of (pk _ _ _ rfl)
  have f8_4 : field z 8 4 = 0 := pk _ _ _ rfl
  have f16_4 : field z 16 4 = 0 := pk _ _ _ rfl
  have f26_6 : field z 26 6 = 15 := pk _ _ _ rfl
  constructor
  · simp [accept, decodeL, decodeLS, b0_6, b6_2, b12_4, b20_6, f8_4, f16_4, f26_6]
  · simp [accept, decodeLS, decodeS, b0_6, b6_2, b12_4, b20_6, f8_4, f16_4, f26_6]

theorem lCopy (o : Sc) : Statement (.lCopy o) := by
  refine ofLoad [(6, o.t.toNat), (3, 0), (1, bitCode o.bar), (2, o.hint.code), (4, o.a.toNat), (4, o.w.toNat), (6, o.h.toNat), (6, 16)] rfl ⟨lt_of (o.t.isLt), by decide, lt_of (bitCode_lt o.bar), lt_of (o.hint.code_lt), lt_of (o.a.isLt), lt_of (o.w.isLt), lt_of (o.h.isLt), by decide, trivial⟩ rfl (by show encSC 0x10 o.h o.w o.a o.hint (bitCode o.bar * 8) o.t = _; simp only [cat, encSC]; try omega) fun z pk hwf => ?_
  replace hwf : (o.wfBound) = true := hwf
  have t9 : bitField z 9 = o.bar := bitField_of (pk _ _ _ rfl)
  have b0_6 : bvField 6 z 0 = o.t := bvField_of (pk _ _ _ rfl)
  have b12_4 : bvField 4 z 12 = o.a := bvField_of (pk _ _ _ rfl)
  have b16_4 : bvField 4 z 16 = o.w := bvField_of (pk _ _ _ rfl)
  have b20_6 : bvField 6 z 20 = o.h := bvField_of (pk _ _ _ rfl)
  have f6_3 : field z 6 3 = 0 := pk _ _ _ rfl
  have f10_2 : field z 10 2 = o.hint.code := pk _ _ _ rfl
  have f26_6 : field z 26 6 = 16 := pk _ _ _ rfl
  simp [accept, decodeL, scOf, t9, b0_6, b12_4, b16_4, b20_6, f6_3, f10_2, f26_6, hwf]

theorem copyO (h : BitVec 6) (w : BitVec 4) (r : BitVec 3) (hint : Hint) (bar : Bool) (t : Token) : Statement (.copyO h w r hint bar t) := by
  refine ofLoad [(6, t.toNat), (3, 0), (1, bitCode bar), (2, hint.code), (1, 0), (3, r.toNat), (4, w.toNat), (6, h.toNat), (6, 17)] rfl ⟨lt_of (t.isLt), by decide, lt_of (bitCode_lt bar), lt_of (hint.code_lt), by decide, lt_of (r.isLt), lt_of (w.isLt), lt_of (h.isLt), by decide, trivial⟩ rfl (by show 0x11 * 2 ^ 26 + h.toNat * 2 ^ 20 + w.toNat * 2 ^ 16 + r.toNat * 2 ^ 13 + hint.code * 2 ^ 10 + bitCode bar * 2 ^ 9 + t.toNat = _; simp only [cat]; try omega) fun z pk _ => ?_
  have t9 : bitField z 9 = bar := bitField_of (pk _ _ _ rfl)
  have b0_6 : bvField 6 z 0 = t := bvField_of (pk _ _ _ rfl)
  have b13_3 : bvField 3 z 13 = r := bvField_of (pk _ _ _ rfl)
  have b16_4 : bvField 4 z 16 = w := bvField_of (pk _ _ _ rfl)
  have b20_6 : bvField 6 z 20 = h := bvField_of (pk _ _ _ rfl)
  have f6_3 : field z 6 3 = 0 := pk _ _ _ rfl
  have f10_2 : field z 10 2 = hint.code := pk _ _ _ rfl
  have f12_1 : field z 12 1 = 0 := pk _ _ _ rfl
  have f26_6 : field z 26 6 = 17 := pk _ _ _ rfl
  simp [accept, decodeL, scOf, t9, b0_6, b13_3, b16_4, b20_6, f6_3, f10_2, f12_1, f26_6]

theorem copyPk (o : Sc) (c : BitVec 3) : Statement (.copyPk o c) := by
  refine ofLoad [(6, o.t.toNat), (3, c.toNat), (1, bitCode o.bar), (2, o.hint.code), (4, o.a.toNat), (4, o.w.toNat), (6, o.h.toNat), (6, 18)] rfl ⟨lt_of (o.t.isLt), lt_of (c.isLt), lt_of (bitCode_lt o.bar), lt_of (o.hint.code_lt), lt_of (o.a.isLt), lt_of (o.w.isLt), lt_of (o.h.isLt), by decide, trivial⟩ rfl (by show encSC 0x12 o.h o.w o.a o.hint (bitCode o.bar * 8 + c.toNat) o.t = _; simp only [cat, encSC]; try omega) fun z pk hwf => ?_
  replace hwf : (o.wfBound && decide (c.toNat ≤ 4)) = true := hwf
  simp only [Bool.and_eq_true] at hwf
  have t9 : bitField z 9 = o.bar := bitField_of (pk _ _ _ rfl)
  have b0_6 : bvField 6 z 0 = o.t := bvField_of (pk _ _ _ rfl)
  have b6_3 : bvField 3 z 6 = c := bvField_of (pk _ _ _ rfl)
  have b12_4 : bvField 4 z 12 = o.a := bvField_of (pk _ _ _ rfl)
  have b16_4 : bvField 4 z 16 = o.w := bvField_of (pk _ _ _ rfl)
  have b20_6 : bvField 6 z 20 = o.h := bvField_of (pk _ _ _ rfl)
  have f10_2 : field z 10 2 = o.hint.code := pk _ _ _ rfl
  have f26_6 : field z 26 6 = 18 := pk _ _ _ rfl
  simp [accept, decodeL, scOf, t9, b0_6, b6_3, b12_4, b16_4, b20_6, f10_2, f26_6, hwf]

theorem copyUk (o : Sc) (c : BitVec 3) : Statement (.copyUk o c) := by
  refine ofLoad [(6, o.t.toNat), (3, c.toNat), (1, bitCode o.bar), (2, o.hint.code), (4, o.a.toNat), (4, o.w.toNat), (6, o.h.toNat), (6, 19)] rfl ⟨lt_of (o.t.isLt), lt_of (c.isLt), lt_of (bitCode_lt o.bar), lt_of (o.hint.code_lt), lt_of (o.a.isLt), lt_of (o.w.isLt), lt_of (o.h.isLt), by decide, trivial⟩ rfl (by show encSC 0x13 o.h o.w o.a o.hint (bitCode o.bar * 8 + c.toNat) o.t = _; simp only [cat, encSC]; try omega) fun z pk hwf => ?_
  replace hwf : (o.wfBound && decide (c.toNat ≤ 4)) = true := hwf
  simp only [Bool.and_eq_true] at hwf
  have t9 : bitField z 9 = o.bar := bitField_of (pk _ _ _ rfl)
  have b0_6 : bvField 6 z 0 = o.t := bvField_of (pk _ _ _ rfl)
  have b6_3 : bvField 3 z 6 = c := bvField_of (pk _ _ _ rfl)
  have b12_4 : bvField 4 z 12 = o.a := bvField_of (pk _ _ _ rfl)
  have b16_4 : bvField 4 z 16 = o.w := bvField_of (pk _ _ _ rfl)
  have b20_6 : bvField 6 z 20 = o.h := bvField_of (pk _ _ _ rfl)
  have f10_2 : field z 10 2 = o.hint.code := pk _ _ _ rfl
  have f26_6 : field z 26 6 = 19 := pk _ _ _ rfl
  simp [accept, decodeL, scOf, t9, b0_6, b6_3, b12_4, b16_4, b20_6, f10_2, f26_6, hwf]

theorem gather (o : Sc) : Statement (.gather o) := by
  refine ofLoad [(6, o.t.toNat), (3, 0), (1, bitCode o.bar), (2, o.hint.code), (4, o.a.toNat), (4, o.w.toNat), (6, o.h.toNat), (6, 20)] rfl ⟨lt_of (o.t.isLt), by decide, lt_of (bitCode_lt o.bar), lt_of (o.hint.code_lt), lt_of (o.a.isLt), lt_of (o.w.isLt), lt_of (o.h.isLt), by decide, trivial⟩ rfl (by show encSC 0x14 o.h o.w o.a o.hint (bitCode o.bar * 8) o.t = _; simp only [cat, encSC]; try omega) fun z pk hwf => ?_
  replace hwf : (o.wfIndexed) = true := hwf
  have t9 : bitField z 9 = o.bar := bitField_of (pk _ _ _ rfl)
  have b0_6 : bvField 6 z 0 = o.t := bvField_of (pk _ _ _ rfl)
  have b12_4 : bvField 4 z 12 = o.a := bvField_of (pk _ _ _ rfl)
  have b16_4 : bvField 4 z 16 = o.w := bvField_of (pk _ _ _ rfl)
  have b20_6 : bvField 6 z 20 = o.h := bvField_of (pk _ _ _ rfl)
  have f6_3 : field z 6 3 = 0 := pk _ _ _ rfl
  have f10_2 : field z 10 2 = o.hint.code := pk _ _ _ rfl
  have f26_6 : field z 26 6 = 20 := pk _ _ _ rfl
  simp [accept, decodeL, scOf, t9, b0_6, b12_4, b16_4, b20_6, f6_3, f10_2, f26_6, hwf]

theorem prefetch (h : BitVec 6) (a : BitVec 4) (hint : Hint) (t : Token) : Statement (.prefetch h a hint t) := by
  refine ofLoad [(6, t.toNat), (3, 0), (1, 0), (2, hint.code), (4, a.toNat), (4, 0), (6, h.toNat), (6, 21)] rfl ⟨lt_of (t.isLt), by decide, by decide, lt_of (hint.code_lt), lt_of (a.isLt), by decide, lt_of (h.isLt), by decide, trivial⟩ rfl (by show encSC 0x15 h 0 a hint 0 t = _; simp only [cat, encSC, BitVec.ofNat_eq_ofNat, BitVec.toNat_ofNat]; try omega) fun z pk _ => ?_
  have t9 : bitField z 9 = false := bitField_of (pk _ _ _ rfl)
  have b0_6 : bvField 6 z 0 = t := bvField_of (pk _ _ _ rfl)
  have b12_4 : bvField 4 z 12 = a := bvField_of (pk _ _ _ rfl)
  have b16_4 : bvField 4 z 16 = 0#4 := bvField_of (pk _ _ _ rfl)
  have b20_6 : bvField 6 z 20 = h := bvField_of (pk _ _ _ rfl)
  have f6_4 : field z 6 4 = 0 := pk _ _ _ rfl
  have f10_2 : field z 10 2 = hint.code := pk _ _ _ rfl
  have f16_4 : field z 16 4 = 0 := pk _ _ _ rfl
  have f26_6 : field z 26 6 = 21 := pk _ _ _ rfl
  simp [accept, decodeL, scOf, t9, b0_6, b12_4, b16_4, b20_6, f6_4, f10_2, f16_4, f26_6]

theorem lOpen (w : BitVec 4) (a : BitVec 4) (hint : Hint) (t : Token) : Statement (.lOpen w a hint t) := by
  refine ofLoad [(6, t.toNat), (3, 0), (1, 0), (2, hint.code), (4, a.toNat), (4, w.toNat), (6, 0), (6, 22)] rfl ⟨lt_of (t.isLt), by decide, by decide, lt_of (hint.code_lt), lt_of (a.isLt), lt_of (w.isLt), by decide, by decide, trivial⟩ rfl (by show encSC 0x16 0 w a hint 0 t = _; simp only [cat, encSC, BitVec.ofNat_eq_ofNat, BitVec.toNat_ofNat]; try omega) fun z pk hwf => ?_
  replace hwf : (decide (a.toNat ≤ 14)) = true := hwf
  have t9 : bitField z 9 = false := bitField_of (pk _ _ _ rfl)
  have b0_6 : bvField 6 z 0 = t := bvField_of (pk _ _ _ rfl)
  have b12_4 : bvField 4 z 12 = a := bvField_of (pk _ _ _ rfl)
  have b16_4 : bvField 4 z 16 = w := bvField_of (pk _ _ _ rfl)
  have b20_6 : bvField 6 z 20 = 0#6 := bvField_of (pk _ _ _ rfl)
  have f6_4 : field z 6 4 = 0 := pk _ _ _ rfl
  have f10_2 : field z 10 2 = hint.code := pk _ _ _ rfl
  have f20_6 : field z 20 6 = 0 := pk _ _ _ rfl
  have f26_6 : field z 26 6 = 22 := pk _ _ _ rfl
  simp [accept, decodeL, scOf, t9, b0_6, b12_4, b16_4, b20_6, f6_4, f10_2, f20_6, f26_6, hwf]

theorem lClose (w : BitVec 4) (t : Token) : Statement (.lClose w t) := by
  refine ofLoad [(6, t.toNat), (3, 0), (1, 0), (2, 0), (4, 0), (4, w.toNat), (6, 0), (6, 23)] rfl ⟨lt_of (t.isLt), by decide, by decide, by decide, by decide, lt_of (w.isLt), by decide, by decide, trivial⟩ rfl (by show encSC 0x17 0 w 0 .dflt 0 t = _; simp only [cat, encSC, BitVec.ofNat_eq_ofNat, BitVec.toNat_ofNat, Hint.code]; try omega) fun z pk _ => ?_
  have t9 : bitField z 9 = false := bitField_of (pk _ _ _ rfl)
  have b0_6 : bvField 6 z 0 = t := bvField_of (pk _ _ _ rfl)
  have b12_4 : bvField 4 z 12 = 0#4 := bvField_of (pk _ _ _ rfl)
  have b16_4 : bvField 4 z 16 = w := bvField_of (pk _ _ _ rfl)
  have b20_6 : bvField 6 z 20 = 0#6 := bvField_of (pk _ _ _ rfl)
  have f6_10 : field z 6 10 = 0 := pk _ _ _ rfl
  have f10_2 : field z 10 2 = 0 := pk _ _ _ rfl
  have f20_6 : field z 20 6 = 0 := pk _ _ _ rfl
  have f26_6 : field z 26 6 = 23 := pk _ _ _ rfl
  simp [accept, decodeL, scOf, t9, b0_6, b12_4, b16_4, b20_6, f6_10, f10_2, f20_6, f26_6]

theorem wcopy (o : Sc) : Statement (.wcopy o) := by
  refine ofStore [(6, o.t.toNat), (3, 0), (1, bitCode o.bar), (2, o.hint.code), (4, o.a.toNat), (4, o.w.toNat), (6, o.h.toNat), (6, 16)] rfl ⟨lt_of (o.t.isLt), by decide, lt_of (bitCode_lt o.bar), lt_of (o.hint.code_lt), lt_of (o.a.isLt), lt_of (o.w.isLt), lt_of (o.h.isLt), by decide, trivial⟩ rfl (by show encSC 0x10 o.h o.w o.a o.hint (bitCode o.bar * 8) o.t = _; simp only [cat, encSC]; try omega) fun z pk hwf => ?_
  replace hwf : (o.wfBound) = true := hwf
  have t9 : bitField z 9 = o.bar := bitField_of (pk _ _ _ rfl)
  have b0_6 : bvField 6 z 0 = o.t := bvField_of (pk _ _ _ rfl)
  have b12_4 : bvField 4 z 12 = o.a := bvField_of (pk _ _ _ rfl)
  have b16_4 : bvField 4 z 16 = o.w := bvField_of (pk _ _ _ rfl)
  have b20_6 : bvField 6 z 20 = o.h := bvField_of (pk _ _ _ rfl)
  have f6_3 : field z 6 3 = 0 := pk _ _ _ rfl
  have f10_2 : field z 10 2 = o.hint.code := pk _ _ _ rfl
  have f26_6 : field z 26 6 = 16 := pk _ _ _ rfl
  simp [accept, decodeS, scOf, t9, b0_6, b12_4, b16_4, b20_6, f6_3, f10_2, f26_6, hwf]

theorem scatter (o : Sc) : Statement (.scatter o) := by
  refine ofStore [(6, o.t.toNat), (3, 0), (1, bitCode o.bar), (2, o.hint.code), (4, o.a.toNat), (4, o.w.toNat), (6, o.h.toNat), (6, 17)] rfl ⟨lt_of (o.t.isLt), by decide, lt_of (bitCode_lt o.bar), lt_of (o.hint.code_lt), lt_of (o.a.isLt), lt_of (o.w.isLt), lt_of (o.h.isLt), by decide, trivial⟩ rfl (by show encSC 0x11 o.h o.w o.a o.hint (bitCode o.bar * 8) o.t = _; simp only [cat, encSC]; try omega) fun z pk hwf => ?_
  replace hwf : (o.wfIndexed) = true := hwf
  have t9 : bitField z 9 = o.bar := bitField_of (pk _ _ _ rfl)
  have b0_6 : bvField 6 z 0 = o.t := bvField_of (pk _ _ _ rfl)
  have b12_4 : bvField 4 z 12 = o.a := bvField_of (pk _ _ _ rfl)
  have b16_4 : bvField 4 z 16 = o.w := bvField_of (pk _ _ _ rfl)
  have b20_6 : bvField 6 z 20 = o.h := bvField_of (pk _ _ _ rfl)
  have f6_3 : field z 6 3 = 0 := pk _ _ _ rfl
  have f10_2 : field z 10 2 = o.hint.code := pk _ _ _ rfl
  have f26_6 : field z 26 6 = 17 := pk _ _ _ rfl
  simp [accept, decodeS, scOf, t9, b0_6, b12_4, b16_4, b20_6, f6_3, f10_2, f26_6, hwf]

theorem put (h : BitVec 6) (w : BitVec 4) (a : BitVec 4) (hint : Hint) (t : Token) : Statement (.put h w a hint t) := by
  refine ofStore [(6, t.toNat), (3, 0), (1, 0), (2, hint.code), (4, a.toNat), (4, w.toNat), (6, h.toNat), (6, 18)] rfl ⟨lt_of (t.isLt), by decide, by decide, lt_of (hint.code_lt), lt_of (a.isLt), lt_of (w.isLt), lt_of (h.isLt), by decide, trivial⟩ rfl (by show encSC 0x12 h w a hint 0 t = _; simp only [cat, encSC, BitVec.ofNat_eq_ofNat, BitVec.toNat_ofNat]; try omega) fun z pk _ => ?_
  have t9 : bitField z 9 = false := bitField_of (pk _ _ _ rfl)
  have b0_6 : bvField 6 z 0 = t := bvField_of (pk _ _ _ rfl)
  have b12_4 : bvField 4 z 12 = a := bvField_of (pk _ _ _ rfl)
  have b16_4 : bvField 4 z 16 = w := bvField_of (pk _ _ _ rfl)
  have b20_6 : bvField 6 z 20 = h := bvField_of (pk _ _ _ rfl)
  have f6_4 : field z 6 4 = 0 := pk _ _ _ rfl
  have f10_2 : field z 10 2 = hint.code := pk _ _ _ rfl
  have f26_6 : field z 26 6 = 18 := pk _ _ _ rfl
  simp [accept, decodeS, scOf, t9, b0_6, b12_4, b16_4, b20_6, f6_4, f10_2, f26_6]

theorem acopy (h : BitVec 6) (w : BitVec 4) (a : BitVec 4) (hint : Hint) (op : AccOp) (fmt : AccFmt) (t : Token) : Statement (.acopy h w a hint op fmt t) := by
  refine ofStore [(6, t.toNat), (2, fmt.code), (2, op.code), (2, hint.code), (4, a.toNat), (4, w.toNat), (6, h.toNat), (6, 19)] rfl ⟨lt_of (t.isLt), lt_of (fmt.code_lt), lt_of (op.code_lt), lt_of (hint.code_lt), lt_of (a.isLt), lt_of (w.isLt), lt_of (h.isLt), by decide, trivial⟩ rfl (by show encSC 0x13 h w a hint (op.code * 4 + fmt.code) t = _; simp only [cat, encSC]; try omega) fun z pk _ => ?_
  have b0_6 : bvField 6 z 0 = t := bvField_of (pk _ _ _ rfl)
  have b12_4 : bvField 4 z 12 = a := bvField_of (pk _ _ _ rfl)
  have b16_4 : bvField 4 z 16 = w := bvField_of (pk _ _ _ rfl)
  have b20_6 : bvField 6 z 20 = h := bvField_of (pk _ _ _ rfl)
  have f6_2 : field z 6 2 = fmt.code := pk _ _ _ rfl
  have f8_2 : field z 8 2 = op.code := pk _ _ _ rfl
  have f10_2 : field z 10 2 = hint.code := pk _ _ _ rfl
  have f26_6 : field z 26 6 = 19 := pk _ _ _ rfl
  simp [decodeS, scOf, b0_6, b12_4, b16_4, b20_6, f6_2, f8_2, f10_2, f26_6]

theorem wwait (a : BitVec 4) (w : BitVec 4) (t : Token) : Statement (.wwait a w t) := by
  refine ofLoadStore [(6, t.toNat), (12, 0), (4, w.toNat), (4, a.toNat), (6, 24)] rfl ⟨lt_of (t.isLt), by decide, lt_of (w.isLt), lt_of (a.isLt), by decide, trivial⟩ rfl (by show encSW 0x18 a w t = _; simp only [cat, encSW]; try omega) fun z pk _ => ?_
  have b0_6 : bvField 6 z 0 = t := bvField_of (pk _ _ _ rfl)
  have b18_4 : bvField 4 z 18 = w := bvField_of (pk _ _ _ rfl)
  have b22_4 : bvField 4 z 22 = a := bvField_of (pk _ _ _ rfl)
  have f6_12 : field z 6 12 = 0 := pk _ _ _ rfl
  have f26_6 : field z 26 6 = 24 := pk _ _ _ rfl
  constructor
  · simp [accept, decodeL, decodeLS, b0_6, b18_4, b22_4, f6_12, f26_6]
  · simp [accept, decodeLS, decodeS, b0_6, b18_4, b22_4, f6_12, f26_6]

theorem wget (a : BitVec 4) (w : BitVec 4) (t : Token) : Statement (.wget a w t) := by
  refine ofLoadStore [(6, t.toNat), (12, 0), (4, w.toNat), (4, a.toNat), (6, 25)] rfl ⟨lt_of (t.isLt), by decide, lt_of (w.isLt), lt_of (a.isLt), by decide, trivial⟩ rfl (by show encSW 0x19 a w t = _; simp only [cat, encSW]; try omega) fun z pk _ => ?_
  have b0_6 : bvField 6 z 0 = t := bvField_of (pk _ _ _ rfl)
  have b18_4 : bvField 4 z 18 = w := bvField_of (pk _ _ _ rfl)
  have b22_4 : bvField 4 z 22 = a := bvField_of (pk _ _ _ rfl)
  have f6_12 : field z 6 12 = 0 := pk _ _ _ rfl
  have f26_6 : field z 26 6 = 25 := pk _ _ _ rfl
  constructor
  · simp [accept, decodeL, decodeLS, b0_6, b18_4, b22_4, f6_12, f26_6]
  · simp [accept, decodeLS, decodeS, b0_6, b18_4, b22_4, f6_12, f26_6]

theorem wreset (w : BitVec 4) (t : Token) : Statement (.wreset w t) := by
  refine ofLoadStore [(6, t.toNat), (12, 0), (4, w.toNat), (4, 0), (6, 26)] rfl ⟨lt_of (t.isLt), by decide, lt_of (w.isLt), by decide, by decide, trivial⟩ rfl (by show encSW 0x1A 0 w t = _; simp only [cat, encSW, BitVec.ofNat_eq_ofNat, BitVec.toNat_ofNat]; try omega) fun z pk _ => ?_
  have b0_6 : bvField 6 z 0 = t := bvField_of (pk _ _ _ rfl)
  have b18_4 : bvField 4 z 18 = w := bvField_of (pk _ _ _ rfl)
  have f6_12 : field z 6 12 = 0 := pk _ _ _ rfl
  have f22_4 : field z 22 4 = 0 := pk _ _ _ rfl
  have f26_6 : field z 26 6 = 26 := pk _ _ _ rfl
  constructor
  · simp [accept, decodeL, decodeLS, b0_6, b18_4, f6_12, f22_4, f26_6]
  · simp [accept, decodeLS, decodeS, b0_6, b18_4, f6_12, f22_4, f26_6]

theorem lsSema (k : BitVec 6) (n : BitVec 14) (t : Token) : Statement (.lsSema k n t) := by
  refine ofLoadStore [(6, t.toNat), (14, n.toNat), (6, k.toNat), (6, 27)] rfl ⟨lt_of (t.isLt), lt_of (n.isLt), lt_of (k.isLt), by decide, trivial⟩ rfl (by show 0x1B * 2 ^ 26 + k.toNat * 2 ^ 20 + n.toNat * 2 ^ 6 + t.toNat = _; simp only [cat]; try omega) fun z pk hwf => ?_
  replace hwf : (n != 0) = true := hwf
  have hz := toNat_ne hwf
  have hn := ne_zero hwf
  have b0_6 : bvField 6 z 0 = t := bvField_of (pk _ _ _ rfl)
  have b6_14 : bvField 14 z 6 = n := bvField_of (pk _ _ _ rfl)
  have b20_6 : bvField 6 z 20 = k := bvField_of (pk _ _ _ rfl)
  have f6_14 : field z 6 14 = n.toNat := pk _ _ _ rfl
  have f26_6 : field z 26 6 = 27 := pk _ _ _ rfl
  constructor
  · simp [accept, decodeL, decodeLS, hz, hn, b0_6, b6_14, b20_6, f6_14, f26_6, hwf]
  · simp [accept, decodeLS, decodeS, hz, hn, b0_6, b6_14, b20_6, f6_14, f26_6, hwf]

theorem lsSemv (k : BitVec 6) (n : BitVec 14) (t : Token) : Statement (.lsSemv k n t) := by
  refine ofLoadStore [(6, t.toNat), (14, n.toNat), (6, k.toNat), (6, 28)] rfl ⟨lt_of (t.isLt), lt_of (n.isLt), lt_of (k.isLt), by decide, trivial⟩ rfl (by show 0x1C * 2 ^ 26 + k.toNat * 2 ^ 20 + n.toNat * 2 ^ 6 + t.toNat = _; simp only [cat]; try omega) fun z pk hwf => ?_
  replace hwf : (n != 0) = true := hwf
  have hz := toNat_ne hwf
  have hn := ne_zero hwf
  have b0_6 : bvField 6 z 0 = t := bvField_of (pk _ _ _ rfl)
  have b6_14 : bvField 14 z 6 = n := bvField_of (pk _ _ _ rfl)
  have b20_6 : bvField 6 z 20 = k := bvField_of (pk _ _ _ rfl)
  have f6_14 : field z 6 14 = n.toNat := pk _ _ _ rfl
  have f26_6 : field z 26 6 = 28 := pk _ _ _ rfl
  constructor
  · simp [accept, decodeL, decodeLS, hz, hn, b0_6, b6_14, b20_6, f6_14, f26_6, hwf]
  · simp [accept, decodeLS, decodeS, hz, hn, b0_6, b6_14, b20_6, f6_14, f26_6, hwf]

theorem atom32 (o : Atom) : Statement (.atom32 o) := by
  refine ofStore [(6, o.t.toNat), (1, bitCode o.u), (2, o.scope.code), (2, o.ord.code), (3, o.op.code), (4, o.res.toNat), (4, o.v.toNat), (4, o.a.toNat), (6, 32)] rfl ⟨lt_of (o.t.isLt), lt_of (bitCode_lt o.u), lt_of (o.scope.code_lt), lt_of (o.ord.code_lt), lt_of (o.op.code_lt), lt_of (o.res.isLt), lt_of (o.v.isLt), lt_of (o.a.isLt), by decide, trivial⟩ rfl (by show encST 0x20 o = _; simp only [cat, encST]; try omega) fun z pk hwf => ?_
  replace hwf : (o.wf) = true := hwf
  have t6 : bitField z 6 = o.u := bitField_of (pk _ _ _ rfl)
  have b0_6 : bvField 6 z 0 = o.t := bvField_of (pk _ _ _ rfl)
  have b14_4 : bvField 4 z 14 = o.res := bvField_of (pk _ _ _ rfl)
  have b18_4 : bvField 4 z 18 = o.v := bvField_of (pk _ _ _ rfl)
  have b22_4 : bvField 4 z 22 = o.a := bvField_of (pk _ _ _ rfl)
  have f7_2 : field z 7 2 = o.scope.code := pk _ _ _ rfl
  have f9_2 : field z 9 2 = o.ord.code := pk _ _ _ rfl
  have f11_3 : field z 11 3 = o.op.code := pk _ _ _ rfl
  have f26_6 : field z 26 6 = 32 := pk _ _ _ rfl
  simp [accept, atomOf, decodeS, t6, b0_6, b14_4, b18_4, b22_4, f7_2, f9_2, f11_3, f26_6, hwf]

theorem atom64 (o : Atom) : Statement (.atom64 o) := by
  refine ofStore [(6, o.t.toNat), (1, bitCode o.u), (2, o.scope.code), (2, o.ord.code), (3, o.op.code), (4, o.res.toNat), (4, o.v.toNat), (4, o.a.toNat), (6, 33)] rfl ⟨lt_of (o.t.isLt), lt_of (bitCode_lt o.u), lt_of (o.scope.code_lt), lt_of (o.ord.code_lt), lt_of (o.op.code_lt), lt_of (o.res.isLt), lt_of (o.v.isLt), lt_of (o.a.isLt), by decide, trivial⟩ rfl (by show encST 0x21 o = _; simp only [cat, encST]; try omega) fun z pk hwf => ?_
  replace hwf : (o.wf) = true := hwf
  have t6 : bitField z 6 = o.u := bitField_of (pk _ _ _ rfl)
  have b0_6 : bvField 6 z 0 = o.t := bvField_of (pk _ _ _ rfl)
  have b14_4 : bvField 4 z 14 = o.res := bvField_of (pk _ _ _ rfl)
  have b18_4 : bvField 4 z 18 = o.v := bvField_of (pk _ _ _ rfl)
  have b22_4 : bvField 4 z 22 = o.a := bvField_of (pk _ _ _ rfl)
  have f7_2 : field z 7 2 = o.scope.code := pk _ _ _ rfl
  have f9_2 : field z 9 2 = o.ord.code := pk _ _ _ rfl
  have f11_3 : field z 11 3 = o.op.code := pk _ _ _ rfl
  have f26_6 : field z 26 6 = 33 := pk _ _ _ rfl
  simp [accept, atomOf, decodeS, t6, b0_6, b14_4, b18_4, b22_4, f7_2, f9_2, f11_3, f26_6, hwf]

theorem lsNop (t : Token) : Statement (.lsNop t) := by
  refine ofLoadStore [(6, t.toNat), (20, 0), (6, 62)] rfl ⟨lt_of (t.isLt), by decide, by decide, trivial⟩ rfl (by show 0x3E * 2 ^ 26 + t.toNat = _; simp only [cat]; try omega) fun z pk _ => ?_
  have b0_6 : bvField 6 z 0 = t := bvField_of (pk _ _ _ rfl)
  have f6_20 : field z 6 20 = 0 := pk _ _ _ rfl
  have f26_6 : field z 26 6 = 62 := pk _ _ _ rfl
  constructor
  · simp [accept, decodeL, decodeLS, b0_6, f6_20, f26_6]
  · simp [accept, decodeLS, decodeS, b0_6, f6_20, f26_6]

theorem lsEnd (t : Token) : Statement (.lsEnd t) := by
  refine ofLoadStore [(6, t.toNat), (20, 0), (6, 63)] rfl ⟨lt_of (t.isLt), by decide, by decide, trivial⟩ rfl (by show 0x3F * 2 ^ 26 + t.toNat = _; simp only [cat]; try omega) fun z pk _ => ?_
  have b0_6 : bvField 6 z 0 = t := bvField_of (pk _ _ _ rfl)
  have f6_20 : field z 6 20 = 0 := pk _ _ _ rfl
  have f26_6 : field z 26 6 = 63 := pk _ _ _ rfl
  constructor
  · simp [accept, decodeL, decodeLS, b0_6, f6_20, f26_6]
  · simp [accept, decodeLS, decodeS, b0_6, f6_20, f26_6]

theorem fadd (o : V3) : Statement (.fadd o) := by
  refine ofCompute [(4, o.m.code), (7, o.b.toNat), (7, o.a.toNat), (7, o.d.toNat), (6, 1)] rfl ⟨lt_of (o.m.code_lt), lt_of (o.b.isLt), lt_of (o.a.isLt), lt_of (o.d.isLt), by decide, trivial⟩ rfl (by show encV 0x1 o.d o.a o.b.toNat o.m.code = _; simp only [cat, encV]; try omega) fun z pk hwf => ?_
  replace hwf : (o.m.wf) = true := hwf
  have b4_7 : bvField 7 z 4 = o.b := bvField_of (pk _ _ _ rfl)
  have b11_7 : bvField 7 z 11 = o.a := bvField_of (pk _ _ _ rfl)
  have b18_7 : bvField 7 z 18 = o.d := bvField_of (pk _ _ _ rfl)
  have f0_4 : field z 0 4 = o.m.code := pk _ _ _ rfl
  have f25_6 : field z 25 6 = 1 := pk _ _ _ rfl
  simp [accept, decodeCWord, mmaOf, v3Of, b4_7, b11_7, b18_7, f0_4, f25_6, hwf, VMod.ofCode_code]

theorem fsub (o : V3) : Statement (.fsub o) := by
  refine ofCompute [(4, o.m.code), (7, o.b.toNat), (7, o.a.toNat), (7, o.d.toNat), (6, 2)] rfl ⟨lt_of (o.m.code_lt), lt_of (o.b.isLt), lt_of (o.a.isLt), lt_of (o.d.isLt), by decide, trivial⟩ rfl (by show encV 0x2 o.d o.a o.b.toNat o.m.code = _; simp only [cat, encV]; try omega) fun z pk hwf => ?_
  replace hwf : (o.m.wf) = true := hwf
  have b4_7 : bvField 7 z 4 = o.b := bvField_of (pk _ _ _ rfl)
  have b11_7 : bvField 7 z 11 = o.a := bvField_of (pk _ _ _ rfl)
  have b18_7 : bvField 7 z 18 = o.d := bvField_of (pk _ _ _ rfl)
  have f0_4 : field z 0 4 = o.m.code := pk _ _ _ rfl
  have f25_6 : field z 25 6 = 2 := pk _ _ _ rfl
  simp [accept, decodeCWord, mmaOf, v3Of, b4_7, b11_7, b18_7, f0_4, f25_6, hwf, VMod.ofCode_code]

theorem fmul (o : V3) : Statement (.fmul o) := by
  refine ofCompute [(4, o.m.code), (7, o.b.toNat), (7, o.a.toNat), (7, o.d.toNat), (6, 3)] rfl ⟨lt_of (o.m.code_lt), lt_of (o.b.isLt), lt_of (o.a.isLt), lt_of (o.d.isLt), by decide, trivial⟩ rfl (by show encV 0x3 o.d o.a o.b.toNat o.m.code = _; simp only [cat, encV]; try omega) fun z pk hwf => ?_
  replace hwf : (o.m.wf) = true := hwf
  have b4_7 : bvField 7 z 4 = o.b := bvField_of (pk _ _ _ rfl)
  have b11_7 : bvField 7 z 11 = o.a := bvField_of (pk _ _ _ rfl)
  have b18_7 : bvField 7 z 18 = o.d := bvField_of (pk _ _ _ rfl)
  have f0_4 : field z 0 4 = o.m.code := pk _ _ _ rfl
  have f25_6 : field z 25 6 = 3 := pk _ _ _ rfl
  simp [accept, decodeCWord, mmaOf, v3Of, b4_7, b11_7, b18_7, f0_4, f25_6, hwf, VMod.ofCode_code]

theorem fdiv (o : V3) : Statement (.fdiv o) := by
  refine ofCompute [(4, o.m.code), (7, o.b.toNat), (7, o.a.toNat), (7, o.d.toNat), (6, 4)] rfl ⟨lt_of (o.m.code_lt), lt_of (o.b.isLt), lt_of (o.a.isLt), lt_of (o.d.isLt), by decide, trivial⟩ rfl (by show encV 0x4 o.d o.a o.b.toNat o.m.code = _; simp only [cat, encV]; try omega) fun z pk hwf => ?_
  replace hwf : (o.m.wf) = true := hwf
  have b4_7 : bvField 7 z 4 = o.b := bvField_of (pk _ _ _ rfl)
  have b11_7 : bvField 7 z 11 = o.a := bvField_of (pk _ _ _ rfl)
  have b18_7 : bvField 7 z 18 = o.d := bvField_of (pk _ _ _ rfl)
  have f0_4 : field z 0 4 = o.m.code := pk _ _ _ rfl
  have f25_6 : field z 25 6 = 4 := pk _ _ _ rfl
  simp [accept, decodeCWord, mmaOf, v3Of, b4_7, b11_7, b18_7, f0_4, f25_6, hwf, VMod.ofCode_code]

theorem fmin (o : V3) : Statement (.fmin o) := by
  refine ofCompute [(4, o.m.code), (7, o.b.toNat), (7, o.a.toNat), (7, o.d.toNat), (6, 5)] rfl ⟨lt_of (o.m.code_lt), lt_of (o.b.isLt), lt_of (o.a.isLt), lt_of (o.d.isLt), by decide, trivial⟩ rfl (by show encV 0x5 o.d o.a o.b.toNat o.m.code = _; simp only [cat, encV]; try omega) fun z pk hwf => ?_
  replace hwf : (o.m.wf) = true := hwf
  have b4_7 : bvField 7 z 4 = o.b := bvField_of (pk _ _ _ rfl)
  have b11_7 : bvField 7 z 11 = o.a := bvField_of (pk _ _ _ rfl)
  have b18_7 : bvField 7 z 18 = o.d := bvField_of (pk _ _ _ rfl)
  have f0_4 : field z 0 4 = o.m.code := pk _ _ _ rfl
  have f25_6 : field z 25 6 = 5 := pk _ _ _ rfl
  simp [accept, decodeCWord, mmaOf, v3Of, b4_7, b11_7, b18_7, f0_4, f25_6, hwf, VMod.ofCode_code]

theorem fmax (o : V3) : Statement (.fmax o) := by
  refine ofCompute [(4, o.m.code), (7, o.b.toNat), (7, o.a.toNat), (7, o.d.toNat), (6, 6)] rfl ⟨lt_of (o.m.code_lt), lt_of (o.b.isLt), lt_of (o.a.isLt), lt_of (o.d.isLt), by decide, trivial⟩ rfl (by show encV 0x6 o.d o.a o.b.toNat o.m.code = _; simp only [cat, encV]; try omega) fun z pk hwf => ?_
  replace hwf : (o.m.wf) = true := hwf
  have b4_7 : bvField 7 z 4 = o.b := bvField_of (pk _ _ _ rfl)
  have b11_7 : bvField 7 z 11 = o.a := bvField_of (pk _ _ _ rfl)
  have b18_7 : bvField 7 z 18 = o.d := bvField_of (pk _ _ _ rfl)
  have f0_4 : field z 0 4 = o.m.code := pk _ _ _ rfl
  have f25_6 : field z 25 6 = 6 := pk _ _ _ rfl
  simp [accept, decodeCWord, mmaOf, v3Of, b4_7, b11_7, b18_7, f0_4, f25_6, hwf, VMod.ofCode_code]

theorem fma (o : V3) : Statement (.fma o) := by
  refine ofCompute [(4, o.m.code), (7, o.b.toNat), (7, o.a.toNat), (7, o.d.toNat), (6, 7)] rfl ⟨lt_of (o.m.code_lt), lt_of (o.b.isLt), lt_of (o.a.isLt), lt_of (o.d.isLt), by decide, trivial⟩ rfl (by show encV 0x7 o.d o.a o.b.toNat o.m.code = _; simp only [cat, encV]; try omega) fun z pk hwf => ?_
  replace hwf : (o.m.wf) = true := hwf
  have b4_7 : bvField 7 z 4 = o.b := bvField_of (pk _ _ _ rfl)
  have b11_7 : bvField 7 z 11 = o.a := bvField_of (pk _ _ _ rfl)
  have b18_7 : bvField 7 z 18 = o.d := bvField_of (pk _ _ _ rfl)
  have f0_4 : field z 0 4 = o.m.code := pk _ _ _ rfl
  have f25_6 : field z 25 6 = 7 := pk _ _ _ rfl
  simp [accept, decodeCWord, mmaOf, v3Of, b4_7, b11_7, b18_7, f0_4, f25_6, hwf, VMod.ofCode_code]

theorem fms (o : V3) : Statement (.fms o) := by
  refine ofCompute [(4, o.m.code), (7, o.b.toNat), (7, o.a.toNat), (7, o.d.toNat), (6, 8)] rfl ⟨lt_of (o.m.code_lt), lt_of (o.b.isLt), lt_of (o.a.isLt), lt_of (o.d.isLt), by decide, trivial⟩ rfl (by show encV 0x8 o.d o.a o.b.toNat o.m.code = _; simp only [cat, encV]; try omega) fun z pk hwf => ?_
  replace hwf : (o.m.wf) = true := hwf
  have b4_7 : bvField 7 z 4 = o.b := bvField_of (pk _ _ _ rfl)
  have b11_7 : bvField 7 z 11 = o.a := bvField_of (pk _ _ _ rfl)
  have b18_7 : bvField 7 z 18 = o.d := bvField_of (pk _ _ _ rfl)
  have f0_4 : field z 0 4 = o.m.code := pk _ _ _ rfl
  have f25_6 : field z 25 6 = 8 := pk _ _ _ rfl
  simp [accept, decodeCWord, mmaOf, v3Of, b4_7, b11_7, b18_7, f0_4, f25_6, hwf, VMod.ofCode_code]

theorem fnma (o : V3) : Statement (.fnma o) := by
  refine ofCompute [(4, o.m.code), (7, o.b.toNat), (7, o.a.toNat), (7, o.d.toNat), (6, 9)] rfl ⟨lt_of (o.m.code_lt), lt_of (o.b.isLt), lt_of (o.a.isLt), lt_of (o.d.isLt), by decide, trivial⟩ rfl (by show encV 0x9 o.d o.a o.b.toNat o.m.code = _; simp only [cat, encV]; try omega) fun z pk hwf => ?_
  replace hwf : (o.m.wf) = true := hwf
  have b4_7 : bvField 7 z 4 = o.b := bvField_of (pk _ _ _ rfl)
  have b11_7 : bvField 7 z 11 = o.a := bvField_of (pk _ _ _ rfl)
  have b18_7 : bvField 7 z 18 = o.d := bvField_of (pk _ _ _ rfl)
  have f0_4 : field z 0 4 = o.m.code := pk _ _ _ rfl
  have f25_6 : field z 25 6 = 9 := pk _ _ _ rfl
  simp [accept, decodeCWord, mmaOf, v3Of, b4_7, b11_7, b18_7, f0_4, f25_6, hwf, VMod.ofCode_code]

theorem fnms (o : V3) : Statement (.fnms o) := by
  refine ofCompute [(4, o.m.code), (7, o.b.toNat), (7, o.a.toNat), (7, o.d.toNat), (6, 10)] rfl ⟨lt_of (o.m.code_lt), lt_of (o.b.isLt), lt_of (o.a.isLt), lt_of (o.d.isLt), by decide, trivial⟩ rfl (by show encV 0xa o.d o.a o.b.toNat o.m.code = _; simp only [cat, encV]; try omega) fun z pk hwf => ?_
  replace hwf : (o.m.wf) = true := hwf
  have b4_7 : bvField 7 z 4 = o.b := bvField_of (pk _ _ _ rfl)
  have b11_7 : bvField 7 z 11 = o.a := bvField_of (pk _ _ _ rfl)
  have b18_7 : bvField 7 z 18 = o.d := bvField_of (pk _ _ _ rfl)
  have f0_4 : field z 0 4 = o.m.code := pk _ _ _ rfl
  have f25_6 : field z 25 6 = 10 := pk _ _ _ rfl
  simp [accept, decodeCWord, mmaOf, v3Of, b4_7, b11_7, b18_7, f0_4, f25_6, hwf, VMod.ofCode_code]

theorem cAdd (o : V3) : Statement (.cAdd o) := by
  refine ofCompute [(4, o.m.code), (7, o.b.toNat), (7, o.a.toNat), (7, o.d.toNat), (6, 11)] rfl ⟨lt_of (o.m.code_lt), lt_of (o.b.isLt), lt_of (o.a.isLt), lt_of (o.d.isLt), by decide, trivial⟩ rfl (by show encV 0xb o.d o.a o.b.toNat o.m.code = _; simp only [cat, encV]; try omega) fun z pk hwf => ?_
  replace hwf : (o.m.wf) = true := hwf
  have b4_7 : bvField 7 z 4 = o.b := bvField_of (pk _ _ _ rfl)
  have b11_7 : bvField 7 z 11 = o.a := bvField_of (pk _ _ _ rfl)
  have b18_7 : bvField 7 z 18 = o.d := bvField_of (pk _ _ _ rfl)
  have f0_4 : field z 0 4 = o.m.code := pk _ _ _ rfl
  have f25_6 : field z 25 6 = 11 := pk _ _ _ rfl
  simp [accept, decodeCWord, mmaOf, v3Of, b4_7, b11_7, b18_7, f0_4, f25_6, hwf, VMod.ofCode_code]

theorem cSub (o : V3) : Statement (.cSub o) := by
  refine ofCompute [(4, o.m.code), (7, o.b.toNat), (7, o.a.toNat), (7, o.d.toNat), (6, 12)] rfl ⟨lt_of (o.m.code_lt), lt_of (o.b.isLt), lt_of (o.a.isLt), lt_of (o.d.isLt), by decide, trivial⟩ rfl (by show encV 0xc o.d o.a o.b.toNat o.m.code = _; simp only [cat, encV]; try omega) fun z pk hwf => ?_
  replace hwf : (o.m.wf) = true := hwf
  have b4_7 : bvField 7 z 4 = o.b := bvField_of (pk _ _ _ rfl)
  have b11_7 : bvField 7 z 11 = o.a := bvField_of (pk _ _ _ rfl)
  have b18_7 : bvField 7 z 18 = o.d := bvField_of (pk _ _ _ rfl)
  have f0_4 : field z 0 4 = o.m.code := pk _ _ _ rfl
  have f25_6 : field z 25 6 = 12 := pk _ _ _ rfl
  simp [accept, decodeCWord, mmaOf, v3Of, b4_7, b11_7, b18_7, f0_4, f25_6, hwf, VMod.ofCode_code]

theorem cMul (o : V3) : Statement (.cMul o) := by
  refine ofCompute [(4, o.m.code), (7, o.b.toNat), (7, o.a.toNat), (7, o.d.toNat), (6, 13)] rfl ⟨lt_of (o.m.code_lt), lt_of (o.b.isLt), lt_of (o.a.isLt), lt_of (o.d.isLt), by decide, trivial⟩ rfl (by show encV 0xd o.d o.a o.b.toNat o.m.code = _; simp only [cat, encV]; try omega) fun z pk hwf => ?_
  replace hwf : (o.m.wf) = true := hwf
  have b4_7 : bvField 7 z 4 = o.b := bvField_of (pk _ _ _ rfl)
  have b11_7 : bvField 7 z 11 = o.a := bvField_of (pk _ _ _ rfl)
  have b18_7 : bvField 7 z 18 = o.d := bvField_of (pk _ _ _ rfl)
  have f0_4 : field z 0 4 = o.m.code := pk _ _ _ rfl
  have f25_6 : field z 25 6 = 13 := pk _ _ _ rfl
  simp [accept, decodeCWord, mmaOf, v3Of, b4_7, b11_7, b18_7, f0_4, f25_6, hwf, VMod.ofCode_code]

theorem cMulh (o : V3) : Statement (.cMulh o) := by
  refine ofCompute [(4, o.m.code), (7, o.b.toNat), (7, o.a.toNat), (7, o.d.toNat), (6, 14)] rfl ⟨lt_of (o.m.code_lt), lt_of (o.b.isLt), lt_of (o.a.isLt), lt_of (o.d.isLt), by decide, trivial⟩ rfl (by show encV 0xe o.d o.a o.b.toNat o.m.code = _; simp only [cat, encV]; try omega) fun z pk hwf => ?_
  replace hwf : (o.m.wf) = true := hwf
  have b4_7 : bvField 7 z 4 = o.b := bvField_of (pk _ _ _ rfl)
  have b11_7 : bvField 7 z 11 = o.a := bvField_of (pk _ _ _ rfl)
  have b18_7 : bvField 7 z 18 = o.d := bvField_of (pk _ _ _ rfl)
  have f0_4 : field z 0 4 = o.m.code := pk _ _ _ rfl
  have f25_6 : field z 25 6 = 14 := pk _ _ _ rfl
  simp [accept, decodeCWord, mmaOf, v3Of, b4_7, b11_7, b18_7, f0_4, f25_6, hwf, VMod.ofCode_code]

theorem cMin (o : V3) : Statement (.cMin o) := by
  refine ofCompute [(4, o.m.code), (7, o.b.toNat), (7, o.a.toNat), (7, o.d.toNat), (6, 15)] rfl ⟨lt_of (o.m.code_lt), lt_of (o.b.isLt), lt_of (o.a.isLt), lt_of (o.d.isLt), by decide, trivial⟩ rfl (by show encV 0xf o.d o.a o.b.toNat o.m.code = _; simp only [cat, encV]; try omega) fun z pk hwf => ?_
  replace hwf : (o.m.wf) = true := hwf
  have b4_7 : bvField 7 z 4 = o.b := bvField_of (pk _ _ _ rfl)
  have b11_7 : bvField 7 z 11 = o.a := bvField_of (pk _ _ _ rfl)
  have b18_7 : bvField 7 z 18 = o.d := bvField_of (pk _ _ _ rfl)
  have f0_4 : field z 0 4 = o.m.code := pk _ _ _ rfl
  have f25_6 : field z 25 6 = 15 := pk _ _ _ rfl
  simp [accept, decodeCWord, mmaOf, v3Of, b4_7, b11_7, b18_7, f0_4, f25_6, hwf, VMod.ofCode_code]

theorem cMax (o : V3) : Statement (.cMax o) := by
  refine ofCompute [(4, o.m.code), (7, o.b.toNat), (7, o.a.toNat), (7, o.d.toNat), (6, 16)] rfl ⟨lt_of (o.m.code_lt), lt_of (o.b.isLt), lt_of (o.a.isLt), lt_of (o.d.isLt), by decide, trivial⟩ rfl (by show encV 0x10 o.d o.a o.b.toNat o.m.code = _; simp only [cat, encV]; try omega) fun z pk hwf => ?_
  replace hwf : (o.m.wf) = true := hwf
  have b4_7 : bvField 7 z 4 = o.b := bvField_of (pk _ _ _ rfl)
  have b11_7 : bvField 7 z 11 = o.a := bvField_of (pk _ _ _ rfl)
  have b18_7 : bvField 7 z 18 = o.d := bvField_of (pk _ _ _ rfl)
  have f0_4 : field z 0 4 = o.m.code := pk _ _ _ rfl
  have f25_6 : field z 25 6 = 16 := pk _ _ _ rfl
  simp [accept, decodeCWord, mmaOf, v3Of, b4_7, b11_7, b18_7, f0_4, f25_6, hwf, VMod.ofCode_code]

theorem cAnd (o : V3) : Statement (.cAnd o) := by
  refine ofCompute [(4, o.m.code), (7, o.b.toNat), (7, o.a.toNat), (7, o.d.toNat), (6, 17)] rfl ⟨lt_of (o.m.code_lt), lt_of (o.b.isLt), lt_of (o.a.isLt), lt_of (o.d.isLt), by decide, trivial⟩ rfl (by show encV 0x11 o.d o.a o.b.toNat o.m.code = _; simp only [cat, encV]; try omega) fun z pk hwf => ?_
  replace hwf : (o.m.wf) = true := hwf
  have b4_7 : bvField 7 z 4 = o.b := bvField_of (pk _ _ _ rfl)
  have b11_7 : bvField 7 z 11 = o.a := bvField_of (pk _ _ _ rfl)
  have b18_7 : bvField 7 z 18 = o.d := bvField_of (pk _ _ _ rfl)
  have f0_4 : field z 0 4 = o.m.code := pk _ _ _ rfl
  have f25_6 : field z 25 6 = 17 := pk _ _ _ rfl
  simp [accept, decodeCWord, mmaOf, v3Of, b4_7, b11_7, b18_7, f0_4, f25_6, hwf, VMod.ofCode_code]

theorem cOr (o : V3) : Statement (.cOr o) := by
  refine ofCompute [(4, o.m.code), (7, o.b.toNat), (7, o.a.toNat), (7, o.d.toNat), (6, 18)] rfl ⟨lt_of (o.m.code_lt), lt_of (o.b.isLt), lt_of (o.a.isLt), lt_of (o.d.isLt), by decide, trivial⟩ rfl (by show encV 0x12 o.d o.a o.b.toNat o.m.code = _; simp only [cat, encV]; try omega) fun z pk hwf => ?_
  replace hwf : (o.m.wf) = true := hwf
  have b4_7 : bvField 7 z 4 = o.b := bvField_of (pk _ _ _ rfl)
  have b11_7 : bvField 7 z 11 = o.a := bvField_of (pk _ _ _ rfl)
  have b18_7 : bvField 7 z 18 = o.d := bvField_of (pk _ _ _ rfl)
  have f0_4 : field z 0 4 = o.m.code := pk _ _ _ rfl
  have f25_6 : field z 25 6 = 18 := pk _ _ _ rfl
  simp [accept, decodeCWord, mmaOf, v3Of, b4_7, b11_7, b18_7, f0_4, f25_6, hwf, VMod.ofCode_code]

theorem cXor (o : V3) : Statement (.cXor o) := by
  refine ofCompute [(4, o.m.code), (7, o.b.toNat), (7, o.a.toNat), (7, o.d.toNat), (6, 19)] rfl ⟨lt_of (o.m.code_lt), lt_of (o.b.isLt), lt_of (o.a.isLt), lt_of (o.d.isLt), by decide, trivial⟩ rfl (by show encV 0x13 o.d o.a o.b.toNat o.m.code = _; simp only [cat, encV]; try omega) fun z pk hwf => ?_
  replace hwf : (o.m.wf) = true := hwf
  have b4_7 : bvField 7 z 4 = o.b := bvField_of (pk _ _ _ rfl)
  have b11_7 : bvField 7 z 11 = o.a := bvField_of (pk _ _ _ rfl)
  have b18_7 : bvField 7 z 18 = o.d := bvField_of (pk _ _ _ rfl)
  have f0_4 : field z 0 4 = o.m.code := pk _ _ _ rfl
  have f25_6 : field z 25 6 = 19 := pk _ _ _ rfl
  simp [accept, decodeCWord, mmaOf, v3Of, b4_7, b11_7, b18_7, f0_4, f25_6, hwf, VMod.ofCode_code]

theorem cShl (o : V3) : Statement (.cShl o) := by
  refine ofCompute [(4, o.m.code), (7, o.b.toNat), (7, o.a.toNat), (7, o.d.toNat), (6, 20)] rfl ⟨lt_of (o.m.code_lt), lt_of (o.b.isLt), lt_of (o.a.isLt), lt_of (o.d.isLt), by decide, trivial⟩ rfl (by show encV 0x14 o.d o.a o.b.toNat o.m.code = _; simp only [cat, encV]; try omega) fun z pk hwf => ?_
  replace hwf : (o.m.wf) = true := hwf
  have b4_7 : bvField 7 z 4 = o.b := bvField_of (pk _ _ _ rfl)
  have b11_7 : bvField 7 z 11 = o.a := bvField_of (pk _ _ _ rfl)
  have b18_7 : bvField 7 z 18 = o.d := bvField_of (pk _ _ _ rfl)
  have f0_4 : field z 0 4 = o.m.code := pk _ _ _ rfl
  have f25_6 : field z 25 6 = 20 := pk _ _ _ rfl
  simp [accept, decodeCWord, mmaOf, v3Of, b4_7, b11_7, b18_7, f0_4, f25_6, hwf, VMod.ofCode_code]

theorem cShr (o : V3) : Statement (.cShr o) := by
  refine ofCompute [(4, o.m.code), (7, o.b.toNat), (7, o.a.toNat), (7, o.d.toNat), (6, 21)] rfl ⟨lt_of (o.m.code_lt), lt_of (o.b.isLt), lt_of (o.a.isLt), lt_of (o.d.isLt), by decide, trivial⟩ rfl (by show encV 0x15 o.d o.a o.b.toNat o.m.code = _; simp only [cat, encV]; try omega) fun z pk hwf => ?_
  replace hwf : (o.m.wf) = true := hwf
  have b4_7 : bvField 7 z 4 = o.b := bvField_of (pk _ _ _ rfl)
  have b11_7 : bvField 7 z 11 = o.a := bvField_of (pk _ _ _ rfl)
  have b18_7 : bvField 7 z 18 = o.d := bvField_of (pk _ _ _ rfl)
  have f0_4 : field z 0 4 = o.m.code := pk _ _ _ rfl
  have f25_6 : field z 25 6 = 21 := pk _ _ _ rfl
  simp [accept, decodeCWord, mmaOf, v3Of, b4_7, b11_7, b18_7, f0_4, f25_6, hwf, VMod.ofCode_code]

theorem cmp (cond : Cond) (k : BitVec 3) (a : BitVec 7) (b : BitVec 7) (g : Guard) : Statement (.cmp cond k a b g) := by
  refine ofCompute [(4, guardCode g), (7, b.toNat), (7, a.toNat), (3, k.toNat), (4, cond.code), (6, 22)] rfl ⟨lt_of (guardCode_lt g), lt_of (b.isLt), lt_of (a.isLt), lt_of (k.isLt), lt_of (cond.code_lt), by decide, trivial⟩ rfl (by show 0x16 * 2 ^ 25 + cond.code * 2 ^ 21 + k.toNat * 2 ^ 18 + a.toNat * 2 ^ 11 + b.toNat * 2 ^ 4 + guardCode g = _; simp only [cat]; try omega) fun z pk _ => ?_
  have b4_7 : bvField 7 z 4 = b := bvField_of (pk _ _ _ rfl)
  have b11_7 : bvField 7 z 11 = a := bvField_of (pk _ _ _ rfl)
  have b18_3 : bvField 3 z 18 = k := bvField_of (pk _ _ _ rfl)
  have f0_4 : field z 0 4 = guardCode g := pk _ _ _ rfl
  have f21_4 : field z 21 4 = cond.code := pk _ _ _ rfl
  have f25_6 : field z 25 6 = 22 := pk _ _ _ rfl
  simp [accept, acceptGuard, decodeCWord, b4_7, b11_7, b18_3, f0_4, f21_4, f25_6]

theorem cSel (d : BitVec 7) (a : BitVec 7) (b : BitVec 7) (k : BitVec 3) : Statement (.cSel d a b k) := by
  refine ofCompute [(3, k.toNat), (1, 0), (7, b.toNat), (7, a.toNat), (7, d.toNat), (6, 23)] rfl ⟨lt_of (k.isLt), by decide, lt_of (b.isLt), lt_of (a.isLt), lt_of (d.isLt), by decide, trivial⟩ rfl (by show encV 0x17 d a b.toNat k.toNat = _; simp only [cat, encV]; try omega) fun z pk hwf => ?_
  replace hwf : (k != 0) = true := hwf
  have hz := toNat_ne hwf
  have hn := ne_zero hwf
  have b0_3 : bvField 3 z 0 = k := bvField_of (pk _ _ _ rfl)
  have b4_7 : bvField 7 z 4 = b := bvField_of (pk _ _ _ rfl)
  have b11_7 : bvField 7 z 11 = a := bvField_of (pk _ _ _ rfl)
  have b18_7 : bvField 7 z 18 = d := bvField_of (pk _ _ _ rfl)
  have f0_3 : field z 0 3 = k.toNat := pk _ _ _ rfl
  have f3_1 : field z 3 1 = 0 := pk _ _ _ rfl
  have f25_6 : field z 25 6 = 23 := pk _ _ _ rfl
  simp [accept, decodeCWord, hz, hn, b0_3, b4_7, b11_7, b18_7, f0_3, f3_1, f25_6, hwf]

theorem cMov (o : V2) : Statement (.cMov o) := by
  refine ofCompute [(4, o.m.code), (7, 1), (7, o.a.toNat), (7, o.d.toNat), (6, 24)] rfl ⟨lt_of (o.m.code_lt), by decide, lt_of (o.a.isLt), lt_of (o.d.isLt), by decide, trivial⟩ rfl (by show encV 0x18 o.d o.a 0x1 o.m.code = _; simp only [cat, encV]; try omega) fun z pk hwf => ?_
  replace hwf : (o.m.wf) = true := hwf
  have b11_7 : bvField 7 z 11 = o.a := bvField_of (pk _ _ _ rfl)
  have b18_7 : bvField 7 z 18 = o.d := bvField_of (pk _ _ _ rfl)
  have f0_4 : field z 0 4 = o.m.code := pk _ _ _ rfl
  have f4_7 : field z 4 7 = 1 := pk _ _ _ rfl
  have f25_6 : field z 25 6 = 24 := pk _ _ _ rfl
  simp [decodeCUnary, decodeCWord, v2Of, b11_7, b18_7, f0_4, f4_7, f25_6, hwf, VMod.ofCode_code]

theorem fabs (o : V2) : Statement (.fabs o) := by
  refine ofCompute [(4, o.m.code), (7, 2), (7, o.a.toNat), (7, o.d.toNat), (6, 24)] rfl ⟨lt_of (o.m.code_lt), by decide, lt_of (o.a.isLt), lt_of (o.d.isLt), by decide, trivial⟩ rfl (by show encV 0x18 o.d o.a 0x2 o.m.code = _; simp only [cat, encV]; try omega) fun z pk hwf => ?_
  replace hwf : (o.m.wf) = true := hwf
  have b11_7 : bvField 7 z 11 = o.a := bvField_of (pk _ _ _ rfl)
  have b18_7 : bvField 7 z 18 = o.d := bvField_of (pk _ _ _ rfl)
  have f0_4 : field z 0 4 = o.m.code := pk _ _ _ rfl
  have f4_7 : field z 4 7 = 2 := pk _ _ _ rfl
  have f25_6 : field z 25 6 = 24 := pk _ _ _ rfl
  simp [decodeCUnary, decodeCWord, v2Of, b11_7, b18_7, f0_4, f4_7, f25_6, hwf, VMod.ofCode_code]

theorem fneg (o : V2) : Statement (.fneg o) := by
  refine ofCompute [(4, o.m.code), (7, 3), (7, o.a.toNat), (7, o.d.toNat), (6, 24)] rfl ⟨lt_of (o.m.code_lt), by decide, lt_of (o.a.isLt), lt_of (o.d.isLt), by decide, trivial⟩ rfl (by show encV 0x18 o.d o.a 0x3 o.m.code = _; simp only [cat, encV]; try omega) fun z pk hwf => ?_
  replace hwf : (o.m.wf) = true := hwf
  have b11_7 : bvField 7 z 11 = o.a := bvField_of (pk _ _ _ rfl)
  have b18_7 : bvField 7 z 18 = o.d := bvField_of (pk _ _ _ rfl)
  have f0_4 : field z 0 4 = o.m.code := pk _ _ _ rfl
  have f4_7 : field z 4 7 = 3 := pk _ _ _ rfl
  have f25_6 : field z 25 6 = 24 := pk _ _ _ rfl
  simp [decodeCUnary, decodeCWord, v2Of, b11_7, b18_7, f0_4, f4_7, f25_6, hwf, VMod.ofCode_code]

theorem fsqrt (o : V2) : Statement (.fsqrt o) := by
  refine ofCompute [(4, o.m.code), (7, 4), (7, o.a.toNat), (7, o.d.toNat), (6, 24)] rfl ⟨lt_of (o.m.code_lt), by decide, lt_of (o.a.isLt), lt_of (o.d.isLt), by decide, trivial⟩ rfl (by show encV 0x18 o.d o.a 0x4 o.m.code = _; simp only [cat, encV]; try omega) fun z pk hwf => ?_
  replace hwf : (o.m.wf) = true := hwf
  have b11_7 : bvField 7 z 11 = o.a := bvField_of (pk _ _ _ rfl)
  have b18_7 : bvField 7 z 18 = o.d := bvField_of (pk _ _ _ rfl)
  have f0_4 : field z 0 4 = o.m.code := pk _ _ _ rfl
  have f4_7 : field z 4 7 = 4 := pk _ _ _ rfl
  have f25_6 : field z 25 6 = 24 := pk _ _ _ rfl
  simp [decodeCUnary, decodeCWord, v2Of, b11_7, b18_7, f0_4, f4_7, f25_6, hwf, VMod.ofCode_code]

theorem frcp (o : V2) : Statement (.frcp o) := by
  refine ofCompute [(4, o.m.code), (7, 5), (7, o.a.toNat), (7, o.d.toNat), (6, 24)] rfl ⟨lt_of (o.m.code_lt), by decide, lt_of (o.a.isLt), lt_of (o.d.isLt), by decide, trivial⟩ rfl (by show encV 0x18 o.d o.a 0x5 o.m.code = _; simp only [cat, encV]; try omega) fun z pk hwf => ?_
  replace hwf : (o.m.wf) = true := hwf
  have b11_7 : bvField 7 z 11 = o.a := bvField_of (pk _ _ _ rfl)
  have b18_7 : bvField 7 z 18 = o.d := bvField_of (pk _ _ _ rfl)
  have f0_4 : field z 0 4 = o.m.code := pk _ _ _ rfl
  have f4_7 : field z 4 7 = 5 := pk _ _ _ rfl
  have f25_6 : field z 25 6 = 24 := pk _ _ _ rfl
  simp [decodeCUnary, decodeCWord, v2Of, b11_7, b18_7, f0_4, f4_7, f25_6, hwf, VMod.ofCode_code]

theorem frsqrt (o : V2) : Statement (.frsqrt o) := by
  refine ofCompute [(4, o.m.code), (7, 6), (7, o.a.toNat), (7, o.d.toNat), (6, 24)] rfl ⟨lt_of (o.m.code_lt), by decide, lt_of (o.a.isLt), lt_of (o.d.isLt), by decide, trivial⟩ rfl (by show encV 0x18 o.d o.a 0x6 o.m.code = _; simp only [cat, encV]; try omega) fun z pk hwf => ?_
  replace hwf : (o.m.wf) = true := hwf
  have b11_7 : bvField 7 z 11 = o.a := bvField_of (pk _ _ _ rfl)
  have b18_7 : bvField 7 z 18 = o.d := bvField_of (pk _ _ _ rfl)
  have f0_4 : field z 0 4 = o.m.code := pk _ _ _ rfl
  have f4_7 : field z 4 7 = 6 := pk _ _ _ rfl
  have f25_6 : field z 25 6 = 24 := pk _ _ _ rfl
  simp [decodeCUnary, decodeCWord, v2Of, b11_7, b18_7, f0_4, f4_7, f25_6, hwf, VMod.ofCode_code]

theorem fexp2 (o : V2) : Statement (.fexp2 o) := by
  refine ofCompute [(4, o.m.code), (7, 7), (7, o.a.toNat), (7, o.d.toNat), (6, 24)] rfl ⟨lt_of (o.m.code_lt), by decide, lt_of (o.a.isLt), lt_of (o.d.isLt), by decide, trivial⟩ rfl (by show encV 0x18 o.d o.a 0x7 o.m.code = _; simp only [cat, encV]; try omega) fun z pk hwf => ?_
  replace hwf : (o.m.wf) = true := hwf
  have b11_7 : bvField 7 z 11 = o.a := bvField_of (pk _ _ _ rfl)
  have b18_7 : bvField 7 z 18 = o.d := bvField_of (pk _ _ _ rfl)
  have f0_4 : field z 0 4 = o.m.code := pk _ _ _ rfl
  have f4_7 : field z 4 7 = 7 := pk _ _ _ rfl
  have f25_6 : field z 25 6 = 24 := pk _ _ _ rfl
  simp [decodeCUnary, decodeCWord, v2Of, b11_7, b18_7, f0_4, f4_7, f25_6, hwf, VMod.ofCode_code]

theorem flog2 (o : V2) : Statement (.flog2 o) := by
  refine ofCompute [(4, o.m.code), (7, 8), (7, o.a.toNat), (7, o.d.toNat), (6, 24)] rfl ⟨lt_of (o.m.code_lt), by decide, lt_of (o.a.isLt), lt_of (o.d.isLt), by decide, trivial⟩ rfl (by show encV 0x18 o.d o.a 0x8 o.m.code = _; simp only [cat, encV]; try omega) fun z pk hwf => ?_
  replace hwf : (o.m.wf) = true := hwf
  have b11_7 : bvField 7 z 11 = o.a := bvField_of (pk _ _ _ rfl)
  have b18_7 : bvField 7 z 18 = o.d := bvField_of (pk _ _ _ rfl)
  have f0_4 : field z 0 4 = o.m.code := pk _ _ _ rfl
  have f4_7 : field z 4 7 = 8 := pk _ _ _ rfl
  have f25_6 : field z 25 6 = 24 := pk _ _ _ rfl
  simp [decodeCUnary, decodeCWord, v2Of, b11_7, b18_7, f0_4, f4_7, f25_6, hwf, VMod.ofCode_code]

theorem ftanh (o : V2) : Statement (.ftanh o) := by
  refine ofCompute [(4, o.m.code), (7, 9), (7, o.a.toNat), (7, o.d.toNat), (6, 24)] rfl ⟨lt_of (o.m.code_lt), by decide, lt_of (o.a.isLt), lt_of (o.d.isLt), by decide, trivial⟩ rfl (by show encV 0x18 o.d o.a 0x9 o.m.code = _; simp only [cat, encV]; try omega) fun z pk hwf => ?_
  replace hwf : (o.m.wf) = true := hwf
  have b11_7 : bvField 7 z 11 = o.a := bvField_of (pk _ _ _ rfl)
  have b18_7 : bvField 7 z 18 = o.d := bvField_of (pk _ _ _ rfl)
  have f0_4 : field z 0 4 = o.m.code := pk _ _ _ rfl
  have f4_7 : field z 4 7 = 9 := pk _ _ _ rfl
  have f25_6 : field z 25 6 = 24 := pk _ _ _ rfl
  simp [decodeCUnary, decodeCWord, v2Of, b11_7, b18_7, f0_4, f4_7, f25_6, hwf, VMod.ofCode_code]

theorem cAbs (o : V2) : Statement (.cAbs o) := by
  refine ofCompute [(4, o.m.code), (7, 10), (7, o.a.toNat), (7, o.d.toNat), (6, 24)] rfl ⟨lt_of (o.m.code_lt), by decide, lt_of (o.a.isLt), lt_of (o.d.isLt), by decide, trivial⟩ rfl (by show encV 0x18 o.d o.a 0xa o.m.code = _; simp only [cat, encV]; try omega) fun z pk hwf => ?_
  replace hwf : (o.m.wf) = true := hwf
  have b11_7 : bvField 7 z 11 = o.a := bvField_of (pk _ _ _ rfl)
  have b18_7 : bvField 7 z 18 = o.d := bvField_of (pk _ _ _ rfl)
  have f0_4 : field z 0 4 = o.m.code := pk _ _ _ rfl
  have f4_7 : field z 4 7 = 10 := pk _ _ _ rfl
  have f25_6 : field z 25 6 = 24 := pk _ _ _ rfl
  simp [decodeCUnary, decodeCWord, v2Of, b11_7, b18_7, f0_4, f4_7, f25_6, hwf, VMod.ofCode_code]

theorem cNeg (o : V2) : Statement (.cNeg o) := by
  refine ofCompute [(4, o.m.code), (7, 11), (7, o.a.toNat), (7, o.d.toNat), (6, 24)] rfl ⟨lt_of (o.m.code_lt), by decide, lt_of (o.a.isLt), lt_of (o.d.isLt), by decide, trivial⟩ rfl (by show encV 0x18 o.d o.a 0xb o.m.code = _; simp only [cat, encV]; try omega) fun z pk hwf => ?_
  replace hwf : (o.m.wf) = true := hwf
  have b11_7 : bvField 7 z 11 = o.a := bvField_of (pk _ _ _ rfl)
  have b18_7 : bvField 7 z 18 = o.d := bvField_of (pk _ _ _ rfl)
  have f0_4 : field z 0 4 = o.m.code := pk _ _ _ rfl
  have f4_7 : field z 4 7 = 11 := pk _ _ _ rfl
  have f25_6 : field z 25 6 = 24 := pk _ _ _ rfl
  simp [decodeCUnary, decodeCWord, v2Of, b11_7, b18_7, f0_4, f4_7, f25_6, hwf, VMod.ofCode_code]

theorem cNot (o : V2) : Statement (.cNot o) := by
  refine ofCompute [(4, o.m.code), (7, 12), (7, o.a.toNat), (7, o.d.toNat), (6, 24)] rfl ⟨lt_of (o.m.code_lt), by decide, lt_of (o.a.isLt), lt_of (o.d.isLt), by decide, trivial⟩ rfl (by show encV 0x18 o.d o.a 0xc o.m.code = _; simp only [cat, encV]; try omega) fun z pk hwf => ?_
  replace hwf : (o.m.wf) = true := hwf
  have b11_7 : bvField 7 z 11 = o.a := bvField_of (pk _ _ _ rfl)
  have b18_7 : bvField 7 z 18 = o.d := bvField_of (pk _ _ _ rfl)
  have f0_4 : field z 0 4 = o.m.code := pk _ _ _ rfl
  have f4_7 : field z 4 7 = 12 := pk _ _ _ rfl
  have f25_6 : field z 25 6 = 24 := pk _ _ _ rfl
  simp [decodeCUnary, decodeCWord, v2Of, b11_7, b18_7, f0_4, f4_7, f25_6, hwf, VMod.ofCode_code]

theorem cClz (o : V2) : Statement (.cClz o) := by
  refine ofCompute [(4, o.m.code), (7, 13), (7, o.a.toNat), (7, o.d.toNat), (6, 24)] rfl ⟨lt_of (o.m.code_lt), by decide, lt_of (o.a.isLt), lt_of (o.d.isLt), by decide, trivial⟩ rfl (by show encV 0x18 o.d o.a 0xd o.m.code = _; simp only [cat, encV]; try omega) fun z pk hwf => ?_
  replace hwf : (o.m.wf) = true := hwf
  have b11_7 : bvField 7 z 11 = o.a := bvField_of (pk _ _ _ rfl)
  have b18_7 : bvField 7 z 18 = o.d := bvField_of (pk _ _ _ rfl)
  have f0_4 : field z 0 4 = o.m.code := pk _ _ _ rfl
  have f4_7 : field z 4 7 = 13 := pk _ _ _ rfl
  have f25_6 : field z 25 6 = 24 := pk _ _ _ rfl
  simp [decodeCUnary, decodeCWord, v2Of, b11_7, b18_7, f0_4, f4_7, f25_6, hwf, VMod.ofCode_code]

theorem cPopc (o : V2) : Statement (.cPopc o) := by
  refine ofCompute [(4, o.m.code), (7, 14), (7, o.a.toNat), (7, o.d.toNat), (6, 24)] rfl ⟨lt_of (o.m.code_lt), by decide, lt_of (o.a.isLt), lt_of (o.d.isLt), by decide, trivial⟩ rfl (by show encV 0x18 o.d o.a 0xe o.m.code = _; simp only [cat, encV]; try omega) fun z pk hwf => ?_
  replace hwf : (o.m.wf) = true := hwf
  have b11_7 : bvField 7 z 11 = o.a := bvField_of (pk _ _ _ rfl)
  have b18_7 : bvField 7 z 18 = o.d := bvField_of (pk _ _ _ rfl)
  have f0_4 : field z 0 4 = o.m.code := pk _ _ _ rfl
  have f4_7 : field z 4 7 = 14 := pk _ _ _ rfl
  have f25_6 : field z 25 6 = 24 := pk _ _ _ rfl
  simp [decodeCUnary, decodeCWord, v2Of, b11_7, b18_7, f0_4, f4_7, f25_6, hwf, VMod.ofCode_code]

theorem cvt (o : V2) (fmt : Fmt) (rnd : Rnd) : Statement (.cvt o fmt rnd) := by
  refine ofCompute [(4, o.m.code), (3, rnd.code), (4, fmt.code), (7, o.a.toNat), (7, o.d.toNat), (6, 25)] rfl ⟨lt_of (o.m.code_lt), lt_of (rnd.code_lt), lt_of (fmt.code_lt), lt_of (o.a.isLt), lt_of (o.d.isLt), by decide, trivial⟩ rfl (by show encV 0x19 o.d o.a (fmt.code * 8 + rnd.code) o.m.code = _; simp only [cat, encV]; try omega) fun z pk hwf => ?_
  replace hwf : (o.m.wfFor fmt) = true := hwf
  have hm := VMod.wf_of_wfFor hwf
  have b11_7 : bvField 7 z 11 = o.a := bvField_of (pk _ _ _ rfl)
  have b18_7 : bvField 7 z 18 = o.d := bvField_of (pk _ _ _ rfl)
  have f0_4 : field z 0 4 = o.m.code := pk _ _ _ rfl
  have f4_3 : field z 4 3 = rnd.code := pk _ _ _ rfl
  have f7_4 : field z 7 4 = fmt.code := pk _ _ _ rfl
  have f25_6 : field z 25 6 = 25 := pk _ _ _ rfl
  simp [accept, decodeCWord, decodeCvt, v2Of, hm, b11_7, b18_7, f0_4, f4_3, f7_4, f25_6, hwf, VMod.ofCode_code]

theorem cvta (o : V2) (fmt : Fmt) (j : BitVec 2) (sat : Bool) : Statement (.cvta o fmt j sat) := by
  refine ofCompute [(4, o.m.code), (1, bitCode sat), (2, j.toNat), (4, fmt.code), (7, o.a.toNat), (7, o.d.toNat), (6, 26)] rfl ⟨lt_of (o.m.code_lt), lt_of (bitCode_lt sat), lt_of (j.isLt), lt_of (fmt.code_lt), lt_of (o.a.isLt), lt_of (o.d.isLt), by decide, trivial⟩ rfl (by show encV 0x1A o.d o.a (fmt.code * 8 + j.toNat * 2 + bitCode sat) o.m.code = _; simp only [cat, encV]; try omega) fun z pk hwf => ?_
  replace hwf : (o.m.wfFor fmt) = true := hwf
  have hm := VMod.wf_of_wfFor hwf
  have t4 : bitField z 4 = sat := bitField_of (pk _ _ _ rfl)
  have b5_2 : bvField 2 z 5 = j := bvField_of (pk _ _ _ rfl)
  have b11_7 : bvField 7 z 11 = o.a := bvField_of (pk _ _ _ rfl)
  have b18_7 : bvField 7 z 18 = o.d := bvField_of (pk _ _ _ rfl)
  have f0_4 : field z 0 4 = o.m.code := pk _ _ _ rfl
  have f7_4 : field z 7 4 = fmt.code := pk _ _ _ rfl
  have f25_6 : field z 25 6 = 26 := pk _ _ _ rfl
  simp [accept, decodeCWord, decodeCvt, v2Of, hm, t4, b5_2, b11_7, b18_7, f0_4, f7_4, f25_6, hwf, VMod.ofCode_code]

theorem rot (o : V2) (ax : Axis) (n : BitVec 6) : Statement (.rot o ax n) := by
  cases ax with
  | row =>
    refine ofCompute [(4, o.m.code), (6, n.toNat), (1, 0), (7, o.a.toNat), (7, o.d.toNat), (6, 27)] rfl ⟨lt_of (o.m.code_lt), lt_of (n.isLt), by decide, lt_of (o.a.isLt), lt_of (o.d.isLt), by decide, trivial⟩ rfl (by show encV 0x1B o.d o.a (Axis.row.code * 64 + n.toNat) o.m.code = _; simp only [cat, encV, Axis.code]; try omega) fun z pk hwf => ?_
    replace hwf : (o.m.wf && Axis.row.wfCount n) = true := hwf
    simp only [Bool.and_eq_true] at hwf
    have t10 : bitField z 10 = false := bitField_of (pk _ _ _ rfl)
    have b4_6 : bvField 6 z 4 = n := bvField_of (pk _ _ _ rfl)
    have b11_7 : bvField 7 z 11 = o.a := bvField_of (pk _ _ _ rfl)
    have b18_7 : bvField 7 z 18 = o.d := bvField_of (pk _ _ _ rfl)
    have f0_4 : field z 0 4 = o.m.code := pk _ _ _ rfl
    have f25_6 : field z 25 6 = 27 := pk _ _ _ rfl
    simp [accept, decodeCWord, v2Of, t10, b4_6, b11_7, b18_7, f0_4, f25_6, hwf, VMod.ofCode_code, Axis.ofBit]
  | col =>
    refine ofCompute [(4, o.m.code), (6, n.toNat), (1, 1), (7, o.a.toNat), (7, o.d.toNat), (6, 27)] rfl ⟨lt_of (o.m.code_lt), lt_of (n.isLt), by decide, lt_of (o.a.isLt), lt_of (o.d.isLt), by decide, trivial⟩ rfl (by show encV 0x1B o.d o.a (Axis.col.code * 64 + n.toNat) o.m.code = _; simp only [cat, encV, Axis.code]; try omega) fun z pk hwf => ?_
    replace hwf : (o.m.wf && Axis.col.wfCount n) = true := hwf
    simp only [Bool.and_eq_true] at hwf
    have t10 : bitField z 10 = true := bitField_of (pk _ _ _ rfl)
    have b4_6 : bvField 6 z 4 = n := bvField_of (pk _ _ _ rfl)
    have b11_7 : bvField 7 z 11 = o.a := bvField_of (pk _ _ _ rfl)
    have b18_7 : bvField 7 z 18 = o.d := bvField_of (pk _ _ _ rfl)
    have f0_4 : field z 0 4 = o.m.code := pk _ _ _ rfl
    have f25_6 : field z 25 6 = 27 := pk _ _ _ rfl
    simp [accept, decodeCWord, v2Of, t10, b4_6, b11_7, b18_7, f0_4, f25_6, hwf, VMod.ofCode_code, Axis.ofBit]

theorem bcast (o : V2) (ax : Axis) (n : BitVec 6) : Statement (.bcast o ax n) := by
  cases ax with
  | row =>
    refine ofCompute [(4, o.m.code), (6, n.toNat), (1, 0), (7, o.a.toNat), (7, o.d.toNat), (6, 28)] rfl ⟨lt_of (o.m.code_lt), lt_of (n.isLt), by decide, lt_of (o.a.isLt), lt_of (o.d.isLt), by decide, trivial⟩ rfl (by show encV 0x1C o.d o.a (Axis.row.code * 64 + n.toNat) o.m.code = _; simp only [cat, encV, Axis.code]; try omega) fun z pk hwf => ?_
    replace hwf : (o.m.wf && Axis.row.wfCount n) = true := hwf
    simp only [Bool.and_eq_true] at hwf
    have t10 : bitField z 10 = false := bitField_of (pk _ _ _ rfl)
    have b4_6 : bvField 6 z 4 = n := bvField_of (pk _ _ _ rfl)
    have b11_7 : bvField 7 z 11 = o.a := bvField_of (pk _ _ _ rfl)
    have b18_7 : bvField 7 z 18 = o.d := bvField_of (pk _ _ _ rfl)
    have f0_4 : field z 0 4 = o.m.code := pk _ _ _ rfl
    have f25_6 : field z 25 6 = 28 := pk _ _ _ rfl
    simp [accept, decodeCWord, v2Of, t10, b4_6, b11_7, b18_7, f0_4, f25_6, hwf, VMod.ofCode_code, Axis.ofBit]
  | col =>
    refine ofCompute [(4, o.m.code), (6, n.toNat), (1, 1), (7, o.a.toNat), (7, o.d.toNat), (6, 28)] rfl ⟨lt_of (o.m.code_lt), lt_of (n.isLt), by decide, lt_of (o.a.isLt), lt_of (o.d.isLt), by decide, trivial⟩ rfl (by show encV 0x1C o.d o.a (Axis.col.code * 64 + n.toNat) o.m.code = _; simp only [cat, encV, Axis.code]; try omega) fun z pk hwf => ?_
    replace hwf : (o.m.wf && Axis.col.wfCount n) = true := hwf
    simp only [Bool.and_eq_true] at hwf
    have t10 : bitField z 10 = true := bitField_of (pk _ _ _ rfl)
    have b4_6 : bvField 6 z 4 = n := bvField_of (pk _ _ _ rfl)
    have b11_7 : bvField 7 z 11 = o.a := bvField_of (pk _ _ _ rfl)
    have b18_7 : bvField 7 z 18 = o.d := bvField_of (pk _ _ _ rfl)
    have f0_4 : field z 0 4 = o.m.code := pk _ _ _ rfl
    have f25_6 : field z 25 6 = 28 := pk _ _ _ rfl
    simp [accept, decodeCWord, v2Of, t10, b4_6, b11_7, b18_7, f0_4, f25_6, hwf, VMod.ofCode_code, Axis.ofBit]

theorem red (o : V2) (ax : Axis) (op : RedOp) : Statement (.red o ax op) := by
  cases ax with
  | row =>
    refine ofCompute [(4, o.m.code), (3, 0), (3, op.code), (1, 0), (7, o.a.toNat), (7, o.d.toNat), (6, 29)] rfl ⟨lt_of (o.m.code_lt), by decide, lt_of (op.code_lt), by decide, lt_of (o.a.isLt), lt_of (o.d.isLt), by decide, trivial⟩ rfl (by show encV 0x1D o.d o.a (Axis.row.code * 64 + op.code * 8) o.m.code = _; simp only [cat, encV, Axis.code]; try omega) fun z pk hwf => ?_
    replace hwf : (o.m.wf) = true := hwf
    have t10 : bitField z 10 = false := bitField_of (pk _ _ _ rfl)
    have b11_7 : bvField 7 z 11 = o.a := bvField_of (pk _ _ _ rfl)
    have b18_7 : bvField 7 z 18 = o.d := bvField_of (pk _ _ _ rfl)
    have f0_4 : field z 0 4 = o.m.code := pk _ _ _ rfl
    have f4_3 : field z 4 3 = 0 := pk _ _ _ rfl
    have f7_3 : field z 7 3 = op.code := pk _ _ _ rfl
    have f25_6 : field z 25 6 = 29 := pk _ _ _ rfl
    simp [accept, decodeCWord, v2Of, t10, b11_7, b18_7, f0_4, f4_3, f7_3, f25_6, hwf, VMod.ofCode_code, Axis.ofBit]
  | col =>
    refine ofCompute [(4, o.m.code), (3, 0), (3, op.code), (1, 1), (7, o.a.toNat), (7, o.d.toNat), (6, 29)] rfl ⟨lt_of (o.m.code_lt), by decide, lt_of (op.code_lt), by decide, lt_of (o.a.isLt), lt_of (o.d.isLt), by decide, trivial⟩ rfl (by show encV 0x1D o.d o.a (Axis.col.code * 64 + op.code * 8) o.m.code = _; simp only [cat, encV, Axis.code]; try omega) fun z pk hwf => ?_
    replace hwf : (o.m.wf) = true := hwf
    have t10 : bitField z 10 = true := bitField_of (pk _ _ _ rfl)
    have b11_7 : bvField 7 z 11 = o.a := bvField_of (pk _ _ _ rfl)
    have b18_7 : bvField 7 z 18 = o.d := bvField_of (pk _ _ _ rfl)
    have f0_4 : field z 0 4 = o.m.code := pk _ _ _ rfl
    have f4_3 : field z 4 3 = 0 := pk _ _ _ rfl
    have f7_3 : field z 7 3 = op.code := pk _ _ _ rfl
    have f25_6 : field z 25 6 = 29 := pk _ _ _ rfl
    simp [accept, decodeCWord, v2Of, t10, b11_7, b18_7, f0_4, f4_3, f7_3, f25_6, hwf, VMod.ofCode_code, Axis.ofBit]

theorem xpose (o : V2) : Statement (.xpose o) := by
  refine ofCompute [(4, o.m.code), (7, 0), (7, o.a.toNat), (7, o.d.toNat), (6, 30)] rfl ⟨lt_of (o.m.code_lt), by decide, lt_of (o.a.isLt), lt_of (o.d.isLt), by decide, trivial⟩ rfl (by show encV 0x1E o.d o.a 0 o.m.code = _; simp only [cat, encV, BitVec.ofNat_eq_ofNat, BitVec.toNat_ofNat]; try omega) fun z pk hwf => ?_
  replace hwf : (o.m.wf) = true := hwf
  have b11_7 : bvField 7 z 11 = o.a := bvField_of (pk _ _ _ rfl)
  have b18_7 : bvField 7 z 18 = o.d := bvField_of (pk _ _ _ rfl)
  have f0_4 : field z 0 4 = o.m.code := pk _ _ _ rfl
  have f4_7 : field z 4 7 = 0 := pk _ _ _ rfl
  have f25_6 : field z 25 6 = 30 := pk _ _ _ rfl
  simp [accept, decodeCWord, v2Of, b11_7, b18_7, f0_4, f4_7, f25_6, hwf, VMod.ofCode_code]

theorem vbx (o : V2) (k : BitVec 3) : Statement (.vbx o k) := by
  refine ofCompute [(4, o.m.code), (3, k.toNat), (3, 0), (1, 0), (7, o.a.toNat), (7, o.d.toNat), (6, 31)] rfl ⟨lt_of (o.m.code_lt), lt_of (k.isLt), by decide, by decide, lt_of (o.a.isLt), lt_of (o.d.isLt), by decide, trivial⟩ rfl (by show encV 0x1F o.d o.a k.toNat o.m.code = _; simp only [cat, encV]; try omega) fun z pk hwf => ?_
  replace hwf : (o.m.wf) = true := hwf
  have t10 : bitField z 10 = false := bitField_of (pk _ _ _ rfl)
  have b4_3 : bvField 3 z 4 = k := bvField_of (pk _ _ _ rfl)
  have b11_7 : bvField 7 z 11 = o.a := bvField_of (pk _ _ _ rfl)
  have b18_7 : bvField 7 z 18 = o.d := bvField_of (pk _ _ _ rfl)
  have f0_4 : field z 0 4 = o.m.code := pk _ _ _ rfl
  have f7_3 : field z 7 3 = 0 := pk _ _ _ rfl
  have f18_7 : field z 18 7 = o.d.toNat := pk _ _ _ rfl
  have f25_6 : field z 25 6 = 31 := pk _ _ _ rfl
  simp [accept, acceptGuard, decodeCWord, v2Of, t10, b4_3, b11_7, b18_7, f0_4, f7_3, f18_7, f25_6, hwf, VMod.ofCode_code]

theorem vbxl (a : BitVec 7) (k : BitVec 3) (g : Guard) : Statement (.vbxl a k g) := by
  refine ofCompute [(4, guardCode g), (3, k.toNat), (3, 0), (1, 1), (7, a.toNat), (7, 0), (6, 31)] rfl ⟨lt_of (guardCode_lt g), lt_of (k.isLt), by decide, by decide, lt_of (a.isLt), by decide, by decide, trivial⟩ rfl (by show encV 0x1F 0 a (64 + k.toNat) (guardCode g) = _; simp only [cat, encV, BitVec.ofNat_eq_ofNat, BitVec.toNat_ofNat]; try omega) fun z pk _ => ?_
  have t10 : bitField z 10 = true := bitField_of (pk _ _ _ rfl)
  have b4_3 : bvField 3 z 4 = k := bvField_of (pk _ _ _ rfl)
  have b11_7 : bvField 7 z 11 = a := bvField_of (pk _ _ _ rfl)
  have b18_7 : bvField 7 z 18 = 0#7 := bvField_of (pk _ _ _ rfl)
  have f0_4 : field z 0 4 = guardCode g := pk _ _ _ rfl
  have f7_3 : field z 7 3 = 0 := pk _ _ _ rfl
  have f18_7 : field z 18 7 = 0 := pk _ _ _ rfl
  have f25_6 : field z 25 6 = 31 := pk _ _ _ rfl
  simp [accept, acceptGuard, decodeCWord, v2Of, t10, b4_3, b11_7, b18_7, f0_4, f7_3, f18_7, f25_6]

theorem treemask (k : BitVec 3) (a : BitVec 7) (g : Guard) : Statement (.treemask k a g) := by
  intro wf
  have hk : k = 0#3 ∨ k = 4#3 := by
    have h : (k == 0 || k == 4) = true := wf
    simpa using h
  revert wf
  rcases hk with rfl | rfl
  · refine ofCompute [(4, guardCode g), (7, 0), (7, a.toNat), (2, 0), (1, 0), (4, 0), (6, 32)] rfl ⟨lt_of (guardCode_lt g), by decide, lt_of (a.isLt), by decide, by decide, by decide, by decide, trivial⟩ rfl (by show encV 0x20 ((0#3).setWidth 7) a 0 (guardCode g) = _; simp only [cat, encV, BitVec.ofNat_eq_ofNat, BitVec.toNat_ofNat, BitVec.toNat_setWidth]; try omega) fun z pk _ => ?_
    have b11_7 : bvField 7 z 11 = a := bvField_of (pk _ _ _ rfl)
    have b18_3 : bvField 3 z 18 = 0#3 := bvField_of (pk _ _ _ rfl)
    have f0_4 : field z 0 4 = guardCode g := pk _ _ _ rfl
    have f4_7 : field z 4 7 = 0 := pk _ _ _ rfl
    have f18_2 : field z 18 2 = 0 := pk _ _ _ rfl
    have f21_4 : field z 21 4 = 0 := pk _ _ _ rfl
    have f25_6 : field z 25 6 = 32 := pk _ _ _ rfl
    simp [accept, acceptGuard, decodeCWord, b11_7, b18_3, f0_4, f4_7, f18_2, f21_4, f25_6]
  · refine ofCompute [(4, guardCode g), (7, 0), (7, a.toNat), (2, 0), (1, 1), (4, 0), (6, 32)] rfl ⟨lt_of (guardCode_lt g), by decide, lt_of (a.isLt), by decide, by decide, by decide, by decide, trivial⟩ rfl (by show encV 0x20 ((4#3).setWidth 7) a 0 (guardCode g) = _; simp only [cat, encV, BitVec.ofNat_eq_ofNat, BitVec.toNat_ofNat, BitVec.toNat_setWidth]; try omega) fun z pk _ => ?_
    have b11_7 : bvField 7 z 11 = a := bvField_of (pk _ _ _ rfl)
    have b18_3 : bvField 3 z 18 = 4#3 := bvField_of (pk _ _ _ rfl)
    have f0_4 : field z 0 4 = guardCode g := pk _ _ _ rfl
    have f4_7 : field z 4 7 = 0 := pk _ _ _ rfl
    have f18_2 : field z 18 2 = 0 := pk _ _ _ rfl
    have f21_4 : field z 21 4 = 0 := pk _ _ _ rfl
    have f25_6 : field z 25 6 = 32 := pk _ _ _ rfl
    simp [accept, acceptGuard, decodeCWord, b11_7, b18_3, f0_4, f4_7, f18_2, f21_4, f25_6]

theorem vld (d : BitVec 7) (p : BitVec 2) (m : VMod) : Statement (.vld d p m) := by
  refine ofCompute [(4, m.code), (2, 0), (1, 0), (1, 0), (1, 0), (1, 0), (1, 0), (2, p.toNat), (1, 0), (2, 0), (2, 0), (7, d.toNat), (6, 33)] rfl ⟨lt_of (m.code_lt), by decide, by decide, by decide, by decide, by decide, by decide, lt_of (p.isLt), by decide, by decide, by decide, lt_of (d.isLt), by decide, trivial⟩ rfl (by show encV 0x21 d (p.setWidth 7) 0 m.code = _; simp only [cat, encV, BitVec.ofNat_eq_ofNat, BitVec.toNat_ofNat, BitVec.toNat_setWidth]; try omega) fun z pk hwf => ?_
  replace hwf : (m.wf) = true := hwf
  have t6 : bitField z 6 = false := bitField_of (pk _ _ _ rfl)
  have t7 : bitField z 7 = false := bitField_of (pk _ _ _ rfl)
  have t8 : bitField z 8 = false := bitField_of (pk _ _ _ rfl)
  have t9 : bitField z 9 = false := bitField_of (pk _ _ _ rfl)
  have b11_2 : bvField 2 z 11 = p := bvField_of (pk _ _ _ rfl)
  have b14_2 : bvField 2 z 14 = 0#2 := bvField_of (pk _ _ _ rfl)
  have b18_7 : bvField 7 z 18 = d := bvField_of (pk _ _ _ rfl)
  have f0_4 : field z 0 4 = m.code := pk _ _ _ rfl
  have f4_7 : field z 4 7 = 0 := pk _ _ _ rfl
  have f13_5 : field z 13 5 = 0 := pk _ _ _ rfl
  have f25_6 : field z 25 6 = 33 := pk _ _ _ rfl
  simp [accept, decodeCWord, mmaOf, v2Of, t6, t7, t8, t9, b11_2, b14_2, b18_7, f0_4, f4_7, f13_5, f25_6, hwf, VMod.ofCode_code]

theorem vst (p : BitVec 2) (a : BitVec 7) (g : Guard) : Statement (.vst p a g) := by
  refine ofCompute [(4, guardCode g), (7, 0), (7, a.toNat), (2, p.toNat), (5, 0), (6, 34)] rfl ⟨lt_of (guardCode_lt g), by decide, lt_of (a.isLt), lt_of (p.isLt), by decide, by decide, trivial⟩ rfl (by show encV 0x22 (p.setWidth 7) a 0 (guardCode g) = _; simp only [cat, encV, BitVec.ofNat_eq_ofNat, BitVec.toNat_ofNat, BitVec.toNat_setWidth]; try omega) fun z pk _ => ?_
  have b11_7 : bvField 7 z 11 = a := bvField_of (pk _ _ _ rfl)
  have b18_2 : bvField 2 z 18 = p := bvField_of (pk _ _ _ rfl)
  have f0_4 : field z 0 4 = guardCode g := pk _ _ _ rfl
  have f4_7 : field z 4 7 = 0 := pk _ _ _ rfl
  have f20_5 : field z 20 5 = 0 := pk _ _ _ rfl
  have f25_6 : field z 25 6 = 34 := pk _ _ _ rfl
  simp [accept, acceptGuard, decodeCWord, b11_7, b18_2, f0_4, f4_7, f20_5, f25_6]

theorem pcfg (p : BitVec 2) (a : BitVec 7) (g : Guard) : Statement (.pcfg p a g) := by
  refine ofCompute [(4, guardCode g), (7, 0), (7, a.toNat), (2, p.toNat), (5, 0), (6, 35)] rfl ⟨lt_of (guardCode_lt g), by decide, lt_of (a.isLt), lt_of (p.isLt), by decide, by decide, trivial⟩ rfl (by show encV 0x23 (p.setWidth 7) a 0 (guardCode g) = _; simp only [cat, encV, BitVec.ofNat_eq_ofNat, BitVec.toNat_ofNat, BitVec.toNat_setWidth]; try omega) fun z pk _ => ?_
  have b11_7 : bvField 7 z 11 = a := bvField_of (pk _ _ _ rfl)
  have b18_2 : bvField 2 z 18 = p := bvField_of (pk _ _ _ rfl)
  have f0_4 : field z 0 4 = guardCode g := pk _ _ _ rfl
  have f4_7 : field z 4 7 = 0 := pk _ _ _ rfl
  have f20_5 : field z 20 5 = 0 := pk _ _ _ rfl
  have f25_6 : field z 25 6 = 35 := pk _ _ _ rfl
  simp [accept, acceptGuard, decodeCWord, b11_7, b18_2, f0_4, f4_7, f20_5, f25_6]

theorem shape (rows : BitVec 4) (cols : BitVec 6) (fmt : Fmt) : Statement (.shape rows cols fmt) := by
  refine ofCompute [(4, 0), (4, fmt.code), (6, cols.toNat), (4, rows.toNat), (7, 0), (6, 36)] rfl ⟨by decide, lt_of (fmt.code_lt), lt_of (cols.isLt), lt_of (rows.isLt), by decide, by decide, trivial⟩ rfl (by show 0x24 * 2 ^ 25 + rows.toNat * 2 ^ 14 + cols.toNat * 2 ^ 8 + fmt.code * 2 ^ 4 = _; simp only [cat]; try omega) fun z pk hwf => ?_
  replace hwf : (fmt.shapeOk) = true := hwf
  have b8_6 : bvField 6 z 8 = cols := bvField_of (pk _ _ _ rfl)
  have b14_4 : bvField 4 z 14 = rows := bvField_of (pk _ _ _ rfl)
  have f0_4 : field z 0 4 = 0 := pk _ _ _ rfl
  have f4_4 : field z 4 4 = fmt.code := pk _ _ _ rfl
  have f18_7 : field z 18 7 = 0 := pk _ _ _ rfl
  have f25_6 : field z 25 6 = 36 := pk _ _ _ rfl
  simp [accept, decodeCWord, b8_6, b14_4, f0_4, f4_4, f18_7, f25_6, hwf]

theorem cloop (off : BitVec 14) : Statement (.cloop off) := by
  refine ofCompute [(11, 0), (14, off.toNat), (6, 37)] rfl ⟨by decide, lt_of (off.isLt), by decide, trivial⟩ rfl (by show 0x25 * 2 ^ 25 + off.toNat * 2 ^ 11 = _; simp only [cat]; try omega) fun z pk _ => ?_
  have b11_14 : bvField 14 z 11 = off := bvField_of (pk _ _ _ rfl)
  have f0_11 : field z 0 11 = 0 := pk _ _ _ rfl
  have f25_6 : field z 25 6 = 37 := pk _ _ _ rfl
  simp [accept, decodeCWord, b11_14, f0_11, f25_6]

theorem rtag (d : BitVec 7) (k : BitVec 5) (g : Guard) : Statement (.rtag d k g) := by
  refine ofCompute [(4, guardCode g), (5, k.toNat), (2, 0), (7, 0), (7, d.toNat), (6, 38)] rfl ⟨lt_of (guardCode_lt g), lt_of (k.isLt), by decide, by decide, lt_of (d.isLt), by decide, trivial⟩ rfl (by show encV 0x26 d 0 k.toNat (guardCode g) = _; simp only [cat, encV, BitVec.ofNat_eq_ofNat, BitVec.toNat_ofNat]; try omega) fun z pk _ => ?_
  have b4_5 : bvField 5 z 4 = k := bvField_of (pk _ _ _ rfl)
  have b18_7 : bvField 7 z 18 = d := bvField_of (pk _ _ _ rfl)
  have f0_4 : field z 0 4 = guardCode g := pk _ _ _ rfl
  have f9_2 : field z 9 2 = 0 := pk _ _ _ rfl
  have f11_7 : field z 11 7 = 0 := pk _ _ _ rfl
  have f25_6 : field z 25 6 = 38 := pk _ _ _ rfl
  simp [accept, acceptGuard, decodeCTag, decodeCWord, b4_5, b18_7, f0_4, f9_2, f11_7, f25_6]

theorem rdrop (d : BitVec 7) (g : Guard) : Statement (.rdrop d g) := by
  refine ofCompute [(4, guardCode g), (5, 0), (2, 1), (7, 0), (7, d.toNat), (6, 38)] rfl ⟨lt_of (guardCode_lt g), by decide, by decide, by decide, lt_of (d.isLt), by decide, trivial⟩ rfl (by show encV 0x26 d 0 32 (guardCode g) = _; simp only [cat, encV, BitVec.ofNat_eq_ofNat, BitVec.toNat_ofNat]; try omega) fun z pk _ => ?_
  have b18_7 : bvField 7 z 18 = d := bvField_of (pk _ _ _ rfl)
  have f0_4 : field z 0 4 = guardCode g := pk _ _ _ rfl
  have f4_5 : field z 4 5 = 0 := pk _ _ _ rfl
  have f9_2 : field z 9 2 = 1 := pk _ _ _ rfl
  have f11_7 : field z 11 7 = 0 := pk _ _ _ rfl
  have f25_6 : field z 25 6 = 38 := pk _ _ _ rfl
  simp [accept, acceptGuard, decodeCTag, decodeCWord, b18_7, f0_4, f4_5, f9_2, f11_7, f25_6]

theorem rstat (d : BitVec 7) (a : BitVec 7) (g : Guard) : Statement (.rstat d a g) := by
  refine ofCompute [(4, guardCode g), (5, 0), (2, 2), (7, a.toNat), (7, d.toNat), (6, 38)] rfl ⟨lt_of (guardCode_lt g), by decide, by decide, lt_of (a.isLt), lt_of (d.isLt), by decide, trivial⟩ rfl (by show encV 0x26 d a 64 (guardCode g) = _; simp only [cat, encV]; try omega) fun z pk _ => ?_
  have b11_7 : bvField 7 z 11 = a := bvField_of (pk _ _ _ rfl)
  have b18_7 : bvField 7 z 18 = d := bvField_of (pk _ _ _ rfl)
  have f0_4 : field z 0 4 = guardCode g := pk _ _ _ rfl
  have f4_5 : field z 4 5 = 0 := pk _ _ _ rfl
  have f9_2 : field z 9 2 = 2 := pk _ _ _ rfl
  have f25_6 : field z 25 6 = 38 := pk _ _ _ rfl
  simp [accept, acceptGuard, decodeCTag, decodeCWord, b11_7, b18_7, f0_4, f4_5, f9_2, f25_6]

theorem ctok (val : Option (BitVec 7)) (t : Token) : Statement (.ctok val t) := by
  cases val with
  | none =>
    refine ofCompute [(6, t.toNat), (4, 0), (1, 0), (7, 0), (7, 0), (6, 39)] rfl ⟨lt_of (t.isLt), by decide, by decide, by decide, by decide, by decide, trivial⟩ rfl (by show 0x27 * 2 ^ 25 + t.toNat = _; simp only [cat]; try omega) fun z pk _ => ?_
    have t10 : bitField z 10 = false := bitField_of (pk _ _ _ rfl)
    have b0_6 : bvField 6 z 0 = t := bvField_of (pk _ _ _ rfl)
    have b11_7 : bvField 7 z 11 = 0#7 := bvField_of (pk _ _ _ rfl)
    have f6_4 : field z 6 4 = 0 := pk _ _ _ rfl
    have f11_14 : field z 11 14 = 0 := pk _ _ _ rfl
    have f18_7 : field z 18 7 = 0 := pk _ _ _ rfl
    have f25_6 : field z 25 6 = 39 := pk _ _ _ rfl
    simp [accept, decodeCWord, t10, b0_6, b11_7, f6_4, f11_14, f18_7, f25_6]
  | some a =>
    refine ofCompute [(6, t.toNat), (4, 0), (1, 1), (7, a.toNat), (7, 0), (6, 39)] rfl ⟨lt_of (t.isLt), by decide, by decide, lt_of (a.isLt), by decide, by decide, trivial⟩ rfl (by show 0x27 * 2 ^ 25 + a.toNat * 2 ^ 11 + 2 ^ 10 + t.toNat = _; simp only [cat]; try omega) fun z pk _ => ?_
    have t10 : bitField z 10 = true := bitField_of (pk _ _ _ rfl)
    have b0_6 : bvField 6 z 0 = t := bvField_of (pk _ _ _ rfl)
    have b11_7 : bvField 7 z 11 = a := bvField_of (pk _ _ _ rfl)
    have f6_4 : field z 6 4 = 0 := pk _ _ _ rfl
    have f18_7 : field z 18 7 = 0 := pk _ _ _ rfl
    have f25_6 : field z 25 6 = 39 := pk _ _ _ rfl
    simp [accept, decodeCWord, t10, b0_6, b11_7, f6_4, f18_7, f25_6]

theorem cNop : Statement (.cNop) := by
  refine ofCompute [(4, 0), (5, 0), (2, 0), (14, 0), (6, 40)] rfl ⟨by decide, by decide, by decide, by decide, by decide, trivial⟩ rfl (by show 0x28 * 2 ^ 25 = _; simp only [cat]; try omega) fun z pk _ => ?_
  have f0_4 : field z 0 4 = 0 := pk _ _ _ rfl
  have f4_5 : field z 4 5 = 0 := pk _ _ _ rfl
  have f9_2 : field z 9 2 = 0 := pk _ _ _ rfl
  have f11_14 : field z 11 14 = 0 := pk _ _ _ rfl
  have f25_6 : field z 25 6 = 40 := pk _ _ _ rfl
  simp [accept, decodeCCtl, decodeCWord, f0_4, f4_5, f9_2, f11_14, f25_6]

theorem cEnd : Statement (.cEnd) := by
  refine ofCompute [(4, 0), (5, 0), (2, 1), (14, 0), (6, 40)] rfl ⟨by decide, by decide, by decide, by decide, by decide, trivial⟩ rfl (by show 0x28 * 2 ^ 25 + 2 ^ 9 = _; simp only [cat]; try omega) fun z pk _ => ?_
  have f0_4 : field z 0 4 = 0 := pk _ _ _ rfl
  have f4_5 : field z 4 5 = 0 := pk _ _ _ rfl
  have f9_2 : field z 9 2 = 1 := pk _ _ _ rfl
  have f11_14 : field z 11 14 = 0 := pk _ _ _ rfl
  have f25_6 : field z 25 6 = 40 := pk _ _ _ rfl
  simp [accept, decodeCCtl, decodeCWord, f0_4, f4_5, f9_2, f11_14, f25_6]

theorem cSema (k : BitVec 6) (n : BitVec 7) (g : Guard) : Statement (.cSema k n g) := by
  refine ofCompute [(4, guardCode g), (5, 0), (2, 2), (7, n.toNat), (6, k.toNat), (1, 0), (6, 40)] rfl ⟨lt_of (guardCode_lt g), by decide, by decide, lt_of (n.isLt), lt_of (k.isLt), by decide, by decide, trivial⟩ rfl (by show 0x28 * 2 ^ 25 + k.toNat * 2 ^ 18 + n.toNat * 2 ^ 11 + 2 * 2 ^ 9 + guardCode g = _; simp only [cat]; try omega) fun z pk hwf => ?_
  replace hwf : (n != 0) = true := hwf
  have hz := toNat_ne hwf
  have hn := ne_zero hwf
  have b11_7 : bvField 7 z 11 = n := bvField_of (pk _ _ _ rfl)
  have b18_6 : bvField 6 z 18 = k := bvField_of (pk _ _ _ rfl)
  have f0_4 : field z 0 4 = guardCode g := pk _ _ _ rfl
  have f4_5 : field z 4 5 = 0 := pk _ _ _ rfl
  have f9_2 : field z 9 2 = 2 := pk _ _ _ rfl
  have f24_1 : field z 24 1 = 0 := pk _ _ _ rfl
  have f25_6 : field z 25 6 = 40 := pk _ _ _ rfl
  simp [accept, acceptGuard, decodeCCtl, decodeCWord, hz, hn, b11_7, b18_6, f0_4, f4_5, f9_2, f24_1, f25_6, hwf]

theorem cSemv (k : BitVec 6) (n : BitVec 7) (g : Guard) : Statement (.cSemv k n g) := by
  refine ofCompute [(4, guardCode g), (5, 0), (2, 3), (7, n.toNat), (6, k.toNat), (1, 0), (6, 40)] rfl ⟨lt_of (guardCode_lt g), by decide, by decide, lt_of (n.isLt), lt_of (k.isLt), by decide, by decide, trivial⟩ rfl (by show 0x28 * 2 ^ 25 + k.toNat * 2 ^ 18 + n.toNat * 2 ^ 11 + 3 * 2 ^ 9 + guardCode g = _; simp only [cat]; try omega) fun z pk hwf => ?_
  replace hwf : (n != 0) = true := hwf
  have hz := toNat_ne hwf
  have hn := ne_zero hwf
  have b11_7 : bvField 7 z 11 = n := bvField_of (pk _ _ _ rfl)
  have b18_6 : bvField 6 z 18 = k := bvField_of (pk _ _ _ rfl)
  have f0_4 : field z 0 4 = guardCode g := pk _ _ _ rfl
  have f4_5 : field z 4 5 = 0 := pk _ _ _ rfl
  have f9_2 : field z 9 2 = 3 := pk _ _ _ rfl
  have f24_1 : field z 24 1 = 0 := pk _ _ _ rfl
  have f25_6 : field z 25 6 = 40 := pk _ _ _ rfl
  simp [accept, acceptGuard, decodeCCtl, decodeCWord, hz, hn, b11_7, b18_6, f0_4, f4_5, f9_2, f24_1, f25_6, hwf]

theorem fcsR (d : BitVec 7) (g : Guard) : Statement (.fcsR d g) := by
  refine ofCompute [(4, guardCode g), (6, 0), (1, 0), (7, 0), (7, d.toNat), (6, 63)] rfl ⟨lt_of (guardCode_lt g), by decide, by decide, by decide, lt_of (d.isLt), by decide, trivial⟩ rfl (by show encV 0x3F d 0 0 (guardCode g) = _; simp only [cat, encV, BitVec.ofNat_eq_ofNat, BitVec.toNat_ofNat]; try omega) fun z pk _ => ?_
  have t10 : bitField z 10 = false := bitField_of (pk _ _ _ rfl)
  have b11_7 : bvField 7 z 11 = 0#7 := bvField_of (pk _ _ _ rfl)
  have b18_7 : bvField 7 z 18 = d := bvField_of (pk _ _ _ rfl)
  have f0_4 : field z 0 4 = guardCode g := pk _ _ _ rfl
  have f4_6 : field z 4 6 = 0 := pk _ _ _ rfl
  have f11_7 : field z 11 7 = 0 := pk _ _ _ rfl
  have f18_7 : field z 18 7 = d.toNat := pk _ _ _ rfl
  have f25_6 : field z 25 6 = 63 := pk _ _ _ rfl
  simp [accept, acceptGuard, decodeCWord, t10, b11_7, b18_7, f0_4, f4_6, f11_7, f18_7, f25_6]

theorem fcsW (a : BitVec 7) (g : Guard) : Statement (.fcsW a g) := by
  refine ofCompute [(4, guardCode g), (6, 0), (1, 1), (7, a.toNat), (7, 0), (6, 63)] rfl ⟨lt_of (guardCode_lt g), by decide, by decide, lt_of (a.isLt), by decide, by decide, trivial⟩ rfl (by show encV 0x3F 0 a 64 (guardCode g) = _; simp only [cat, encV, BitVec.ofNat_eq_ofNat, BitVec.toNat_ofNat]; try omega) fun z pk _ => ?_
  have t10 : bitField z 10 = true := bitField_of (pk _ _ _ rfl)
  have b11_7 : bvField 7 z 11 = a := bvField_of (pk _ _ _ rfl)
  have b18_7 : bvField 7 z 18 = 0#7 := bvField_of (pk _ _ _ rfl)
  have f0_4 : field z 0 4 = guardCode g := pk _ _ _ rfl
  have f4_6 : field z 4 6 = 0 := pk _ _ _ rfl
  have f11_7 : field z 11 7 = a.toNat := pk _ _ _ rfl
  have f18_7 : field z 18 7 = 0 := pk _ _ _ rfl
  have f25_6 : field z 25 6 = 63 := pk _ _ _ rfl
  simp [accept, acceptGuard, decodeCWord, t10, b11_7, b18_7, f0_4, f4_6, f11_7, f18_7, f25_6]

theorem tld (tile : BitVec 3) (d : BitVec 7) (q : BitVec 2) (st : BitVec 2) (t : Token) : Statement (.tld tile d q st t) := by
  refine ofCompute [(6, t.toNat), (4, 0), (1, 0), (2, st.toNat), (2, q.toNat), (7, d.toNat), (3, tile.toNat), (6, 41)] rfl ⟨lt_of (t.isLt), by decide, by decide, lt_of (st.isLt), lt_of (q.isLt), lt_of (d.isLt), lt_of (tile.isLt), by decide, trivial⟩ rfl (by show encTile 0x29 tile (d.toNat * 2 ^ 15 + q.toNat * 2 ^ 13 + st.toNat * 2 ^ 11) t = _; simp only [cat, encTile]; try omega) fun z pk _ => ?_
  have t10 : bitField z 10 = false := bitField_of (pk _ _ _ rfl)
  have b0_6 : bvField 6 z 0 = t := bvField_of (pk _ _ _ rfl)
  have b11_2 : bvField 2 z 11 = st := bvField_of (pk _ _ _ rfl)
  have b13_2 : bvField 2 z 13 = q := bvField_of (pk _ _ _ rfl)
  have b15_7 : bvField 7 z 15 = d := bvField_of (pk _ _ _ rfl)
  have b22_3 : bvField 3 z 22 = tile := bvField_of (pk _ _ _ rfl)
  have f6_4 : field z 6 4 = 0 := pk _ _ _ rfl
  have f25_6 : field z 25 6 = 41 := pk _ _ _ rfl
  simp [accept, decodeCTile, decodeCWord, t10, b0_6, b11_2, b13_2, b15_7, b22_3, f6_4, f25_6]

theorem tst (tile : BitVec 3) (a : BitVec 7) (q : BitVec 2) (st : BitVec 2) (t : Token) : Statement (.tst tile a q st t) := by
  refine ofCompute [(6, t.toNat), (4, 0), (1, 1), (2, st.toNat), (2, q.toNat), (7, a.toNat), (3, tile.toNat), (6, 41)] rfl ⟨lt_of (t.isLt), by decide, by decide, lt_of (st.isLt), lt_of (q.isLt), lt_of (a.isLt), lt_of (tile.isLt), by decide, trivial⟩ rfl (by show encTile 0x29 tile (a.toNat * 2 ^ 15 + q.toNat * 2 ^ 13 + st.toNat * 2 ^ 11 + 2 ^ 10) t = _; simp only [cat, encTile]; try omega) fun z pk _ => ?_
  have t10 : bitField z 10 = true := bitField_of (pk _ _ _ rfl)
  have b0_6 : bvField 6 z 0 = t := bvField_of (pk _ _ _ rfl)
  have b11_2 : bvField 2 z 11 = st := bvField_of (pk _ _ _ rfl)
  have b13_2 : bvField 2 z 13 = q := bvField_of (pk _ _ _ rfl)
  have b15_7 : bvField 7 z 15 = a := bvField_of (pk _ _ _ rfl)
  have b22_3 : bvField 3 z 22 = tile := bvField_of (pk _ _ _ rfl)
  have f6_4 : field z 6 4 = 0 := pk _ _ _ rfl
  have f25_6 : field z 25 6 = 41 := pk _ _ _ rfl
  simp [accept, decodeCTile, decodeCWord, t10, b0_6, b11_2, b13_2, b15_7, b22_3, f6_4, f25_6]

theorem tzero (tile : BitVec 3) (st : BitVec 2) (t : Token) : Statement (.tzero tile st t) := by
  refine ofCompute [(6, t.toNat), (4, 0), (1, 0), (1, 0), (1, 0), (1, 0), (1, 0), (2, 0), (2, 0), (1, 0), (2, st.toNat), (3, tile.toNat), (6, 42)] rfl ⟨lt_of (t.isLt), by decide, by decide, by decide, by decide, by decide, by decide, by decide, by decide, by decide, lt_of (st.isLt), lt_of (tile.isLt), by decide, trivial⟩ rfl (by show encTile 0x2A tile (st.toNat * 2 ^ 20) t = _; simp only [cat, encTile]; try omega) fun z pk _ => ?_
  have t10 : bitField z 10 = false := bitField_of (pk _ _ _ rfl)
  have t13 : bitField z 13 = false := bitField_of (pk _ _ _ rfl)
  have t19 : bitField z 19 = false := bitField_of (pk _ _ _ rfl)
  have b0_6 : bvField 6 z 0 = t := bvField_of (pk _ _ _ rfl)
  have b6_7 : bvField 7 z 6 = 0#7 := bvField_of (pk _ _ _ rfl)
  have b6_11 : bvField 11 z 6 = 0#11 := bvField_of (pk _ _ _ rfl)
  have b11_2 : bvField 2 z 11 = 0#2 := bvField_of (pk _ _ _ rfl)
  have b12_7 : bvField 7 z 12 = 0#7 := bvField_of (pk _ _ _ rfl)
  have b13_2 : bvField 2 z 13 = 0#2 := bvField_of (pk _ _ _ rfl)
  have b14_6 : bvField 6 z 14 = 0#6 := bvField_of (pk _ _ _ rfl)
  have b20_2 : bvField 2 z 20 = st := bvField_of (pk _ _ _ rfl)
  have b22_3 : bvField 3 z 22 = tile := bvField_of (pk _ _ _ rfl)
  have f6_4 : field z 6 4 = 0 := pk _ _ _ rfl
  have f6_6 : field z 6 6 = 0 := pk _ _ _ rfl
  have f6_13 : field z 6 13 = 0 := pk _ _ _ rfl
  have f14_6 : field z 14 6 = 0 := pk _ _ _ rfl
  have f17_2 : field z 17 2 = 0 := pk _ _ _ rfl
  have f25_6 : field z 25 6 = 42 := pk _ _ _ rfl
  simp [accept, decodeCTile, decodeCWord, t10, t13, t19, b0_6, b6_7, b6_11, b11_2, b12_7, b13_2, b14_6, b20_2, b22_3, f6_4, f6_6, f6_13, f14_6, f17_2, f25_6]

theorem tscale (tile : BitVec 3) (st : BitVec 2) (a : BitVec 7) (t : Token) : Statement (.tscale tile st a t) := by
  refine ofCompute [(6, t.toNat), (4, 0), (1, 0), (1, 0), (7, a.toNat), (1, 1), (2, st.toNat), (3, tile.toNat), (6, 42)] rfl ⟨lt_of (t.isLt), by decide, by decide, by decide, lt_of (a.isLt), by decide, lt_of (st.isLt), lt_of (tile.isLt), by decide, trivial⟩ rfl (by show encTile 0x2A tile (st.toNat * 2 ^ 20 + 2 ^ 19 + a.toNat * 2 ^ 12) t = _; simp only [cat, encTile]; try omega) fun z pk _ => ?_
  have t10 : bitField z 10 = false := bitField_of (pk _ _ _ rfl)
  have t19 : bitField z 19 = true := bitField_of (pk _ _ _ rfl)
  have b0_6 : bvField 6 z 0 = t := bvField_of (pk _ _ _ rfl)
  have b12_7 : bvField 7 z 12 = a := bvField_of (pk _ _ _ rfl)
  have b20_2 : bvField 2 z 20 = st := bvField_of (pk _ _ _ rfl)
  have b22_3 : bvField 3 z 22 = tile := bvField_of (pk _ _ _ rfl)
  have f6_4 : field z 6 4 = 0 := pk _ _ _ rfl
  have f6_6 : field z 6 6 = 0 := pk _ _ _ rfl
  have f25_6 : field z 25 6 = 42 := pk _ _ _ rfl
  simp [accept, decodeCTile, decodeCWord, t10, t19, b0_6, b12_7, b20_2, b22_3, f6_4, f6_6, f25_6]

theorem tsave (tile : BitVec 3) (st : BitVec 2) (fmt : TileFmt) (off : BitVec 11) (t : Token) : Statement (.tsave tile st fmt off t) := by
  refine ofCompute [(6, t.toNat), (11, off.toNat), (2, fmt.code), (1, 1), (2, st.toNat), (3, tile.toNat), (6, 43)] rfl ⟨lt_of (t.isLt), lt_of (off.isLt), lt_of (fmt.code_lt), by decide, lt_of (st.isLt), lt_of (tile.isLt), by decide, trivial⟩ rfl (by show encTile 0x2B tile (st.toNat * 2 ^ 20 + 2 ^ 19 + fmt.code * 2 ^ 17 + off.toNat * 2 ^ 6) t = _; simp only [cat, encTile]; try omega) fun z pk _ => ?_
  have t19 : bitField z 19 = true := bitField_of (pk _ _ _ rfl)
  have b0_6 : bvField 6 z 0 = t := bvField_of (pk _ _ _ rfl)
  have b6_11 : bvField 11 z 6 = off := bvField_of (pk _ _ _ rfl)
  have b20_2 : bvField 2 z 20 = st := bvField_of (pk _ _ _ rfl)
  have b22_3 : bvField 3 z 22 = tile := bvField_of (pk _ _ _ rfl)
  have f17_2 : field z 17 2 = fmt.code := pk _ _ _ rfl
  have f25_6 : field z 25 6 = 43 := pk _ _ _ rfl
  simp [decodeCTile, decodeCWord, t19, b0_6, b6_11, b20_2, b22_3, f17_2, f25_6]

theorem tload (tile : BitVec 3) (st : BitVec 2) (fmt : TileFmt) (off : BitVec 11) (t : Token) : Statement (.tload tile st fmt off t) := by
  refine ofCompute [(6, t.toNat), (11, off.toNat), (2, fmt.code), (1, 0), (2, st.toNat), (3, tile.toNat), (6, 43)] rfl ⟨lt_of (t.isLt), lt_of (off.isLt), lt_of (fmt.code_lt), by decide, lt_of (st.isLt), lt_of (tile.isLt), by decide, trivial⟩ rfl (by show encTile 0x2B tile (st.toNat * 2 ^ 20 + fmt.code * 2 ^ 17 + off.toNat * 2 ^ 6) t = _; simp only [cat, encTile]; try omega) fun z pk _ => ?_
  have t19 : bitField z 19 = false := bitField_of (pk _ _ _ rfl)
  have b0_6 : bvField 6 z 0 = t := bvField_of (pk _ _ _ rfl)
  have b6_11 : bvField 11 z 6 = off := bvField_of (pk _ _ _ rfl)
  have b20_2 : bvField 2 z 20 = st := bvField_of (pk _ _ _ rfl)
  have b22_3 : bvField 3 z 22 = tile := bvField_of (pk _ _ _ rfl)
  have f17_2 : field z 17 2 = fmt.code := pk _ _ _ rfl
  have f25_6 : field z 25 6 = 43 := pk _ _ _ rfl
  simp [decodeCTile, decodeCWord, t19, b0_6, b6_11, b20_2, b22_3, f17_2, f25_6]

theorem draw (tile : BitVec 3) (st : BitVec 2) (mask : Option (BitVec 6)) (d : BitVec 7) (t : Token) : Statement (.draw tile st mask d t) := by
  cases mask with
  | none =>
    refine ofCompute [(6, t.toNat), (7, d.toNat), (1, 0), (1, 0), (2, 0), (2, 0), (1, 0), (2, st.toNat), (3, tile.toNat), (6, 44)] rfl ⟨lt_of (t.isLt), lt_of (d.isLt), by decide, by decide, by decide, by decide, by decide, lt_of (st.isLt), lt_of (tile.isLt), by decide, trivial⟩ rfl (by show encTile 0x2C tile (st.toNat * 2 ^ 20 + d.toNat * 2 ^ 6) t = _; simp only [cat, encTile]; try omega) fun z pk _ => ?_
    have t13 : bitField z 13 = false := bitField_of (pk _ _ _ rfl)
    have t19 : bitField z 19 = false := bitField_of (pk _ _ _ rfl)
    have b0_6 : bvField 6 z 0 = t := bvField_of (pk _ _ _ rfl)
    have b6_7 : bvField 7 z 6 = d := bvField_of (pk _ _ _ rfl)
    have b13_2 : bvField 2 z 13 = 0#2 := bvField_of (pk _ _ _ rfl)
    have b14_6 : bvField 6 z 14 = 0#6 := bvField_of (pk _ _ _ rfl)
    have b20_2 : bvField 2 z 20 = st := bvField_of (pk _ _ _ rfl)
    have b22_3 : bvField 3 z 22 = tile := bvField_of (pk _ _ _ rfl)
    have f14_6 : field z 14 6 = 0 := pk _ _ _ rfl
    have f17_2 : field z 17 2 = 0 := pk _ _ _ rfl
    have f25_6 : field z 25 6 = 44 := pk _ _ _ rfl
    simp [accept, decodeCTile, decodeCWord, t13, t19, b0_6, b6_7, b13_2, b14_6, b20_2, b22_3, f14_6, f17_2, f25_6]
  | some h =>
    refine ofCompute [(6, t.toNat), (7, d.toNat), (1, 1), (6, h.toNat), (2, st.toNat), (3, tile.toNat), (6, 44)] rfl ⟨lt_of (t.isLt), lt_of (d.isLt), by decide, lt_of (h.isLt), lt_of (st.isLt), lt_of (tile.isLt), by decide, trivial⟩ rfl (by show encTile 0x2C tile (st.toNat * 2 ^ 20 + h.toNat * 2 ^ 14 + 2 ^ 13 + d.toNat * 2 ^ 6) t = _; simp only [cat, encTile]; try omega) fun z pk _ => ?_
    have t13 : bitField z 13 = true := bitField_of (pk _ _ _ rfl)
    have b0_6 : bvField 6 z 0 = t := bvField_of (pk _ _ _ rfl)
    have b6_7 : bvField 7 z 6 = d := bvField_of (pk _ _ _ rfl)
    have b14_6 : bvField 6 z 14 = h := bvField_of (pk _ _ _ rfl)
    have b20_2 : bvField 2 z 20 = st := bvField_of (pk _ _ _ rfl)
    have b22_3 : bvField 3 z 22 = tile := bvField_of (pk _ _ _ rfl)
    have f14_6 : field z 14 6 = h.toNat := pk _ _ _ rfl
    have f25_6 : field z 25 6 = 44 := pk _ _ _ rfl
    simp [accept, decodeCTile, decodeCWord, t13, b0_6, b6_7, b14_6, b20_2, b22_3, f14_6, f25_6]

theorem mmaFp4 (o : Mma) : Statement (.mmaFp4 o) := by
  refine ofCompute [(6, o.t.toNat), (1, bitCode o.ns), (1, bitCode o.tb), (1, bitCode o.ta), (1, bitCode o.zs), (4, o.kc.toNat), (2, o.st.toNat), (3, o.rb.toNat), (3, o.ra.toNat), (3, o.tile.toNat), (6, 45)] rfl ⟨lt_of (o.t.isLt), lt_of (bitCode_lt o.ns), lt_of (bitCode_lt o.tb), lt_of (bitCode_lt o.ta), lt_of (bitCode_lt o.zs), lt_of (o.kc.isLt), lt_of (o.st.isLt), lt_of (o.rb.isLt), lt_of (o.ra.isLt), lt_of (o.tile.isLt), by decide, trivial⟩ rfl (by show encMma 0x2d o = _; simp only [cat, encMma]; try omega) fun z pk _ => ?_
  have t6 : bitField z 6 = o.ns := bitField_of (pk _ _ _ rfl)
  have t7 : bitField z 7 = o.tb := bitField_of (pk _ _ _ rfl)
  have t8 : bitField z 8 = o.ta := bitField_of (pk _ _ _ rfl)
  have t9 : bitField z 9 = o.zs := bitField_of (pk _ _ _ rfl)
  have b0_6 : bvField 6 z 0 = o.t := bvField_of (pk _ _ _ rfl)
  have b10_4 : bvField 4 z 10 = o.kc := bvField_of (pk _ _ _ rfl)
  have b14_2 : bvField 2 z 14 = o.st := bvField_of (pk _ _ _ rfl)
  have b16_3 : bvField 3 z 16 = o.rb := bvField_of (pk _ _ _ rfl)
  have b19_3 : bvField 3 z 19 = o.ra := bvField_of (pk _ _ _ rfl)
  have b22_3 : bvField 3 z 22 = o.tile := bvField_of (pk _ _ _ rfl)
  have f25_6 : field z 25 6 = 45 := pk _ _ _ rfl
  simp [decodeCWord, mmaOf, t6, t7, t8, t9, b0_6, b10_4, b14_2, b16_3, b19_3, b22_3, f25_6]

theorem mmaI4 (o : Mma) : Statement (.mmaI4 o) := by
  refine ofCompute [(6, o.t.toNat), (1, bitCode o.ns), (1, bitCode o.tb), (1, bitCode o.ta), (1, bitCode o.zs), (4, o.kc.toNat), (2, o.st.toNat), (3, o.rb.toNat), (3, o.ra.toNat), (3, o.tile.toNat), (6, 46)] rfl ⟨lt_of (o.t.isLt), lt_of (bitCode_lt o.ns), lt_of (bitCode_lt o.tb), lt_of (bitCode_lt o.ta), lt_of (bitCode_lt o.zs), lt_of (o.kc.isLt), lt_of (o.st.isLt), lt_of (o.rb.isLt), lt_of (o.ra.isLt), lt_of (o.tile.isLt), by decide, trivial⟩ rfl (by show encMma 0x2e o = _; simp only [cat, encMma]; try omega) fun z pk _ => ?_
  have t6 : bitField z 6 = o.ns := bitField_of (pk _ _ _ rfl)
  have t7 : bitField z 7 = o.tb := bitField_of (pk _ _ _ rfl)
  have t8 : bitField z 8 = o.ta := bitField_of (pk _ _ _ rfl)
  have t9 : bitField z 9 = o.zs := bitField_of (pk _ _ _ rfl)
  have b0_6 : bvField 6 z 0 = o.t := bvField_of (pk _ _ _ rfl)
  have b10_4 : bvField 4 z 10 = o.kc := bvField_of (pk _ _ _ rfl)
  have b14_2 : bvField 2 z 14 = o.st := bvField_of (pk _ _ _ rfl)
  have b16_3 : bvField 3 z 16 = o.rb := bvField_of (pk _ _ _ rfl)
  have b19_3 : bvField 3 z 19 = o.ra := bvField_of (pk _ _ _ rfl)
  have b22_3 : bvField 3 z 22 = o.tile := bvField_of (pk _ _ _ rfl)
  have f25_6 : field z 25 6 = 46 := pk _ _ _ rfl
  simp [decodeCWord, mmaOf, t6, t7, t8, t9, b0_6, b10_4, b14_2, b16_3, b19_3, b22_3, f25_6]

theorem mmaN4 (o : Mma) : Statement (.mmaN4 o) := by
  refine ofCompute [(6, o.t.toNat), (1, bitCode o.ns), (1, bitCode o.tb), (1, bitCode o.ta), (1, bitCode o.zs), (4, o.kc.toNat), (2, o.st.toNat), (3, o.rb.toNat), (3, o.ra.toNat), (3, o.tile.toNat), (6, 47)] rfl ⟨lt_of (o.t.isLt), lt_of (bitCode_lt o.ns), lt_of (bitCode_lt o.tb), lt_of (bitCode_lt o.ta), lt_of (bitCode_lt o.zs), lt_of (o.kc.isLt), lt_of (o.st.isLt), lt_of (o.rb.isLt), lt_of (o.ra.isLt), lt_of (o.tile.isLt), by decide, trivial⟩ rfl (by show encMma 0x2f o = _; simp only [cat, encMma]; try omega) fun z pk _ => ?_
  have t6 : bitField z 6 = o.ns := bitField_of (pk _ _ _ rfl)
  have t7 : bitField z 7 = o.tb := bitField_of (pk _ _ _ rfl)
  have t8 : bitField z 8 = o.ta := bitField_of (pk _ _ _ rfl)
  have t9 : bitField z 9 = o.zs := bitField_of (pk _ _ _ rfl)
  have b0_6 : bvField 6 z 0 = o.t := bvField_of (pk _ _ _ rfl)
  have b10_4 : bvField 4 z 10 = o.kc := bvField_of (pk _ _ _ rfl)
  have b14_2 : bvField 2 z 14 = o.st := bvField_of (pk _ _ _ rfl)
  have b16_3 : bvField 3 z 16 = o.rb := bvField_of (pk _ _ _ rfl)
  have b19_3 : bvField 3 z 19 = o.ra := bvField_of (pk _ _ _ rfl)
  have b22_3 : bvField 3 z 22 = o.tile := bvField_of (pk _ _ _ rfl)
  have f25_6 : field z 25 6 = 47 := pk _ _ _ rfl
  simp [decodeCWord, mmaOf, t6, t7, t8, t9, b0_6, b10_4, b14_2, b16_3, b19_3, b22_3, f25_6]

theorem mmaE4m3 (o : Mma) : Statement (.mmaE4m3 o) := by
  refine ofCompute [(6, o.t.toNat), (1, bitCode o.ns), (1, bitCode o.tb), (1, bitCode o.ta), (1, bitCode o.zs), (4, o.kc.toNat), (2, o.st.toNat), (3, o.rb.toNat), (3, o.ra.toNat), (3, o.tile.toNat), (6, 48)] rfl ⟨lt_of (o.t.isLt), lt_of (bitCode_lt o.ns), lt_of (bitCode_lt o.tb), lt_of (bitCode_lt o.ta), lt_of (bitCode_lt o.zs), lt_of (o.kc.isLt), lt_of (o.st.isLt), lt_of (o.rb.isLt), lt_of (o.ra.isLt), lt_of (o.tile.isLt), by decide, trivial⟩ rfl (by show encMma 0x30 o = _; simp only [cat, encMma]; try omega) fun z pk _ => ?_
  have t6 : bitField z 6 = o.ns := bitField_of (pk _ _ _ rfl)
  have t7 : bitField z 7 = o.tb := bitField_of (pk _ _ _ rfl)
  have t8 : bitField z 8 = o.ta := bitField_of (pk _ _ _ rfl)
  have t9 : bitField z 9 = o.zs := bitField_of (pk _ _ _ rfl)
  have b0_6 : bvField 6 z 0 = o.t := bvField_of (pk _ _ _ rfl)
  have b10_4 : bvField 4 z 10 = o.kc := bvField_of (pk _ _ _ rfl)
  have b14_2 : bvField 2 z 14 = o.st := bvField_of (pk _ _ _ rfl)
  have b16_3 : bvField 3 z 16 = o.rb := bvField_of (pk _ _ _ rfl)
  have b19_3 : bvField 3 z 19 = o.ra := bvField_of (pk _ _ _ rfl)
  have b22_3 : bvField 3 z 22 = o.tile := bvField_of (pk _ _ _ rfl)
  have f25_6 : field z 25 6 = 48 := pk _ _ _ rfl
  simp [decodeCWord, mmaOf, t6, t7, t8, t9, b0_6, b10_4, b14_2, b16_3, b19_3, b22_3, f25_6]

theorem mmaE5m2 (o : Mma) : Statement (.mmaE5m2 o) := by
  refine ofCompute [(6, o.t.toNat), (1, bitCode o.ns), (1, bitCode o.tb), (1, bitCode o.ta), (1, bitCode o.zs), (4, o.kc.toNat), (2, o.st.toNat), (3, o.rb.toNat), (3, o.ra.toNat), (3, o.tile.toNat), (6, 49)] rfl ⟨lt_of (o.t.isLt), lt_of (bitCode_lt o.ns), lt_of (bitCode_lt o.tb), lt_of (bitCode_lt o.ta), lt_of (bitCode_lt o.zs), lt_of (o.kc.isLt), lt_of (o.st.isLt), lt_of (o.rb.isLt), lt_of (o.ra.isLt), lt_of (o.tile.isLt), by decide, trivial⟩ rfl (by show encMma 0x31 o = _; simp only [cat, encMma]; try omega) fun z pk _ => ?_
  have t6 : bitField z 6 = o.ns := bitField_of (pk _ _ _ rfl)
  have t7 : bitField z 7 = o.tb := bitField_of (pk _ _ _ rfl)
  have t8 : bitField z 8 = o.ta := bitField_of (pk _ _ _ rfl)
  have t9 : bitField z 9 = o.zs := bitField_of (pk _ _ _ rfl)
  have b0_6 : bvField 6 z 0 = o.t := bvField_of (pk _ _ _ rfl)
  have b10_4 : bvField 4 z 10 = o.kc := bvField_of (pk _ _ _ rfl)
  have b14_2 : bvField 2 z 14 = o.st := bvField_of (pk _ _ _ rfl)
  have b16_3 : bvField 3 z 16 = o.rb := bvField_of (pk _ _ _ rfl)
  have b19_3 : bvField 3 z 19 = o.ra := bvField_of (pk _ _ _ rfl)
  have b22_3 : bvField 3 z 22 = o.tile := bvField_of (pk _ _ _ rfl)
  have f25_6 : field z 25 6 = 49 := pk _ _ _ rfl
  simp [decodeCWord, mmaOf, t6, t7, t8, t9, b0_6, b10_4, b14_2, b16_3, b19_3, b22_3, f25_6]

theorem mmaI8 (o : Mma) : Statement (.mmaI8 o) := by
  refine ofCompute [(6, o.t.toNat), (1, bitCode o.ns), (1, bitCode o.tb), (1, bitCode o.ta), (1, bitCode o.zs), (4, o.kc.toNat), (2, o.st.toNat), (3, o.rb.toNat), (3, o.ra.toNat), (3, o.tile.toNat), (6, 50)] rfl ⟨lt_of (o.t.isLt), lt_of (bitCode_lt o.ns), lt_of (bitCode_lt o.tb), lt_of (bitCode_lt o.ta), lt_of (bitCode_lt o.zs), lt_of (o.kc.isLt), lt_of (o.st.isLt), lt_of (o.rb.isLt), lt_of (o.ra.isLt), lt_of (o.tile.isLt), by decide, trivial⟩ rfl (by show encMma 0x32 o = _; simp only [cat, encMma]; try omega) fun z pk _ => ?_
  have t6 : bitField z 6 = o.ns := bitField_of (pk _ _ _ rfl)
  have t7 : bitField z 7 = o.tb := bitField_of (pk _ _ _ rfl)
  have t8 : bitField z 8 = o.ta := bitField_of (pk _ _ _ rfl)
  have t9 : bitField z 9 = o.zs := bitField_of (pk _ _ _ rfl)
  have b0_6 : bvField 6 z 0 = o.t := bvField_of (pk _ _ _ rfl)
  have b10_4 : bvField 4 z 10 = o.kc := bvField_of (pk _ _ _ rfl)
  have b14_2 : bvField 2 z 14 = o.st := bvField_of (pk _ _ _ rfl)
  have b16_3 : bvField 3 z 16 = o.rb := bvField_of (pk _ _ _ rfl)
  have b19_3 : bvField 3 z 19 = o.ra := bvField_of (pk _ _ _ rfl)
  have b22_3 : bvField 3 z 22 = o.tile := bvField_of (pk _ _ _ rfl)
  have f25_6 : field z 25 6 = 50 := pk _ _ _ rfl
  simp [decodeCWord, mmaOf, t6, t7, t8, t9, b0_6, b10_4, b14_2, b16_3, b19_3, b22_3, f25_6]

theorem mmaN8 (o : Mma) : Statement (.mmaN8 o) := by
  refine ofCompute [(6, o.t.toNat), (1, bitCode o.ns), (1, bitCode o.tb), (1, bitCode o.ta), (1, bitCode o.zs), (4, o.kc.toNat), (2, o.st.toNat), (3, o.rb.toNat), (3, o.ra.toNat), (3, o.tile.toNat), (6, 51)] rfl ⟨lt_of (o.t.isLt), lt_of (bitCode_lt o.ns), lt_of (bitCode_lt o.tb), lt_of (bitCode_lt o.ta), lt_of (bitCode_lt o.zs), lt_of (o.kc.isLt), lt_of (o.st.isLt), lt_of (o.rb.isLt), lt_of (o.ra.isLt), lt_of (o.tile.isLt), by decide, trivial⟩ rfl (by show encMma 0x33 o = _; simp only [cat, encMma]; try omega) fun z pk _ => ?_
  have t6 : bitField z 6 = o.ns := bitField_of (pk _ _ _ rfl)
  have t7 : bitField z 7 = o.tb := bitField_of (pk _ _ _ rfl)
  have t8 : bitField z 8 = o.ta := bitField_of (pk _ _ _ rfl)
  have t9 : bitField z 9 = o.zs := bitField_of (pk _ _ _ rfl)
  have b0_6 : bvField 6 z 0 = o.t := bvField_of (pk _ _ _ rfl)
  have b10_4 : bvField 4 z 10 = o.kc := bvField_of (pk _ _ _ rfl)
  have b14_2 : bvField 2 z 14 = o.st := bvField_of (pk _ _ _ rfl)
  have b16_3 : bvField 3 z 16 = o.rb := bvField_of (pk _ _ _ rfl)
  have b19_3 : bvField 3 z 19 = o.ra := bvField_of (pk _ _ _ rfl)
  have b22_3 : bvField 3 z 22 = o.tile := bvField_of (pk _ _ _ rfl)
  have f25_6 : field z 25 6 = 51 := pk _ _ _ rfl
  simp [decodeCWord, mmaOf, t6, t7, t8, t9, b0_6, b10_4, b14_2, b16_3, b19_3, b22_3, f25_6]

theorem mmaBf16 (o : Mma) : Statement (.mmaBf16 o) := by
  refine ofCompute [(6, o.t.toNat), (1, bitCode o.ns), (1, bitCode o.tb), (1, bitCode o.ta), (1, bitCode o.zs), (4, o.kc.toNat), (2, o.st.toNat), (3, o.rb.toNat), (3, o.ra.toNat), (3, o.tile.toNat), (6, 52)] rfl ⟨lt_of (o.t.isLt), lt_of (bitCode_lt o.ns), lt_of (bitCode_lt o.tb), lt_of (bitCode_lt o.ta), lt_of (bitCode_lt o.zs), lt_of (o.kc.isLt), lt_of (o.st.isLt), lt_of (o.rb.isLt), lt_of (o.ra.isLt), lt_of (o.tile.isLt), by decide, trivial⟩ rfl (by show encMma 0x34 o = _; simp only [cat, encMma]; try omega) fun z pk hwf => ?_
  replace hwf : (!o.ns) = true := hwf
  have t6 : bitField z 6 = o.ns := bitField_of (pk _ _ _ rfl)
  have t7 : bitField z 7 = o.tb := bitField_of (pk _ _ _ rfl)
  have t8 : bitField z 8 = o.ta := bitField_of (pk _ _ _ rfl)
  have t9 : bitField z 9 = o.zs := bitField_of (pk _ _ _ rfl)
  have b0_6 : bvField 6 z 0 = o.t := bvField_of (pk _ _ _ rfl)
  have b10_4 : bvField 4 z 10 = o.kc := bvField_of (pk _ _ _ rfl)
  have b14_2 : bvField 2 z 14 = o.st := bvField_of (pk _ _ _ rfl)
  have b16_3 : bvField 3 z 16 = o.rb := bvField_of (pk _ _ _ rfl)
  have b19_3 : bvField 3 z 19 = o.ra := bvField_of (pk _ _ _ rfl)
  have b22_3 : bvField 3 z 22 = o.tile := bvField_of (pk _ _ _ rfl)
  have f25_6 : field z 25 6 = 52 := pk _ _ _ rfl
  simp [accept, decodeCWord, mmaOf, t6, t7, t8, t9, b0_6, b10_4, b14_2, b16_3, b19_3, b22_3, f25_6, hwf]

theorem mmaFp16 (o : Mma) : Statement (.mmaFp16 o) := by
  refine ofCompute [(6, o.t.toNat), (1, bitCode o.ns), (1, bitCode o.tb), (1, bitCode o.ta), (1, bitCode o.zs), (4, o.kc.toNat), (2, o.st.toNat), (3, o.rb.toNat), (3, o.ra.toNat), (3, o.tile.toNat), (6, 53)] rfl ⟨lt_of (o.t.isLt), lt_of (bitCode_lt o.ns), lt_of (bitCode_lt o.tb), lt_of (bitCode_lt o.ta), lt_of (bitCode_lt o.zs), lt_of (o.kc.isLt), lt_of (o.st.isLt), lt_of (o.rb.isLt), lt_of (o.ra.isLt), lt_of (o.tile.isLt), by decide, trivial⟩ rfl (by show encMma 0x35 o = _; simp only [cat, encMma]; try omega) fun z pk hwf => ?_
  replace hwf : (!o.ns) = true := hwf
  have t6 : bitField z 6 = o.ns := bitField_of (pk _ _ _ rfl)
  have t7 : bitField z 7 = o.tb := bitField_of (pk _ _ _ rfl)
  have t8 : bitField z 8 = o.ta := bitField_of (pk _ _ _ rfl)
  have t9 : bitField z 9 = o.zs := bitField_of (pk _ _ _ rfl)
  have b0_6 : bvField 6 z 0 = o.t := bvField_of (pk _ _ _ rfl)
  have b10_4 : bvField 4 z 10 = o.kc := bvField_of (pk _ _ _ rfl)
  have b14_2 : bvField 2 z 14 = o.st := bvField_of (pk _ _ _ rfl)
  have b16_3 : bvField 3 z 16 = o.rb := bvField_of (pk _ _ _ rfl)
  have b19_3 : bvField 3 z 19 = o.ra := bvField_of (pk _ _ _ rfl)
  have b22_3 : bvField 3 z 22 = o.tile := bvField_of (pk _ _ _ rfl)
  have f25_6 : field z 25 6 = 53 := pk _ _ _ rfl
  simp [accept, decodeCWord, mmaOf, t6, t7, t8, t9, b0_6, b10_4, b14_2, b16_3, b19_3, b22_3, f25_6, hwf]

theorem mmazFp4 (o : Mma) : Statement (.mmazFp4 o) := by
  refine ofCompute [(6, o.t.toNat), (1, bitCode o.ns), (1, bitCode o.tb), (1, bitCode o.ta), (1, bitCode o.zs), (4, o.kc.toNat), (2, o.st.toNat), (3, o.rb.toNat), (3, o.ra.toNat), (3, o.tile.toNat), (6, 54)] rfl ⟨lt_of (o.t.isLt), lt_of (bitCode_lt o.ns), lt_of (bitCode_lt o.tb), lt_of (bitCode_lt o.ta), lt_of (bitCode_lt o.zs), lt_of (o.kc.isLt), lt_of (o.st.isLt), lt_of (o.rb.isLt), lt_of (o.ra.isLt), lt_of (o.tile.isLt), by decide, trivial⟩ rfl (by show encMma 0x36 o = _; simp only [cat, encMma]; try omega) fun z pk _ => ?_
  have t6 : bitField z 6 = o.ns := bitField_of (pk _ _ _ rfl)
  have t7 : bitField z 7 = o.tb := bitField_of (pk _ _ _ rfl)
  have t8 : bitField z 8 = o.ta := bitField_of (pk _ _ _ rfl)
  have t9 : bitField z 9 = o.zs := bitField_of (pk _ _ _ rfl)
  have b0_6 : bvField 6 z 0 = o.t := bvField_of (pk _ _ _ rfl)
  have b10_4 : bvField 4 z 10 = o.kc := bvField_of (pk _ _ _ rfl)
  have b14_2 : bvField 2 z 14 = o.st := bvField_of (pk _ _ _ rfl)
  have b16_3 : bvField 3 z 16 = o.rb := bvField_of (pk _ _ _ rfl)
  have b19_3 : bvField 3 z 19 = o.ra := bvField_of (pk _ _ _ rfl)
  have b22_3 : bvField 3 z 22 = o.tile := bvField_of (pk _ _ _ rfl)
  have f25_6 : field z 25 6 = 54 := pk _ _ _ rfl
  simp [decodeCWord, mmaOf, t6, t7, t8, t9, b0_6, b10_4, b14_2, b16_3, b19_3, b22_3, f25_6]

theorem mmazI4 (o : Mma) : Statement (.mmazI4 o) := by
  refine ofCompute [(6, o.t.toNat), (1, bitCode o.ns), (1, bitCode o.tb), (1, bitCode o.ta), (1, bitCode o.zs), (4, o.kc.toNat), (2, o.st.toNat), (3, o.rb.toNat), (3, o.ra.toNat), (3, o.tile.toNat), (6, 55)] rfl ⟨lt_of (o.t.isLt), lt_of (bitCode_lt o.ns), lt_of (bitCode_lt o.tb), lt_of (bitCode_lt o.ta), lt_of (bitCode_lt o.zs), lt_of (o.kc.isLt), lt_of (o.st.isLt), lt_of (o.rb.isLt), lt_of (o.ra.isLt), lt_of (o.tile.isLt), by decide, trivial⟩ rfl (by show encMma 0x37 o = _; simp only [cat, encMma]; try omega) fun z pk _ => ?_
  have t6 : bitField z 6 = o.ns := bitField_of (pk _ _ _ rfl)
  have t7 : bitField z 7 = o.tb := bitField_of (pk _ _ _ rfl)
  have t8 : bitField z 8 = o.ta := bitField_of (pk _ _ _ rfl)
  have t9 : bitField z 9 = o.zs := bitField_of (pk _ _ _ rfl)
  have b0_6 : bvField 6 z 0 = o.t := bvField_of (pk _ _ _ rfl)
  have b10_4 : bvField 4 z 10 = o.kc := bvField_of (pk _ _ _ rfl)
  have b14_2 : bvField 2 z 14 = o.st := bvField_of (pk _ _ _ rfl)
  have b16_3 : bvField 3 z 16 = o.rb := bvField_of (pk _ _ _ rfl)
  have b19_3 : bvField 3 z 19 = o.ra := bvField_of (pk _ _ _ rfl)
  have b22_3 : bvField 3 z 22 = o.tile := bvField_of (pk _ _ _ rfl)
  have f25_6 : field z 25 6 = 55 := pk _ _ _ rfl
  simp [decodeCWord, mmaOf, t6, t7, t8, t9, b0_6, b10_4, b14_2, b16_3, b19_3, b22_3, f25_6]

theorem mmazN4 (o : Mma) : Statement (.mmazN4 o) := by
  refine ofCompute [(6, o.t.toNat), (1, bitCode o.ns), (1, bitCode o.tb), (1, bitCode o.ta), (1, bitCode o.zs), (4, o.kc.toNat), (2, o.st.toNat), (3, o.rb.toNat), (3, o.ra.toNat), (3, o.tile.toNat), (6, 56)] rfl ⟨lt_of (o.t.isLt), lt_of (bitCode_lt o.ns), lt_of (bitCode_lt o.tb), lt_of (bitCode_lt o.ta), lt_of (bitCode_lt o.zs), lt_of (o.kc.isLt), lt_of (o.st.isLt), lt_of (o.rb.isLt), lt_of (o.ra.isLt), lt_of (o.tile.isLt), by decide, trivial⟩ rfl (by show encMma 0x38 o = _; simp only [cat, encMma]; try omega) fun z pk _ => ?_
  have t6 : bitField z 6 = o.ns := bitField_of (pk _ _ _ rfl)
  have t7 : bitField z 7 = o.tb := bitField_of (pk _ _ _ rfl)
  have t8 : bitField z 8 = o.ta := bitField_of (pk _ _ _ rfl)
  have t9 : bitField z 9 = o.zs := bitField_of (pk _ _ _ rfl)
  have b0_6 : bvField 6 z 0 = o.t := bvField_of (pk _ _ _ rfl)
  have b10_4 : bvField 4 z 10 = o.kc := bvField_of (pk _ _ _ rfl)
  have b14_2 : bvField 2 z 14 = o.st := bvField_of (pk _ _ _ rfl)
  have b16_3 : bvField 3 z 16 = o.rb := bvField_of (pk _ _ _ rfl)
  have b19_3 : bvField 3 z 19 = o.ra := bvField_of (pk _ _ _ rfl)
  have b22_3 : bvField 3 z 22 = o.tile := bvField_of (pk _ _ _ rfl)
  have f25_6 : field z 25 6 = 56 := pk _ _ _ rfl
  simp [decodeCWord, mmaOf, t6, t7, t8, t9, b0_6, b10_4, b14_2, b16_3, b19_3, b22_3, f25_6]

theorem mmazE4m3 (o : Mma) : Statement (.mmazE4m3 o) := by
  refine ofCompute [(6, o.t.toNat), (1, bitCode o.ns), (1, bitCode o.tb), (1, bitCode o.ta), (1, bitCode o.zs), (4, o.kc.toNat), (2, o.st.toNat), (3, o.rb.toNat), (3, o.ra.toNat), (3, o.tile.toNat), (6, 57)] rfl ⟨lt_of (o.t.isLt), lt_of (bitCode_lt o.ns), lt_of (bitCode_lt o.tb), lt_of (bitCode_lt o.ta), lt_of (bitCode_lt o.zs), lt_of (o.kc.isLt), lt_of (o.st.isLt), lt_of (o.rb.isLt), lt_of (o.ra.isLt), lt_of (o.tile.isLt), by decide, trivial⟩ rfl (by show encMma 0x39 o = _; simp only [cat, encMma]; try omega) fun z pk _ => ?_
  have t6 : bitField z 6 = o.ns := bitField_of (pk _ _ _ rfl)
  have t7 : bitField z 7 = o.tb := bitField_of (pk _ _ _ rfl)
  have t8 : bitField z 8 = o.ta := bitField_of (pk _ _ _ rfl)
  have t9 : bitField z 9 = o.zs := bitField_of (pk _ _ _ rfl)
  have b0_6 : bvField 6 z 0 = o.t := bvField_of (pk _ _ _ rfl)
  have b10_4 : bvField 4 z 10 = o.kc := bvField_of (pk _ _ _ rfl)
  have b14_2 : bvField 2 z 14 = o.st := bvField_of (pk _ _ _ rfl)
  have b16_3 : bvField 3 z 16 = o.rb := bvField_of (pk _ _ _ rfl)
  have b19_3 : bvField 3 z 19 = o.ra := bvField_of (pk _ _ _ rfl)
  have b22_3 : bvField 3 z 22 = o.tile := bvField_of (pk _ _ _ rfl)
  have f25_6 : field z 25 6 = 57 := pk _ _ _ rfl
  simp [decodeCWord, mmaOf, t6, t7, t8, t9, b0_6, b10_4, b14_2, b16_3, b19_3, b22_3, f25_6]

theorem mmazE5m2 (o : Mma) : Statement (.mmazE5m2 o) := by
  refine ofCompute [(6, o.t.toNat), (1, bitCode o.ns), (1, bitCode o.tb), (1, bitCode o.ta), (1, bitCode o.zs), (4, o.kc.toNat), (2, o.st.toNat), (3, o.rb.toNat), (3, o.ra.toNat), (3, o.tile.toNat), (6, 58)] rfl ⟨lt_of (o.t.isLt), lt_of (bitCode_lt o.ns), lt_of (bitCode_lt o.tb), lt_of (bitCode_lt o.ta), lt_of (bitCode_lt o.zs), lt_of (o.kc.isLt), lt_of (o.st.isLt), lt_of (o.rb.isLt), lt_of (o.ra.isLt), lt_of (o.tile.isLt), by decide, trivial⟩ rfl (by show encMma 0x3a o = _; simp only [cat, encMma]; try omega) fun z pk _ => ?_
  have t6 : bitField z 6 = o.ns := bitField_of (pk _ _ _ rfl)
  have t7 : bitField z 7 = o.tb := bitField_of (pk _ _ _ rfl)
  have t8 : bitField z 8 = o.ta := bitField_of (pk _ _ _ rfl)
  have t9 : bitField z 9 = o.zs := bitField_of (pk _ _ _ rfl)
  have b0_6 : bvField 6 z 0 = o.t := bvField_of (pk _ _ _ rfl)
  have b10_4 : bvField 4 z 10 = o.kc := bvField_of (pk _ _ _ rfl)
  have b14_2 : bvField 2 z 14 = o.st := bvField_of (pk _ _ _ rfl)
  have b16_3 : bvField 3 z 16 = o.rb := bvField_of (pk _ _ _ rfl)
  have b19_3 : bvField 3 z 19 = o.ra := bvField_of (pk _ _ _ rfl)
  have b22_3 : bvField 3 z 22 = o.tile := bvField_of (pk _ _ _ rfl)
  have f25_6 : field z 25 6 = 58 := pk _ _ _ rfl
  simp [decodeCWord, mmaOf, t6, t7, t8, t9, b0_6, b10_4, b14_2, b16_3, b19_3, b22_3, f25_6]

theorem mmazI8 (o : Mma) : Statement (.mmazI8 o) := by
  refine ofCompute [(6, o.t.toNat), (1, bitCode o.ns), (1, bitCode o.tb), (1, bitCode o.ta), (1, bitCode o.zs), (4, o.kc.toNat), (2, o.st.toNat), (3, o.rb.toNat), (3, o.ra.toNat), (3, o.tile.toNat), (6, 59)] rfl ⟨lt_of (o.t.isLt), lt_of (bitCode_lt o.ns), lt_of (bitCode_lt o.tb), lt_of (bitCode_lt o.ta), lt_of (bitCode_lt o.zs), lt_of (o.kc.isLt), lt_of (o.st.isLt), lt_of (o.rb.isLt), lt_of (o.ra.isLt), lt_of (o.tile.isLt), by decide, trivial⟩ rfl (by show encMma 0x3b o = _; simp only [cat, encMma]; try omega) fun z pk _ => ?_
  have t6 : bitField z 6 = o.ns := bitField_of (pk _ _ _ rfl)
  have t7 : bitField z 7 = o.tb := bitField_of (pk _ _ _ rfl)
  have t8 : bitField z 8 = o.ta := bitField_of (pk _ _ _ rfl)
  have t9 : bitField z 9 = o.zs := bitField_of (pk _ _ _ rfl)
  have b0_6 : bvField 6 z 0 = o.t := bvField_of (pk _ _ _ rfl)
  have b10_4 : bvField 4 z 10 = o.kc := bvField_of (pk _ _ _ rfl)
  have b14_2 : bvField 2 z 14 = o.st := bvField_of (pk _ _ _ rfl)
  have b16_3 : bvField 3 z 16 = o.rb := bvField_of (pk _ _ _ rfl)
  have b19_3 : bvField 3 z 19 = o.ra := bvField_of (pk _ _ _ rfl)
  have b22_3 : bvField 3 z 22 = o.tile := bvField_of (pk _ _ _ rfl)
  have f25_6 : field z 25 6 = 59 := pk _ _ _ rfl
  simp [decodeCWord, mmaOf, t6, t7, t8, t9, b0_6, b10_4, b14_2, b16_3, b19_3, b22_3, f25_6]

theorem mmazN8 (o : Mma) : Statement (.mmazN8 o) := by
  refine ofCompute [(6, o.t.toNat), (1, bitCode o.ns), (1, bitCode o.tb), (1, bitCode o.ta), (1, bitCode o.zs), (4, o.kc.toNat), (2, o.st.toNat), (3, o.rb.toNat), (3, o.ra.toNat), (3, o.tile.toNat), (6, 60)] rfl ⟨lt_of (o.t.isLt), lt_of (bitCode_lt o.ns), lt_of (bitCode_lt o.tb), lt_of (bitCode_lt o.ta), lt_of (bitCode_lt o.zs), lt_of (o.kc.isLt), lt_of (o.st.isLt), lt_of (o.rb.isLt), lt_of (o.ra.isLt), lt_of (o.tile.isLt), by decide, trivial⟩ rfl (by show encMma 0x3c o = _; simp only [cat, encMma]; try omega) fun z pk _ => ?_
  have t6 : bitField z 6 = o.ns := bitField_of (pk _ _ _ rfl)
  have t7 : bitField z 7 = o.tb := bitField_of (pk _ _ _ rfl)
  have t8 : bitField z 8 = o.ta := bitField_of (pk _ _ _ rfl)
  have t9 : bitField z 9 = o.zs := bitField_of (pk _ _ _ rfl)
  have b0_6 : bvField 6 z 0 = o.t := bvField_of (pk _ _ _ rfl)
  have b10_4 : bvField 4 z 10 = o.kc := bvField_of (pk _ _ _ rfl)
  have b14_2 : bvField 2 z 14 = o.st := bvField_of (pk _ _ _ rfl)
  have b16_3 : bvField 3 z 16 = o.rb := bvField_of (pk _ _ _ rfl)
  have b19_3 : bvField 3 z 19 = o.ra := bvField_of (pk _ _ _ rfl)
  have b22_3 : bvField 3 z 22 = o.tile := bvField_of (pk _ _ _ rfl)
  have f25_6 : field z 25 6 = 60 := pk _ _ _ rfl
  simp [decodeCWord, mmaOf, t6, t7, t8, t9, b0_6, b10_4, b14_2, b16_3, b19_3, b22_3, f25_6]

theorem mmazBf16 (o : Mma) : Statement (.mmazBf16 o) := by
  refine ofCompute [(6, o.t.toNat), (1, bitCode o.ns), (1, bitCode o.tb), (1, bitCode o.ta), (1, bitCode o.zs), (4, o.kc.toNat), (2, o.st.toNat), (3, o.rb.toNat), (3, o.ra.toNat), (3, o.tile.toNat), (6, 61)] rfl ⟨lt_of (o.t.isLt), lt_of (bitCode_lt o.ns), lt_of (bitCode_lt o.tb), lt_of (bitCode_lt o.ta), lt_of (bitCode_lt o.zs), lt_of (o.kc.isLt), lt_of (o.st.isLt), lt_of (o.rb.isLt), lt_of (o.ra.isLt), lt_of (o.tile.isLt), by decide, trivial⟩ rfl (by show encMma 0x3d o = _; simp only [cat, encMma]; try omega) fun z pk hwf => ?_
  replace hwf : (!o.ns) = true := hwf
  have t6 : bitField z 6 = o.ns := bitField_of (pk _ _ _ rfl)
  have t7 : bitField z 7 = o.tb := bitField_of (pk _ _ _ rfl)
  have t8 : bitField z 8 = o.ta := bitField_of (pk _ _ _ rfl)
  have t9 : bitField z 9 = o.zs := bitField_of (pk _ _ _ rfl)
  have b0_6 : bvField 6 z 0 = o.t := bvField_of (pk _ _ _ rfl)
  have b10_4 : bvField 4 z 10 = o.kc := bvField_of (pk _ _ _ rfl)
  have b14_2 : bvField 2 z 14 = o.st := bvField_of (pk _ _ _ rfl)
  have b16_3 : bvField 3 z 16 = o.rb := bvField_of (pk _ _ _ rfl)
  have b19_3 : bvField 3 z 19 = o.ra := bvField_of (pk _ _ _ rfl)
  have b22_3 : bvField 3 z 22 = o.tile := bvField_of (pk _ _ _ rfl)
  have f25_6 : field z 25 6 = 61 := pk _ _ _ rfl
  simp [accept, decodeCWord, mmaOf, t6, t7, t8, t9, b0_6, b10_4, b14_2, b16_3, b19_3, b22_3, f25_6, hwf]

theorem mmazFp16 (o : Mma) : Statement (.mmazFp16 o) := by
  refine ofCompute [(6, o.t.toNat), (1, bitCode o.ns), (1, bitCode o.tb), (1, bitCode o.ta), (1, bitCode o.zs), (4, o.kc.toNat), (2, o.st.toNat), (3, o.rb.toNat), (3, o.ra.toNat), (3, o.tile.toNat), (6, 62)] rfl ⟨lt_of (o.t.isLt), lt_of (bitCode_lt o.ns), lt_of (bitCode_lt o.tb), lt_of (bitCode_lt o.ta), lt_of (bitCode_lt o.zs), lt_of (o.kc.isLt), lt_of (o.st.isLt), lt_of (o.rb.isLt), lt_of (o.ra.isLt), lt_of (o.tile.isLt), by decide, trivial⟩ rfl (by show encMma 0x3e o = _; simp only [cat, encMma]; try omega) fun z pk hwf => ?_
  replace hwf : (!o.ns) = true := hwf
  have t6 : bitField z 6 = o.ns := bitField_of (pk _ _ _ rfl)
  have t7 : bitField z 7 = o.tb := bitField_of (pk _ _ _ rfl)
  have t8 : bitField z 8 = o.ta := bitField_of (pk _ _ _ rfl)
  have t9 : bitField z 9 = o.zs := bitField_of (pk _ _ _ rfl)
  have b0_6 : bvField 6 z 0 = o.t := bvField_of (pk _ _ _ rfl)
  have b10_4 : bvField 4 z 10 = o.kc := bvField_of (pk _ _ _ rfl)
  have b14_2 : bvField 2 z 14 = o.st := bvField_of (pk _ _ _ rfl)
  have b16_3 : bvField 3 z 16 = o.rb := bvField_of (pk _ _ _ rfl)
  have b19_3 : bvField 3 z 19 = o.ra := bvField_of (pk _ _ _ rfl)
  have b22_3 : bvField 3 z 22 = o.tile := bvField_of (pk _ _ _ rfl)
  have f25_6 : field z 25 6 = 62 := pk _ _ _ rfl
  simp [accept, decodeCWord, mmaOf, t6, t7, t8, t9, b0_6, b10_4, b14_2, b16_3, b19_3, b22_3, f25_6, hwf]

theorem matrixWordStart (c : CoreId) (u : Nat) : Statement (.matrixWordStart c u) := fun _ => trivial

theorem matrixWordCompletion (c : CoreId) (n : Nat) : Statement (.matrixWordCompletion c n) := fun _ => trivial

theorem drawCompletion (c : CoreId) (n : Nat) : Statement (.drawCompletion c n) := fun _ => trivial

theorem bankPowerUp (c : CoreId) (bank : Nat) : Statement (.bankPowerUp c bank) := fun _ => trivial

theorem moduleReset : Statement (.moduleReset) := fun _ => trivial

theorem watchdogExpiry : Statement (.watchdogExpiry) := fun _ => trivial

theorem hostDoorbell (v : W64) : Statement (.hostDoorbell v) := fun _ => trivial

theorem attestationReport : Statement (.attestationReport) := fun _ => trivial

theorem identityCertificate : Statement (.identityCertificate) := fun _ => trivial

theorem firmwareImageWrite : Statement (.firmwareImageWrite) := fun _ => trivial

theorem lqsub (host : Bool) (t : Tenant) (q : Fin 4) (v : W64) : Statement (.lqsub host t q v) := fun _ => trivial

theorem ingressRecordWrite (j : Fin 4) (v : W64) (full : Bool) : Statement (.ingressRecordWrite j v full) := fun _ => trivial

theorem ingressFlushTimeout (j : Fin 4) : Statement (.ingressFlushTimeout j) := fun _ => trivial

theorem hostBar2Access (off : Nat) (acc : HostAcc) (e : Ecc) : Statement (.hostBar2Access off acc e) := fun _ => trivial

theorem pcieLinkDown : Statement (.pcieLinkDown) := fun _ => trivial

theorem hostCompletion (tag : Nat) (st : Cpl) : Statement (.hostCompletion tag st) := fun _ => trivial

theorem completionTimeout (tag : Nat) : Statement (.completionTimeout tag) := fun _ => trivial

theorem stolepelLinkDown (p : RingLink) (cut : List (Fin 4)) : Statement (.stolepelLinkDown p cut) := fun _ => trivial

theorem stolepelLinkUp (p : RingLink) (mend : List (Fin 4)) (lanes : Nat) (seen : List PeerView) : Statement (.stolepelLinkUp p mend lanes seen) := fun _ => trivial

theorem launchForward (m : Forward) : Statement (.launchForward m) := fun _ => trivial

theorem taskCompletionReport (m : Report) : Statement (.taskCompletionReport m) := fun _ => trivial

theorem tinvPage (v : W64) : Statement (.tinvPage v) := fun _ => trivial

theorem tinvTenant (v : W64) : Statement (.tinvTenant v) := fun _ => trivial

theorem tinvAll (v : W64) : Statement (.tinvAll v) := fun _ => trivial

theorem tinvCompletion : Statement (.tinvCompletion) := fun _ => trivial

theorem owncmd (v : W64) : Statement (.owncmd v) := fun _ => trivial

theorem ownerChangeCompletion : Statement (.ownerChangeCompletion) := fun _ => trivial

theorem resumeReplay (v : W64) : Statement (.resumeReplay v) := fun _ => trivial

theorem resumeKill (v : W64) : Statement (.resumeKill v) := fun _ => trivial

theorem resumeNoAction (v : W64) : Statement (.resumeNoAction v) := fun _ => trivial

theorem svcmdDeliver (v : W64) : Statement (.svcmdDeliver v) := fun _ => trivial

theorem serviceAnswerArrival (c : CoreId) (x : CtxId) : Statement (.serviceAnswerArrival c x) := fun _ => trivial

theorem ifreq (i : IslandId) (v : W64) : Statement (.ifreq i v) := fun _ => trivial

theorem fqheadWrite (t : Tenant) (v : W64) : Statement (.fqheadWrite t v) := fun _ => trivial

theorem sqheadWrite (t : Tenant) (v : W64) : Statement (.sqheadWrite t v) := fun _ => trivial

theorem registerWrite (host : Bool) (r : Reg) (v : W64) : Statement (.registerWrite host r v) := fun _ => trivial

theorem governorIntervalBoundary : Statement (.governorIntervalBoundary) := fun _ => trivial

theorem loweringDue (i : IslandId) : Statement (.loweringDue i) := fun _ => trivial

theorem energyTick (rail : List Nat) (oh : Nat) (emod : Nat) (temps : List Nat) : Statement (.energyTick rail oh emod temps) := fun _ => trivial

theorem rampTick (slope : Slope) : Statement (.rampTick slope) := fun _ => trivial

theorem droopTrip (i : IslandId) : Statement (.droopTrip i) := fun _ => trivial

theorem overcurrent (i : IslandId) (ma : Nat) : Statement (.overcurrent i ma) := fun _ => trivial

theorem thermalCritical (i : IslandId) (temp : Nat) : Statement (.thermalCritical i temp) := fun _ => trivial

theorem thermalRecovery (i : IslandId) (temp : Nat) : Statement (.thermalRecovery i temp) := fun _ => trivial

theorem throttleWindowClose : Statement (.throttleWindowClose) := fun _ => trivial

theorem flitInjection (r : RouterId) : Statement (.flitInjection r) := fun _ => trivial

theorem flitRouting (drops : List (RouterId × Lane)) : Statement (.flitRouting drops) := fun _ => trivial

theorem creditReturn (r : RouterId) (n : Nat) : Statement (.creditReturn r n) := fun _ => trivial

theorem creditExpiry (r : RouterId) (n : Nat) : Statement (.creditExpiry r n) := fun _ => trivial

theorem lossNotice (c : CoreId) (n : Nat) : Statement (.lossNotice c n) := fun _ => trivial

theorem readRequest (i : SliceId) (n : Nat) : Statement (.readRequest i n) := fun _ => trivial

theorem multicastWindowClose (i : SliceId) (n : Nat) : Statement (.multicastWindowClose i n) := fun _ => trivial

theorem lineFill (i : SliceId) (n : Nat) (e : Ecc) : Statement (.lineFill i n e) := fun _ => trivial

theorem sectorLanding (c : CoreId) (n : Nat) : Statement (.sectorLanding c n) := fun _ => trivial

theorem sectorWrite (i : SliceId) (n : Nat) (e : Ecc) : Statement (.sectorWrite i n e) := fun _ => trivial

theorem writeAcknowledgement (c : CoreId) (n : Nat) : Statement (.writeAcknowledgement c n) := fun _ => trivial

theorem atomicRequest (r : RouterId) (n : Nat) (e : Ecc) : Statement (.atomicRequest r n e) := fun _ => trivial

theorem atomicReply (c : CoreId) (n : Nat) : Statement (.atomicReply c n) := fun _ => trivial

theorem accumulateWrite (i : SliceId) (n : Nat) (e : Ecc) : Statement (.accumulateWrite i n e) := fun _ => trivial

theorem putSectorArrival (c : CoreId) (n : Nat) : Statement (.putSectorArrival c n) := fun _ => trivial

theorem putAcknowledgement (c : CoreId) (n : Nat) : Statement (.putAcknowledgement c n) := fun _ => trivial

theorem putRefusal (c : CoreId) (n : Nat) : Statement (.putRefusal c n) := fun _ => trivial

theorem putResendDelay (c : CoreId) (id : Nat) (idx : Nat) : Statement (.putResendDelay c id idx) := fun _ => trivial

theorem putRefusalLimit (c : CoreId) (id : Nat) (idx : Nat) : Statement (.putRefusalLimit c id idx) := fun _ => trivial

theorem pageWalkCompletion (i : IslandId) (n : Nat) (bad : Option Nat) : Statement (.pageWalkCompletion i n bad) := fun _ => trivial

theorem copyPark (c : CoreId) (id : Nat) : Statement (.copyPark c id) := fun _ => trivial

theorem barrierArrival (i : SliceId) (n : Nat) (e : Ecc) : Statement (.barrierArrival i n e) := fun _ => trivial

theorem byteDeclaration (i : SliceId) (n : Nat) (e : Ecc) : Statement (.byteDeclaration i n e) := fun _ => trivial

theorem byteReport (i : SliceId) (n : Nat) (e : Ecc) : Statement (.byteReport i n e) := fun _ => trivial

theorem registration (i : SliceId) (n : Nat) (e : Ecc) : Statement (.registration i n e) := fun _ => trivial

theorem wakeUp (c : CoreId) (n : Nat) : Statement (.wakeUp c n) := fun _ => trivial

theorem messageArrival (c : CoreId) (n : Nat) : Statement (.messageArrival c n) := fun _ => trivial

theorem messageResend (c : CoreId) (x : CtxId) : Statement (.messageResend c x) := fun _ => trivial

theorem handlerStart (c : CoreId) : Statement (.handlerStart c) := fun _ => trivial

theorem watermarkStallLimit (c : CoreId) (a : Agent) : Statement (.watermarkStallLimit c a) := fun _ => trivial

theorem queueDeadlock (c : CoreId) : Statement (.queueDeadlock c) := fun _ => trivial

theorem trapEntry (c : CoreId) : Statement (.trapEntry c) := fun _ => trivial

theorem sliceExpiry (g : Nat) : Statement (.sliceExpiry g) := fun _ => trivial

theorem preemption (g : Nat) : Statement (.preemption g) := fun _ => trivial

theorem taskCompletion (c : CoreId) : Statement (.taskCompletion c) := fun _ => trivial

theorem pcieLinkUp : Statement (.pcieLinkUp) := fun _ => trivial

theorem loadValueReturn (c : CoreId) (n : Nat) : Statement (.loadValueReturn c n) := fun _ => trivial

theorem messageAcceptance (c : CoreId) (n : Nat) : Statement (.messageAcceptance c n) := fun _ => trivial

theorem barrierAcknowledgement (c : CoreId) (n : Nat) : Statement (.barrierAcknowledgement c n) := fun _ => trivial

theorem fetchAhead (c : CoreId) (a : Agent) (off : Nat) : Statement (.fetchAhead c a off) := fun _ => trivial

theorem droopClear (i : IslandId) : Statement (.droopClear i) := fun _ => trivial

theorem currentLimitClear (i : IslandId) (ma : Nat) : Statement (.currentLimitClear i ma) := fun _ => trivial

end Sys2Proof.Laws.Encodes

end
end

