-- ==== Sys2Proof/Laws/X.lean ====
section
/-! SUPPORT. What the shared operations of the words of X can do, once each: retiring, jumping, computing a register. -/

namespace Sys2Proof.Machine

open Sys2Proof

/-! ### Registers -/

/-- A context with a register written reads that register as written, s0 as zero, and every other as before. -/
theorem XCtx.get_set (u : XCtx) (d r : BitVec 5) (v : W64) :
    (u.set d v).get r = if r = d ∧ d ≠ 0 then v else u.get r := by
  have e0 : (0 : BitVec 5) = 0#5 := rfl
  rw [e0]
  by_cases hd : d = 0#5
  · simp [XCtx.set, hd]
  · by_cases hr : r = 0#5
    · have : ¬ 0#5 = d := fun e => hd e.symm
      simp [XCtx.get, hr, this]
    · by_cases hrd : r = d
      · subst hrd; simp [XCtx.get, XCtx.set, hd]
      · have : d.toNat ≠ r.toNat := fun e => hrd (BitVec.eq_of_toNat_eq e.symm)
        simp [XCtx.get, XCtx.set, hd, hr, hrd, this]

/-! ### Retiring and jumping -/

/-- The state and the context that a word in focus sees. -/
theorem State.fx_eq {s : State} {c : CoreId} {x : CtxId} (h : s.focus = (c, .x x)) :
    s.here = s.core c ∧ s.fctx = x ∧ s.fx = (s.core c).ctx x := by
  simp [State.here, State.fctx, State.fx, h]

/-- A context of a core is replaced by one that has moved on: all that differs is that context and the list of waiters. -/
theorem State.moved_sets {s : State} {c : CoreId} {x : CtxId} (d : BitVec 5) (v pc : W64) (g : XCtx → XCtx)
    (hg : g ((s.core c).ctx x) = ((s.core c).ctx x).set d v) :
    XSets c x s (.next (s.modCore c (fun k =>
      (k.setCtx x { g (k.ctx x) with pc := pc, op := none, fault := none, wait := none, stall := 0 }).leaveWait (.x x)))) d v pc := by
  refine ⟨_, rfl, s.modCore_only c _, ⟨fun _ => rfl, fun a => by simp [Core.leaveWait, Core.setCtx]⟩, ⟨?_, ?_⟩, ?_, ?_, ?_⟩
  · simp [Core.leaveWait, Core.setCtx]
  · intro y hy
    simp [Core.setCtx_ctx_ne _ _ hy]
  · simp only [State.modCore_core_self, Core.leaveWait_ctx, Core.setCtx_ctx_self, hg, XCtx.moved]
    refine ⟨?_, trivial, trivial, trivial, trivial⟩
    unfold XCtx.set
    split <;> rfl
  · simp
  · intro r
    simp only [State.modCore_core_self, Core.leaveWait_ctx, Core.setCtx_ctx_self, hg, ← XCtx.get_set]
    rfl

/-- A word that retires with a register written. -/
theorem State.xRetire_sets {s : State} {c : CoreId} {x : CtxId} (h : s.focus = (c, .x x)) (d : BitVec 5) (v : W64) (g : XCtx → XCtx)
    (hg : g ((s.core c).ctx x) = ((s.core c).ctx x).set d v) :
    XSets c x s (.next (s.xRetire g)) d v (((s.core c).ctx x).pc + 4) := by
  have := State.moved_sets (s := s) (c := c) (x := x) d v (((s.core c).ctx x).pc + 4) g hg
  simpa [State.xRetire, State.modHere, Core.xRetire, State.modCore, h, State.fctx] using this

/-- A word that jumps with a register written. -/
theorem State.xJump_sets {s : State} {c : CoreId} {x : CtxId} (h : s.focus = (c, .x x)) (d : BitVec 5) (v pc : W64) (g : XCtx → XCtx)
    (hg : g ((s.core c).ctx x) = ((s.core c).ctx x).set d v) : XSets c x s (.next (s.xJump pc g)) d v pc := by
  have := State.moved_sets (s := s) (c := c) (x := x) d v pc g hg
  simpa [State.xJump, State.modHere, h, State.fctx] using this

/-- A word that computes a register from registers, all of them ready. -/
theorem State.xAlu_sets {s : State} {c : CoreId} {x : CtxId} (h : s.focus = (c, .x x)) (d : BitVec 5) (uses : List (BitVec 5))
    (v : XCtx → W64) (hr : ((s.core c).ctx x).ready (d :: uses) = true) :
    XSets c x s (.next (s.xAlu d uses v)) d (v ((s.core c).ctx x)) (((s.core c).ctx x).pc + 4) := by
  have e := (State.fx_eq h).2.2
  simp only [State.xAlu, e, hr, if_true]
  exact State.xRetire_sets h d _ _ rfl

end Sys2Proof.Machine
end

