-- ==== Sys2Proof/Tests/Slice0.lean ====
section
/-! SUPPORT. Tests of the model: words written out from the encoding tables of 02_words, ill-formed terms, single steps with results
worked out from the rules, and for each statement with hypotheses a state and operands that meet them. -/

set_option Elab.async false

namespace Sys2Proof.Tests

open Sys2Proof Sys2Proof.Machine

/-! ### Decoding -/

/-- Each word decodes in the section to the chain bit and the instruction beside it. -/
def reads (sec : Sect) (l : List (Nat × Bool × Instr)) : Bool := l.all (fun p =>
  match decodeWord sec p.1 with
  | .ok q => decide (q = p.2)
  | .error _ => false)

/-- Each word is refused for the reason beside it. -/
def refuses (sec : Sect) (l : List (Nat × BadWord)) : Bool := l.all (fun p =>
  match decodeWord sec p.1 with
  | .ok _ => false
  | .error e => decide (e = p.2))

/-- Words of R34 and R35: arithmetic, the bit network and immediates. -/
theorem test_decode_scalar_arithmetic : reads .scalar [
    (0x0071F001, false, .xAdd 3 17 30),
    (0x01564802, false, .xSub 10 22 9),
    (0x023BA003, false, .xAnd 17 27 20),
    (0x0300F804, false, .xOr 24 0 31),
    (0x03E55005, false, .xXor 31 5 10),
    (0x00CAA806, false, .xAndn 6 10 21),
    (0x01AF0007, false, .xSll 13 15 0),
    (0x02945808, false, .xSrl 20 20 11),
    (0x0379B009, false, .xSra 27 25 22),
    (0x005E080A, false, .xSlt 2 30 1),
    (0x0123600B, false, .xSltu 9 3 12),
    (0x0208B80C, false, .xSeq 16 8 23),
    (0x02ED100D, false, .xSne 23 13 2),
    (0x03D2680E, false, .xMin 30 18 13),
    (0x00B7C00F, false, .xMax 5 23 24),
    (0x019C1810, false, .xMinu 12 28 3),
    (0x02617011, false, .xMaxu 19 1 14),
    (0x0746C801, false, .xMul 26 6 25),
    (0x042B2002, false, .xMulh 1 11 4),
    (0x05107803, false, .xMulhu 8 16 15),
    (0x05F5D004, false, .xDiv 15 21 26),
    (0x06DA2805, false, .xDivu 22 26 5),
    (0x07BF8006, false, .xRem 29 31 16),
    (0x0484D807, false, .xRemu 4 4 27),
    (0x008110D2, false, .xSel 4 1 2 3),
    (0x03F00013, false, .xClz 31 16),
    (0x003E0014, false, .xCtz 1 30),
    (0x01360015, false, .xPopc 9 22),
    (0x08A60081, false, .bxp 5 6 2),
    (0x081D01C2, false, .bxl 29 7),
    (0x11348001, false, .xAddi 9 20 0x8001),
    (0x15558002, false, .xAndi 10 21 0x8002),
    (0x19768003, false, .xOri 11 22 0x8003),
    (0x1D978004, false, .xXori 12 23 0x8004),
    (0x21B88005, false, .xSlti 13 24 0x8005),
    (0x25D98006, false, .xSltiu 14 25 0x8006),
    (0x28A01234, false, .xLui 5 0x1234),
    (0x2CBE003F, false, .xSlli 5 30 63),
    (0x30DD003E, false, .xSrli 6 29 62),
    (0x34FC003D, false, .xSrai 7 28 61)] = true := by decide

/-- Words of R33 and R34: branches, jumps, loads, stores, fences. -/
theorem test_decode_scalar_flow_memory : reads .scalar [
    (0x407FFFFF, false, .xBeq 3 31 0xffff),
    (0x449EFFFE, false, .xBne 4 30 0xfffe),
    (0x48BDFFFD, false, .xBlt 5 29 0xfffd),
    (0x4CDCFFFC, false, .xBge 6 28 0xfffc),
    (0x50FBFFFB, false, .xBltu 7 27 0xfffb),
    (0x551AFFFA, false, .xBgeu 8 26 0xfffa),
    (0x5BFFFFFE, false, .xJ 0x3FFFFFE),
    (0x5E000001, false, .call 0x2000001),
    (0x601F8000, false, .jr 31 0x8000),
    (0x67E90000, false, .callr 31 9),
    (0x805E0400, false, .ldD { d := 2, a := 30, hint := .dflt, ord := none, off := 0x400 }),
    (0x847D2C01, false, .ldW { d := 3, a := 29, hint := .dflt, ord := some .island, off := 0x401 }),
    (0x889C4402, false, .ldWu { d := 4, a := 28, hint := .stream, ord := none, off := 0x402 }),
    (0x8CBB7C03, false, .ldH { d := 5, a := 27, hint := .stream, ord := some .system, off := 0x403 }),
    (0x90DA8404, false, .ldHu { d := 6, a := 26, hint := .sticky, ord := none, off := 0x404 }),
    (0x94F9AC05, false, .ldB { d := 7, a := 25, hint := .sticky, ord := some .island, off := 0x405 }),
    (0x9918C406, false, .ldBu { d := 8, a := 24, hint := .bypass, ord := none, off := 0x406 }),
    (0xA137FC07, false, .stD { d := 9, a := 23, hint := .bypass, ord := some .system, off := 0x407 }),
    (0xA5560408, false, .stW { d := 10, a := 22, hint := .dflt, ord := none, off := 0x408 }),
    (0xA9752C09, false, .stH { d := 11, a := 21, hint := .dflt, ord := some .island, off := 0x409 }),
    (0xAD94440A, false, .stB { d := 12, a := 20, hint := .stream, ord := none, off := 0x40a }),
    (0xB0002000, false, .fence .core),
    (0xB0002800, false, .fence .island),
    (0xB0003000, false, .fence .device),
    (0xB0003800, false, .fence .system)] = true := by decide

/-- Words of R34: queues, semaphores, barriers, messages, system. -/
theorem test_decode_scalar_system : reads .scalar [
    (0xC0052000, false, .xPushValue 5 .first),
    (0xC0004000, false, .xPushBare .second),
    (0xC4E0A000, false, .xPopValue 7 .third),
    (0xC4004000, false, .xPopBare .second),
    (0xC800FC01, false, .xSema 63 1),
    (0xCC0083FF, false, .xSemv 32 1023),
    (0xD0030000, false, .barr 3),
    (0xD4032000, false, .bexp 3 4),
    (0xD8032C20, false, .bwait 3 5 33),
    (0xDC432000, false, .msend 2 3 4),
    (0xE0000000, false, .hend),
    (0xE4048000, false, .launch 4 2),
    (0xE8A00021, false, .rsys 5 0x21),
    (0xEC010084, false, .wsys 1 0x84),
    (0xF0000007, false, .sys 7),
    (0xF4000000, false, .tret),
    (0xF8000000, false, .xEnd),
    (0xFC000000, false, .xNop)] = true := by decide

/-- Words of R36 to R39 that L and S share, read in L. -/
theorem test_decode_shared : reads .load [
    (0x07E20061, false, .lsAddi 15 8 0x801 0x21),
    (0x0A3C0040, false, .lsAdd 8 15 0 0),
    (0x0A78C089, false, .lsSub 9 14 3 9),
    (0x0AB580D2, false, .lsMul 10 13 6 18),
    (0x0AF2411B, false, .lsAnd 11 12 9 27),
    (0x0B2F0164, false, .lsOr 12 11 12 36),
    (0x0B6BC1AD, false, .lsXor 13 10 15 45),
    (0x0BA481F6, false, .lsSll 14 9 2 54),
    (0x0BE1423F, false, .lsSrl 15 8 5 63),
    (0x0C600043, false, .li 1 0x8001 3),
    (0x139FFFB8, false, .lih 14 0x7FFE 0x38),
    (0x14A40FC1, false, .shli 2 9 63 1),
    (0x1A480802, false, .shri 9 2 32 2),
    (0x23300004, false, .lset 12 3 4),
    (0x2423FFC8, false, .lnext 2 0xFFF 8),
    (0x2AC20010, false, .bz 11 0x800 16),
    (0x2D41FFE0, false, .bnz 5 0x7FF 32),
    (0x33FFFF85, false, .lsJ 0xFFFFE 5),
    (0x34E80006, false, .qpopValue 3 .third 6),
    (0x34100007, false, .qpopBare .second 7),
    (0x3B480009, false, .qpushValue 13 .first 9),
    (0x3820000A, false, .qpushBare .third 10),
    (0x3EA070CB, false, .hset 0x2A 7 3 11),
    (0x61A4000C, false, .wwait 6 9 12),
    (0x6658000D, false, .wget 9 6 13),
    (0x683C000E, false, .wreset 15 14),
    (0x6FE8004F, false, .lsSema 62 0x2001 15),
    (0x701FFFD1, false, .lsSemv 1 0x3FFF 17),
    (0xF800003F, false, .lsNop 0x3F),
    (0xFC000012, false, .lsEnd 0x12)] = true := by decide

/-- The same bits in S mean the same (R39). -/
theorem test_decode_shared_store : reads .store [
    (0x07E20061, false, .lsAddi 15 8 0x801 0x21),
    (0x0AF2411B, false, .lsAnd 11 12 9 27),
    (0x0BE1423F, false, .lsSrl 15 8 5 63),
    (0x1A480802, false, .shri 9 2 32 2),
    (0x2D41FFE0, false, .bnz 5 0x7FF 32),
    (0x3B480009, false, .qpushValue 13 .first 9),
    (0x6658000D, false, .wget 9 6 13),
    (0xF800003F, false, .lsNop 0x3F)] = true := by decide

/-- Words of L alone (R39). -/
theorem test_decode_load : reads .load [
    (0x4056EA03, false, .lCopy { h := 5, w := 6, a := 14, hint := .sticky, bar := true, t := 3 }),
    (0x44232022, false, .copyO 2 3 1 .dflt false 0x22),
    (0x4619CE15, false, .copyO 33 9 6 .bypass true 0x15),
    (0x4A813502, false, .copyPk { h := 40, w := 1, a := 3, hint := .stream, bar := false, t := 2 } 4),
    (0x4C1A2EC1, false, .copyUk { h := 1, w := 10, a := 2, hint := .bypass, bar := true, t := 1 } 3),
    (0x53FFE009, false, .gather { h := 63, w := 15, a := 14, hint := .dflt, bar := false, t := 9 }),
    (0x55505804, false, .prefetch 21 5 .sticky 4),
    (0x58032400, false, .lOpen 3 2 .stream 0),
    (0x5C0C0007, false, .lClose 12 7)] = true := by decide

/-- Words of S alone (R39, R40). -/
theorem test_decode_store : reads .store [
    (0x4056EA03, false, .wcopy { h := 5, w := 6, a := 14, hint := .sticky, bar := true, t := 3 }),
    (0x45151C08, false, .scatter { h := 17, w := 5, a := 1, hint := .bypass, bar := false, t := 8 }),
    (0x48924406, false, .put 9 2 4 .stream 6),
    (0x4C342000, false, .acopy 3 4 2 .dflt .add .f32 0),
    (0x4C342245, false, .acopy 3 4 2 .dflt .max .bf16 5),
    (0x8491B900, false, .atom64 { a := 2, v := 4, res := 6, op := .cas, ord := .relaxed, scope := .device, u := false, t := 0 }),
    (0x804DC480, false, .atom32 { a := 1, v := 3, res := 7, op := .add, ord := .release, scope := .island, u := false, t := 0 }),
    (0x865717EA, false, .atom64 { a := 9, v := 5, res := 12, op := .max, ord := .acqRel, scope := .system, u := true, t := 0x2A })] = true := by decide

/-- Words of R41 and R45: vector arithmetic and compares. -/
theorem test_decode_compute_arithmetic : reads .compute [
    (0x03182FF0, false, .fadd { d := 70, a := 5, b := 127, m := .plain }),
    (0x852C77C7, true, .fsub { d := 75, a := 14, b := 124, m := .mask 7 }),
    (0x0740BF91, false, .fmul { d := 80, a := 23, b := 121, m := .mask 1 }),
    (0x89550768, true, .fdiv { d := 85, a := 32, b := 118, m := .guard 0 }),
    (0x0B694F3D, false, .fmin { d := 90, a := 41, b := 115, m := .guard 5 }),
    (0x8D7D9700, true, .fmax { d := 95, a := 50, b := 112, m := .plain }),
    (0x0F91DED7, false, .fma { d := 100, a := 59, b := 109, m := .mask 7 }),
    (0x91A626A1, true, .fms { d := 105, a := 68, b := 106, m := .mask 1 }),
    (0x13BA6E78, false, .fnma { d := 110, a := 77, b := 103, m := .guard 0 }),
    (0x95CEB64D, true, .fnms { d := 115, a := 86, b := 100, m := .guard 5 }),
    (0x17E2FE10, false, .cAdd { d := 120, a := 95, b := 97, m := .plain }),
    (0x99F745E7, true, .cSub { d := 125, a := 104, b := 94, m := .mask 7 }),
    (0x1A0B8DB1, false, .cMul { d := 2, a := 113, b := 91, m := .mask 1 }),
    (0x9C1FD588, true, .cMulh { d := 7, a := 122, b := 88, m := .guard 0 }),
    (0x1E301D5D, false, .cMin { d := 12, a := 3, b := 85, m := .guard 5 }),
    (0xA0446520, true, .cMax { d := 17, a := 12, b := 82, m := .plain }),
    (0x2258ACF7, false, .cAnd { d := 22, a := 21, b := 79, m := .mask 7 }),
    (0xA46CF4C1, true, .cOr { d := 27, a := 30, b := 76, m := .mask 1 }),
    (0x26813C98, false, .cXor { d := 32, a := 39, b := 73, m := .guard 0 }),
    (0xA895846D, true, .cShl { d := 37, a := 48, b := 70, m := .guard 5 }),
    (0x2AA9CC30, false, .cShr { d := 42, a := 57, b := 67, m := .plain }),
    (0x2C002648, false, .cmp .eq 0 4 100 (some 0)),
    (0x2C2C2E50, false, .cmp .ne 3 5 101 none),
    (0x2C58366A, false, .cmp .lt 6 6 102 (some 2)),
    (0x2C643E70, false, .cmp .le 1 7 103 none),
    (0x2C90468C, false, .cmp .gt 4 8 104 (some 4)),
    (0x2CBC4E90, false, .cmp .ge 7 9 105 none),
    (0x2CC856AE, false, .cmp .uo 2 10 106 (some 6)),
    (0x2CF45EB0, false, .cmp .ord 5 11 107 none),
    (0x2C4850B0, false, .cmp .lt 2 10 11 none),
    (0x2E244075, false, .cSel 9 8 7 5)] = true := by decide

/-- Words of R44 to R46: unary words and conversions. -/
theorem test_decode_compute_unary : reads .compute [
    (0x30531811, false, .cMov { d := 20, a := 99, m := .mask 1 }),
    (0xB0571028, true, .fabs { d := 21, a := 98, m := .guard 0 }),
    (0x305B083D, false, .fneg { d := 22, a := 97, m := .guard 5 }),
    (0xB05F0040, true, .fsqrt { d := 23, a := 96, m := .plain }),
    (0x3062F857, false, .frcp { d := 24, a := 95, m := .mask 7 }),
    (0xB066F061, true, .frsqrt { d := 25, a := 94, m := .mask 1 }),
    (0x306AE878, false, .fexp2 { d := 26, a := 93, m := .guard 0 }),
    (0xB06EE08D, true, .flog2 { d := 27, a := 92, m := .guard 5 }),
    (0x3072D890, false, .ftanh { d := 28, a := 91, m := .plain }),
    (0xB076D0A7, true, .cAbs { d := 29, a := 90, m := .mask 7 }),
    (0x307AC8B1, false, .cNeg { d := 30, a := 89, m := .mask 1 }),
    (0xB07EC0C8, true, .cNot { d := 31, a := 88, m := .guard 0 }),
    (0x3082B8DD, false, .cClz { d := 32, a := 87, m := .guard 5 }),
    (0xB086B0E0, true, .cPopc { d := 33, a := 86, m := .plain }),
    (0x320E0000, false, .cvt { d := 3, a := 64, m := .plain } .f32 .rne),
    (0x32120890, false, .cvt { d := 4, a := 65, m := .plain } .bf16 .rtz),
    (0x32161120, false, .cvt { d := 5, a := 66, m := .plain } .fp16 .rup),
    (0x321A19B0, false, .cvt { d := 6, a := 67, m := .plain } .e4m3 .rdn),
    (0x321E2240, false, .cvt { d := 7, a := 68, m := .plain } .e5m2 .rod),
    (0x32222AD0, false, .cvt { d := 8, a := 69, m := .plain } .fp4 .dyn),
    (0x32263300, false, .cvt { d := 9, a := 70, m := .plain } .i32 .rne),
    (0x322A3B90, false, .cvt { d := 10, a := 71, m := .plain } .i8 .rtz),
    (0x322E4420, false, .cvt { d := 11, a := 72, m := .plain } .i4 .rup),
    (0x32324CB0, false, .cvt { d := 12, a := 73, m := .plain } .n8 .rdn),
    (0x32365540, false, .cvt { d := 13, a := 74, m := .plain } .n4 .rod),
    (0x323A5DD0, false, .cvt { d := 14, a := 75, m := .plain } .e8m0 .dyn),
    (0x340410F0, false, .cvta { d := 1, a := 2, m := .plain } .bf16 3 true),
    (0x340411A9, false, .cvta { d := 1, a := 2, m := .guard 1 } .e4m3 1 false)] = true := by decide

/-- Words of R42 and R45: axis, port and control words. -/
theorem test_decode_compute_control : reads .compute [
    (0x361433F0, false, .rot { d := 5, a := 6, m := .plain } .row 63),
    (0x361434F0, false, .rot { d := 5, a := 6, m := .plain } .col 15),
    (0x38143213, false, .bcast { d := 5, a := 6, m := .mask 3 } .row 33),
    (0x38143490, false, .bcast { d := 5, a := 6, m := .plain } .col 9),
    (0x3A1C4000, false, .red { d := 7, a := 8, m := .plain } .row .fadd),
    (0x3A1C4480, false, .red { d := 7, a := 8, m := .plain } .col .fmax),
    (0x3A1C4100, false, .red { d := 7, a := 8, m := .plain } .row .fmin),
    (0x3A1C4580, false, .red { d := 7, a := 8, m := .plain } .col .add),
    (0x3A1C4200, false, .red { d := 7, a := 8, m := .plain } .row .max),
    (0x3A1C4680, false, .red { d := 7, a := 8, m := .plain } .col .min),
    (0x3A1C4300, false, .red { d := 7, a := 8, m := .plain } .row .and),
    (0x3A1C4780, false, .red { d := 7, a := 8, m := .plain } .col .or),
    (0x3D932800, false, .xpose { d := 100, a := 101, m := .plain }),
    (0x3E306860, false, .vbx { d := 12, a := 13, m := .plain } 6),
    (0x3E006C5A, false, .vbxl 13 5 (some 2)),
    (0x4010F000, false, .treemask 4 30 none),
    (0x43341802, false, .vld 77 3 (.mask 2)),
    (0x440A700F, false, .vst 2 78 (some 7)),
    (0x46067800, false, .pcfg 1 79 none),
    (0x4801FF60, false, .shape 7 63 .i32),
    (0x4BFFE000, false, .cloop 0x3FFC),
    (0x4D180030, false, .rtag 70 3 none),
    (0x4D180200, false, .rdrop 70 none),
    (0x4C263400, false, .rstat 9 70 none),
    (0x4E000024, false, .ctok none 0x24),
    (0x4E02D405, false, .ctok (some 90) 5),
    (0x50000000, false, .cNop),
    (0x50000200, false, .cEnd),
    (0x50972409, false, .cSema 37 100 (some 1)),
    (0x50FFFE00, false, .cSemv 63 127 none),
    (0x7EB00000, false, .fcsR 44 none),
    (0x7E016C0C, false, .fcsW 45 (some 4))] = true := by decide

/-- Words of R42 and R45: the matrix words. -/
theorem test_decode_compute_matrix : reads .compute [
    (0x53A8D811, false, .tld 6 81 2 3 0x11),
    (0x5269340A, false, .tst 1 82 1 2 0x0A),
    (0x55500003, false, .tzero 5 1 3),
    (0x552D3007, false, .tscale 4 2 83 7),
    (0x56BBFFC1, false, .tsave 2 3 .bf16 0x7FF 1),
    (0x57C40142, false, .tload 7 0 .fp16 5 2),
    (0x58400502, false, .draw 1 0 none 20 2),
    (0x58DA6544, false, .draw 3 1 (some 41) 21 4),
    (0x5A1D0000, false, .mmaFp4 { tile := 0, ra := 3, rb := 5, st := 0, kc := 0, zs := false, ta := false, tb := false, ns := false, t := 0 }),
    (0x5C6656C7, false, .mmaI4 { tile := 1, ra := 4, rb := 6, st := 1, kc := 5, zs := true, ta := false, tb := true, ns := true, t := 7 }),
    (0x5EAFA90E, false, .mmaN4 { tile := 2, ra := 5, rb := 7, st := 2, kc := 10, zs := false, ta := true, tb := false, ns := false, t := 14 }),
    (0x60F0FFD5, false, .mmaE4m3 { tile := 3, ra := 6, rb := 0, st := 3, kc := 15, zs := true, ta := true, tb := true, ns := true, t := 21 }),
    (0x6339101C, false, .mmaE5m2 { tile := 4, ra := 7, rb := 1, st := 0, kc := 4, zs := false, ta := false, tb := false, ns := false, t := 28 }),
    (0x654266E3, false, .mmaI8 { tile := 5, ra := 0, rb := 2, st := 1, kc := 9, zs := true, ta := false, tb := true, ns := true, t := 35 }),
    (0x678BB92A, false, .mmaN8 { tile := 6, ra := 1, rb := 3, st := 2, kc := 14, zs := false, ta := true, tb := false, ns := false, t := 42 }),
    (0x69D4CFB1, false, .mmaBf16 { tile := 7, ra := 2, rb := 4, st := 3, kc := 3, zs := true, ta := true, tb := true, ns := false, t := 49 }),
    (0x6A1D2038, false, .mmaFp16 { tile := 0, ra := 3, rb := 5, st := 0, kc := 8, zs := false, ta := false, tb := false, ns := false, t := 56 }),
    (0x6C1D04C0, false, .mmazFp4 { tile := 0, ra := 3, rb := 5, st := 0, kc := 1, zs := false, ta := false, tb := true, ns := true, t := 0 }),
    (0x6E665A07, false, .mmazI4 { tile := 1, ra := 4, rb := 6, st := 1, kc := 6, zs := true, ta := false, tb := false, ns := false, t := 7 }),
    (0x70AFADCE, false, .mmazN4 { tile := 2, ra := 5, rb := 7, st := 2, kc := 11, zs := false, ta := true, tb := true, ns := true, t := 14 }),
    (0x72F0C315, false, .mmazE4m3 { tile := 3, ra := 6, rb := 0, st := 3, kc := 0, zs := true, ta := true, tb := false, ns := false, t := 21 }),
    (0x753914DC, false, .mmazE5m2 { tile := 4, ra := 7, rb := 1, st := 0, kc := 5, zs := false, ta := false, tb := true, ns := true, t := 28 }),
    (0x77426A23, false, .mmazI8 { tile := 5, ra := 0, rb := 2, st := 1, kc := 10, zs := true, ta := false, tb := false, ns := false, t := 35 }),
    (0x798BBDEA, false, .mmazN8 { tile := 6, ra := 1, rb := 3, st := 2, kc := 15, zs := false, ta := true, tb := true, ns := true, t := 42 }),
    (0x7BD4D331, false, .mmazBf16 { tile := 7, ra := 2, rb := 4, st := 3, kc := 4, zs := true, ta := true, tb := false, ns := false, t := 49 }),
    (0x7C1D24B8, false, .mmazFp16 { tile := 0, ra := 3, rb := 5, st := 0, kc := 9, zs := false, ta := false, tb := true, ns := false, t := 56 })] = true := by decide

/-- Words that are no instruction (R48): unassigned codes, fields that must be zero, values outside their limits. -/
theorem test_decode_refuses_scalar : refuses .scalar [
    (0x00000000, .function), (0xFFFFFFFF, .zeroField), (0x0C000000, .opcode), (0xBC000000, .opcode), (0x00000016, .function),
    (0x00000041, .zeroField), (0x08010201, .zeroField), (0x28210000, .zeroField), (0x2C000040, .zeroField), (0x80000800, .zeroField),
    (0xB0000000, .zeroField), (0xC000C000, .limit), (0xC0010000, .zeroField), (0xC8001800, .limit), (0xE4002000, .zeroField)] = true := by
  decide

/-- The same for L, S and C. -/
theorem test_decode_refuses_steps :
    refuses .load [(0x00000000, .opcode), (0xFFFFFFFF, .zeroField), (0x80000000, .opcode), (0x08000240, .function),
      (0x14001000, .zeroField), (0x340C0000, .zeroField), (0x34300000, .limit), (0x3C000800, .zeroField), (0x4000F200, .limit),
      (0x48000140, .limit), (0x44001000, .zeroField), (0x6C000000, .limit)] = true
    ∧ refuses .store [(0x50000000, .opcode), (0x4C000300, .limit), (0x80043800, .limit), (0x80000040, .limit)] = true
    ∧ refuses .compute [(0x00000000, .opcode), (0xFFFFFFFF, .zeroField), (0x2D000000, .limit), (0x30000000, .function),
      (0x32000600, .limit), (0x32000060, .limit), (0x36000500, .limit), (0x40040000, .limit), (0x48000010, .limit),
      (0x4C000600, .function), (0x50000400, .limit), (0x68000040, .limit)] = true := by decide

/-! ### Well-formedness -/

/-- A copy word with its operands as given. -/
def copyWord (a : BitVec 4) (bar : Bool) : Sc := { h := 0, w := 0, a := a, hint := .dflt, bar := bar, t := 0 }

/-- An atomic with its operands as given. -/
def atomWord (op : AtomOp) (v : BitVec 4) (u : Bool) : Atom :=
  { a := 1, v := v, res := 2, op := op, ord := .relaxed, scope := .device, u := u, t := 0 }

/-- A matrix word that selects unit block scales. -/
def unitScales : Mma :=
  { tile := 0, ra := 0, rb := 1, st := 0, kc := 0, zs := false, ta := false, tb := false, ns := true, t := 0 }

/-- A term for each limit of R39 to R45 that it breaks: each is refused. -/
theorem test_ill_formed_refused : ([
    .xSema 3 0, .xSemv 3 0, .lsSema 3 0 0, .lsSemv 3 0 0, .cSema 3 0 none, .cSemv 3 0 none,
    .lCopy (copyWord 15 true), .copyPk (copyWord 2 false) 5, .copyUk (copyWord 15 true) 0, .gather (copyWord 15 false),
    .lOpen 1 15 .dflt 0, .wcopy (copyWord 15 true), .scatter (copyWord 15 false),
    .atom32 (atomWord .cas 3 false), .atom64 (atomWord .add 2 true),
    .fadd { d := 0, a := 1, b := 2, m := .mask 0 }, .cSel 0 1 2 0, .cMov { d := 0, a := 1, m := .mask 0 },
    .cvt { d := 0, a := 1, m := .mask 3 } .bf16 .rne, .cvta { d := 0, a := 1, m := .mask 3 } .i8 0 false,
    .rot { d := 0, a := 1, m := .plain } .col 16, .bcast { d := 0, a := 1, m := .plain } .col 16, .treemask 1 0 none,
    .vld 0 0 (.mask 0), .shape 0 0 .e8m0, .mmaBf16 unitScales, .mmaFp16 unitScales, .mmazBf16 unitScales,
    .mmazFp16 unitScales] : List Instr).all (fun i => !i.wf) = true := by decide

/-- Their neighbours within the limits are well formed. -/
theorem test_well_formed_accepted : ([
    .xSema 3 1, .lsSemv 3 1 0, .cSema 3 1 none, .lCopy (copyWord 14 true), .lCopy (copyWord 15 false), .copyPk (copyWord 15 false) 4,
    .gather (copyWord 14 false), .atom32 (atomWord .cas 2 false), .atom64 (atomWord .min 3 true),
    .fadd { d := 0, a := 1, b := 2, m := .mask 1 }, .cvt { d := 0, a := 1, m := .mask 3 } .i32 .rne,
    .rot { d := 0, a := 1, m := .plain } .col 15, .rot { d := 0, a := 1, m := .plain } .row 63, .treemask 4 0 none,
    .shape 15 63 .f32, .mmaI8 unitScales] : List Instr).all Instr.wf = true := by decide

/-- A turn of the agenda that is no well-formed step of the device stops under its name (log 1). -/
theorem test_malformed_turn : step { State.reset with agenda := [.event .xNop] } = .fault .malformedTurn := rfl

/-! ### States for the tests -/

/-- A task of tenant 1 whose image is one page at 0x100000, with no handler. -/
def aTask : Task :=
  { tenant := 1, cls := 2, gang := 0, member := 0, size := 1, image := 0x100000, imageSize := 0x1000, variant := 0, serial := 1
    sects := List.replicate 4 (0x400, 0x200), hidx := noHandler }

/-- The task with a handler at word offset 0x20. -/
def aHandled : Task := { aTask with hidx := 0x20 }

/-- A 2 MiB page of tenant 1: VA 0x200000 lies at device physical address 0x400000. -/
def aPage : Tlb := { tenant := 1, va := 0x200000, bits := 21, pa := 0x400000, pm := 0, host := false, wr := true }

/-- A core that runs the task, with 512 KiB of scratchpad. -/
def aCore : Core :=
  { Core.reset with
    task := some aTask, pool := { rfb := 512, spb := 1024, l1b := 1536, scratch := [], gated := [] }
    tlbs := { x := [aPage], l := [aPage], s := [aPage] } }

/-- Core 0 is `k`, an agent of it is in focus, tenant 1 translates, and its granule is its own. -/
def at_ (a : Agent) (k : Core) : State :=
  { (State.reset.setCore 0 k).modTenant 1 (fun t => { t with troot := 1 }) with
    focus := (0, a), mgmt := { State.reset.mgmt with tags := [(2, 1)] } }

/-- Context x of the core is `v`, and has the turn. -/
def atX (x : CtxId) (v : XCtx) : State := at_ (.x x) (aCore.setCtx x v)

/-- A runnable context at word 4 of its section, with s1 to s5 as given. -/
def ctx (a b : W64) (d : W64 := 0) (e : W64 := 0) (f : W64 := 0) : XCtx :=
  { ((((XCtx.reset.set 1 a).set 2 b).set 3 d).set 4 e).set 5 f with run := .runnable, pc := 0x10 }

/-- What context x of core 0 holds in a register after a word. -/
def sAfter (i : Instr) (s : State) (x : CtxId) (r : BitVec 5) : W64 :=
  match exec i s with
  | .next t => ((t.core 0).ctx x).get r
  | .fault _ => 0
  | .refused _ => 0

/-- A value of core 0 after a word. -/
def after {α : Type} (i : Instr) (s : State) (f : Core → α) (z : α) : α :=
  match exec i s with
  | .next t => f (t.core 0)
  | .fault _ => z
  | .refused _ => z

/-! ### X: single words (R303 to R310, expected values by hand from the rules) -/

theorem test_add_wraps : sAfter (.xAdd 3 1 2) (atX 0 (ctx (-1) 2)) 0 3 = 1 := by decide
theorem test_sub_order : sAfter (.xSub 3 1 2) (atX 0 (ctx 2 5)) 0 3 = -3 := by decide
theorem test_s0_stays_zero : sAfter (.xOr 0 1 2) (atX 0 (ctx 3 5)) 0 0 = 0 := by decide
theorem test_andn : sAfter (.xAndn 3 1 2) (atX 0 (ctx 0b1100 0b1010)) 0 3 = 0b0100 := by decide
theorem test_sra_sign : sAfter (.xSra 3 1 2) (atX 0 (ctx (-8) 66)) 0 3 = -2 := by decide
theorem test_slt_sltu : sAfter (.xSlt 3 1 2) (atX 0 (ctx (-1) 1)) 0 3 = 1 ∧ sAfter (.xSltu 3 1 2) (atX 0 (ctx (-1) 1)) 0 3 = 0 := by decide
theorem test_sel : sAfter (.xSel 4 1 2 3) (atX 0 (ctx 0 7 9)) 0 4 = 9 ∧ sAfter (.xSel 4 2 2 3) (atX 0 (ctx 0 7 9)) 0 4 = 7 := by decide
theorem test_clz_ctz : sAfter (.xClz 3 1) (atX 0 (ctx 1 0)) 0 3 = 63 ∧ sAfter (.xCtz 3 2) (atX 0 (ctx 1 0)) 0 3 = 64 := by decide
theorem test_mulh : sAfter (.xMulh 3 1 2) (atX 0 (ctx (-1) 2)) 0 3 = -1 ∧ sAfter (.xMulhu 3 1 2) (atX 0 (ctx (-1) 2)) 0 3 = 1 := by decide
theorem test_div_corners : sAfter (.xDiv 3 1 2) (atX 0 (ctx 7 0)) 0 3 = -1 ∧ sAfter (.xRem 3 1 2) (atX 0 (ctx (-7) 2)) 0 3 = -1
    ∧ sAfter (.xDiv 3 1 2) (atX 0 (ctx 0x8000000000000000 (-1))) 0 3 = 0x8000000000000000 := by decide
theorem test_sltiu_sign_extends : sAfter (.xSltiu 3 1 0xFFFF) (atX 0 (ctx 0x10000 0)) 0 3 = 1 := by decide
theorem test_lui : sAfter (.xLui 3 0x8000) (atX 0 (ctx 0 0)) 0 3 = 0xFFFFFFFF80000000 := by decide
theorem test_bne_back : after (.xBne 1 2 0xFFFE) (atX 0 (ctx 1 2)) (fun k => (k.ctx 0).pc) 0 = 8 := by decide
theorem test_call : after (.call 3) (atX 0 (ctx 1 2)) (fun k => ((k.ctx 0).pc, (k.ctx 0).get 31)) (0, 0) = (0x1C, 0x14) := by decide
theorem test_callr_same_register : after (.callr 1 1) (atX 0 (ctx 0x40 2)) (fun k => ((k.ctx 0).pc, (k.ctx 0).get 1)) (0, 0)
    = (0x40, 0x14) := by decide
theorem test_bxp_identity : sAfter (.bxp 3 1 0) (atX 0 (ctx 0x123456789ABCDEF0 0)) 0 3 = 0x123456789ABCDEF0 := by decide

/-- Operands of a memory word with base s1 and data or destination s2. -/
def byBase (off : BitVec 11) : XMem := { d := 2, a := 1, hint := .dflt, ord := none, off := off }

/-- Offsets scale by the access size, in two's complement; stores are little-endian (R33, R309). -/
theorem test_store_little_endian : after (.stW (byBase 0x7FF)) (atX 0 (ctx 0xFFFFFFE00024 0x1122334455667788))
    (fun k => [k.pool.scratch.read 0x20, k.pool.scratch.read 0x23, k.pool.scratch.read 0x24]) [] = [0x88, 0x55, 0] := by decide

theorem test_load_sign : after (.ldB (byBase 1)) (at_ (.x 0)
      ({ aCore with pool := { aCore.pool with scratch := [(5, 0x80)] } }.setCtx 0 (ctx 0xFFFFFFE00004 0)))
    (fun k => (k.ctx 0).get 2) 0 = 0xFFFFFFFFFFFFFF80 := by decide

theorem test_pop_bare_gives_zero : sAfter (.xPopValue 2 .first) (at_ (.x 0) ((aCore.setCtx 0 (ctx 0 9)).pushQueue .lx none)) 0 2 = 0 := by
  decide

theorem test_semv_saturates : after (.xSemv 3 1023) (at_ (.x 0) ((aCore.setSem 3 65000).setCtx 0 (ctx 0 0)))
    (fun k => (k.sem 3, k.sync.sovf)) (0, 0) = (65535, 8) := by decide

theorem test_wsys_stg_masks : after (.wsys 1 0x40) (atX 0 (ctx 0x1FF 0)) (fun k => k.regs.stg) 0 = 0xFF := by decide

/-! ### Hypotheses of the statements about X -/

theorem met_XIntegerWords : (atX 1 (ctx 5 3)).focus = (0, .x 1) ∧ (((atX 1 (ctx 5 3)).core 0).ctx 1).ready [3, 1, 2, 31] = true := by decide

theorem met_XMultiplyDivide : let u (a b : W64) := ((atX 0 (ctx a b)).core 0).ctx 0
    (u 5 0).ready [3, 1, 2] = true ∧ (u 5 0).get 2 = 0 ∧ (u (-7) 2).get 2 ≠ 0
      ∧ ((u 0x8000000000000000 (-1)).get 1).toInt = -2 ^ 63 ∧ (u 0x8000000000000000 (-1)).get 2 = -1 := by decide

theorem met_XControlFlow : (((atX 0 (ctx 4 4)).core 0).ctx 0).ready [9, 1, 2, 31] = true := by decide

/-- The last doubleword of the scratchpad (R309). -/
theorem met_XLocalLoads : let s := atX 0 (ctx 0xFFFFFFE7FFF8 0)
    let k := s.core 0
    let u := k.ctx 0
    s.focus = (0, .x 0) ∧ u.ready [2, 1] = true ∧ u.acquiring = false ∧ u.loads.length < 8 ∧ u.op = none
      ∧ ∀ n ∈ [8, 4, 2, 1], (xmEa (byBase 0) u n).toNat % n = 0 ∧ inLocalWindow (xmEa (byBase 0) u n).toNat = true
        ∧ k.inScratch 0x7FFF8 n = true ∧ k.gate false 0x7FFF8 n = .free := by decide

theorem met_XLocalStores : let s := atX 0 (ctx 0xFFFFFFE00000 0)
    let k := s.core 0
    let u := k.ctx 0
    u.ready [2, 1] = true ∧ u.acquiring = false ∧ u.stores.length < 16 ∧ u.quiet = true ∧ u.hostStore = none
      ∧ ∀ n ∈ [8, 4, 2, 1], (xmEa (byBase 0) u n).toNat % n = 0 ∧ inLocalWindow (xmEa (byBase 0) u n).toNat = true
        ∧ k.inScratch 0 n = true ∧ k.gate true 0 n = .free := by decide

/-- A context at the last doubleword of the page. -/
def farCtx : XCtx := ctx 0x3FFFF8 7

theorem met_XLoadsLeave : let s := atX 0 farCtx
    let u := (s.core 0).ctx 0
    (∀ n ∈ [8, 4, 2, 1], s.xPlace (xmEa (byBase 0) u n) n false = (s, .mem 0x5FFFF8 0 false))
      ∧ u.ready [2, 1] = true ∧ u.acquiring = false ∧ u.loads.length < 8 ∧ u.op = none ∧ u.sectorBusy 0x5FFFF8 0 = false
      ∧ s.here.l1Hit s.ftenant 0x5FFFF8 = none ∧ (∀ n ∈ [8, 4, 2, 1], (s.core 0).l1Coming 0x5FFFF8 0 n = false)
      ∧ 0 < (s.core 0).l1Sets := by
  refine ⟨fun n hn => ?_, by decide +kernel⟩
  simp only [List.mem_cons, List.not_mem_nil, or_false] at hn
  rcases hn with rfl | rfl | rfl | rfl <;> rfl

/-- A page of the host at VA 0x400000, the link up, and an answer of the host that waits for its word. -/
def hostPage : Tlb := { tenant := 1, va := 0x400000, bits := 21, pa := 2 ^ 39 + 0x400000, pm := 0, host := true, wr := true }

def atHost (v : XCtx) : State :=
  let s := at_ (.x 0) { aCore.setCtx 0 v with tlbs := { x := [hostPage], l := [], s := [] } }
  { s with host := { s.host with link := true, hseg := s.host.hseg.set 0 0x8002 } }

/-- Where an access lies is as told. -/
def placedAt (r : XPlace) (pa pm : Nat) (host : Bool) : Bool :=
  match r with
  | .mem a m h => decide (a = pa ∧ m = pm ∧ h = host)
  | _ => false

theorem met_XLoadsLeave_host : let s := atHost (ctx 0x400018 0)
    let r := s.xPlace (xmEa (byBase 0) ((s.core 0).ctx 0) 8) 8 false
    r.1.focus = s.focus ∧ placedAt r.2 (2 ^ 39 + 0x400018) 0 true = true ∧ ((s.core 0).ctx 0).op = none
      ∧ ({ ctx 1 2 with op := some (.host 3 (some (zeros 8, 0))) } : XCtx).op = some (.host 3 (some (zeros 8, 0))) := by decide +kernel

/-- The line of that doubleword in the L1. -/
def farLine : L1Line := { line := 0x5FFFF8 / 128, tenant := 1, valid := 15, hint := .dflt, bytes := List.replicate 128 0x5A, pairs := 3 }

theorem met_XLoadsLeave_hit : let s := at_ (.x 0) { (aCore.setCtx 0 farCtx) with l1 := [farLine] }
    s.xPlace (xmEa (byBase 0) ((s.core 0).ctx 0) 8) 8 false = (s, .mem 0x5FFFF8 0 false)
      ∧ (s.core 0).l1Coming 0x5FFFF8 0 8 = false ∧ s.here.l1Hit s.ftenant 0x5FFFF8 = some farLine ∧ (byBase 0).ord = none ∧ (byBase 0).hint ≠ .bypass
      ∧ ((s.core 0).ctx 0).ready [2, 1] = true ∧ ((s.core 0).ctx 0).loads = [] := ⟨rfl, by decide +kernel⟩

theorem met_XStoresLeave : let s := atX 0 farCtx
    s.xPlace (xmEa (byBase 0) ((s.core 0).ctx 0) 4) 4 true = (s, .mem 0x5FFFF8 0 false)
      ∧ ((s.core 0).ctx 0).ready [2, 1] = true ∧ ((s.core 0).ctx 0).acquiring = false ∧ ((s.core 0).ctx 0).stores.length < 16
      ∧ (byBase 0).ord = none ∧ ((s.core 0).ctx 0).sectorBusy 0x5FFFF8 0 = false := ⟨rfl, by decide +kernel⟩

/-- A misaligned address, and the first one past the scratchpad. -/
theorem met_XMemoryTraps : let u := ((atX 0 (ctx 0x200002 0)).core 0).ctx 0
    let v := ((atX 0 (ctx 0xFFFFFFE80000 0)).core 0).ctx 0
    u.ready [2, 1] = true ∧ u.stores.length < 16 ∧ u.op = none ∧ (xmEa (byBase 0) u 4).toNat % 4 ≠ 0
      ∧ (xmEa (byBase 0) v 8).toNat % 8 = 0 ∧ inLocalWindow (xmEa (byBase 0) v 8).toNat = true
      ∧ aCore.inScratch ((xmEa (byBase 0) v 8).toNat - 0xFFFFFFE00000) 8 = false := by decide

theorem met_XFence : (((atX 2 (ctx 0 0)).core 0).ctx 2).quiet = true ∧ (((atX 2 (ctx 0 0)).core 0).ctx 2).hostStore = none := by decide

/-- A push into a queue with one place left, a pop of the last token, a `sema` that takes all there is, a `semv` to the limit. -/
theorem met_XQueueWords : let k := (((aCore.setQueue .xl (List.replicate 15 none)).pushQueue .lx (some 3)).setSem 1 1023).setCtx 0 (ctx 1 2)
    let u := k.ctx 0
    u.quiet = true ∧ k.queueFull (pushQ (.x 0) .first) = false ∧ u.ready [1] = true ∧ u.ready [2] = true
      ∧ k.queue (popQ (.x 0) .first) = [some 3] ∧ k.firstWaiter (.x 0) (WaitFor.onQueue (popQ (.x 0) .first)) = true
      ∧ k.firstWaiter (.x 0) (WaitFor.onSem 1) = true ∧ (1023 : BitVec 10).toNat ≤ (k.sem 1).toNat := by decide

theorem met_XBarrierWords : let s := atX 0 (ctx 0x200040 0)
    let u := (s.core 0).ctx 0
    s.xlate 0 (.x 0) (.word 0 (.x 0)) 0x200040 true = (s, .ok 0x400040 0 false) ∧ u.ready [1, 2] = true ∧ u.quiet = true ∧ u.op = none
      ∧ (u.get 1).toNat = 0x200040 ∧ XFault.at_ u.fault 0x200040 = none ∧ s.ownerTag (granOf 0x400040) = s.ftenant.val
      ∧ (s.core 0).sync.entries.length < 8 := ⟨Prod.ext rfl (by decide), by decide +kernel⟩

/-- `msend` to itself in a gang of one, from the last 64 bytes of the scratchpad. -/
theorem met_XMessageWords : let s := atX 1 (ctx 0x7FFC0 0x80)
    let k := s.core 0
    let u := k.ctx 1
    u.ready [3, 1, 2] = true ∧ u.quiet = true ∧ u.op = none ∧ k.task = some aTask ∧ (u.get 3).toNat < aTask.size
      ∧ (u.get 1).toNat % 64 = 0 ∧ (u.get 2).toNat % 4 = 0 ∧ k.inScratch (u.get 1).toNat 64 = true
      ∧ k.gate false (u.get 1).toNat 64 = .free ∧ s.memberCore 0 (u.get 3).toNat = some 0 ∧ u.loads = [] := by decide +kernel

/-- From the scratchpad, and with the bytes of memory at hand. -/
theorem met_XBlockWords : let s := atX 0 (ctx 0xFFFFFFE7FFC0 0)
    let k := s.core 0
    let u := k.ctx 0
    let v := { ctx 0x200040 0 with op := some (.block 0x200040 4 none (some (zeros 64, 0))) }
    u.ready [1] = true ∧ u.quiet = true ∧ (u.get 1).toNat % 64 = 0 ∧ u.op = none ∧ inLocalWindow (u.get 1).toNat = true
      ∧ k.inScratch 0x7FFC0 64 = true ∧ k.gate false 0x7FFC0 64 = .free ∧ s.launchFull s.ftenant 3 = false
      ∧ v.ready [1] = true ∧ v.quiet = true ∧ (v.get 1).toNat % 64 = 0 ∧ v.op = some (.block 0x200040 4 none (some (zeros 64, 0))) := by decide +kernel

theorem met_XReadsSystemRegisters : (((atX 3 (ctx 0 0)).core 0).ctx 3).ready [5] = true ∧ SysReg.ofNum 0x86 = none
    ∧ SysReg.ofNum 0xFFFF = none := by decide

theorem met_XWritesSystemRegisters : (((atX 3 (ctx 0 0)).core 0).ctx 3).ready [1] = true ∧ SysReg.ofNum 0x05 = none := by decide

theorem met_XEndWords : let u := ((atX 0 (ctx 1 2)).core 0).ctx 0
    u.ready [1, 2, 3, 4, 5, 6] = true ∧ u.quiet = true ∧ u.op = none ∧ u.loads = [] ∧ aCore.trap.hmode = false := by decide +kernel
/-! ### L, S and C: single words -/

/-- L or S at word 2 with a1, a2 and a3 as given and lc0 at 2. -/
def seq (a b c : W64) : LSeq :=
  { (((LSeq.reset.set 1 a).set 2 b).set 3 c).setLoop 0 2 with ended := false, pc := 8 }

/-- Core 0 with that sequencer in focus. -/
def atLs (isS : Bool) (k : Core) (q : LSeq) : State := at_ (lsAgent isS) (k.setLs isS q)

theorem test_ls_addi : after (.lsAddi 2 1 0xFFF 0) (atLs false aCore (seq 0 5 0)) (fun k => k.seqs.l.get 2) 0 = -1 := by decide
theorem test_lih : after (.lih 1 0x8001 0) (atLs true aCore (seq 0xABCD 0 0)) (fun k => k.seqs.s.get 1) 0 = 0xABCD8001 := by decide
theorem test_lnext : after (.lnext 0 0xFFF 0) (atLs false aCore (seq 0 0 0)) (fun k => (k.seqs.l.pc, k.seqs.l.loop 0)) (0, 0) = (4, 1) := by
  decide
theorem test_bz_falls : after (.bz 1 4 0) (atLs true aCore (seq 9 0 0)) (fun k => k.seqs.s.pc) 0 = 12 := by decide
theorem test_qpop_value : after (.qpopValue 1 .first 0) (atLs true (aCore.pushQueue .xs (some 0x80000000)) (seq 9 0 0))
    (fun k => (k.seqs.s.get 1, k.queue .xs)) (0, []) = (0x80000000, []) := by decide
theorem test_token_pushes : after (.lsNop 5) (atLs false aCore (seq 0 0 0)) (fun k => (k.queue .lx, k.queue .lc, k.queue .ls)) ([], [], [])
    = ([none], [], [none]) := by decide
theorem test_hset_word : after (.hset 3 1 2 0) (atLs false aCore (seq 0x1122 0 0)) (fun k => k.handle 3) 0 = 0x1122 <<< 128 := by decide

/-- A handle of KIND 0: four sectors at VA 0x200000. -/
def aHandle : W256 := 0x0001000100010004000000000000000000000000000000000000000000200000

theorem test_copy_total : after (.lCopy { h := 1, w := 3, a := 1, hint := .dflt, bar := false, t := 0 })
    (atLs false (aCore.setHandle 1 aHandle) (seq 0x40 0 0)) (fun k => ((k.wm 3).total, (k.wm 3).fbase, k.seqs.l.serial)) (0, 0, 0) = (4, 2, 1) := by
  decide

theorem test_fp_add : fpAdd .rne 0x3F800000 0x40000000 = (0x40400000, 0) ∧ fpAdd .rdn 0x3F800000 0xBF800000 = (0x80000000, 0) := by
  decide +kernel
theorem test_fp_fma_once : (fpFma .rne false true 0x3F800001 0x3F800001 0x3F800002).1 = 0x28800000 := by decide
theorem test_fp_div_zero : (fpDiv .rne 0x3F800000 0x80000000).1 = 0xFF800000 := by decide
theorem test_int_wrap : ((vecInt (fun _ a b => a + b)) { a := [0x7F010203], b := [0x01FF0505], d := [0], rows := 1, cols := 1, fmt := .i8, rm := .rne
                                                         sel := fun _ => true }).1 = [0x80000708] := by decide
theorem test_tree_rows : ((treeMasks (0xFFFFFFFF :: 0 :: 1 :: List.replicate 61 0x40))[0]?).map (fun m => m.extractLsb' 128 3) = some 7 := by decide +kernel

/-! ### Hypotheses of the statements about L and S -/

/-- A token in each queue into S. -/
def tokened : Core := ((aCore.pushQueue .xs none).pushQueue .ls none).pushQueue .cs (some 1)

theorem met_LsAddressWords : LsReady 0 true (atLs true tokened (seq 1 2 3)) 0x3F ∧ LsReady 0 false (atLs false aCore (seq 1 2 3)) 0 := by
  unfold LsReady
  decide +kernel

theorem met_LsLoopWords : LsReady 0 false (atLs false aCore (seq 0 1 0)) 7 := by
  unfold LsReady
  decide +kernel

/-- An atomic by `cas` with an even value register (the operands of `met_SAtomicWords`). -/
theorem met_LsQueueWords_atomics : let q := seq 0x200000 0x7FFF0 1
    let o : Atom := { a := 1, v := 4, res := 2, op := .cas, ord := .relaxed, scope := .device, u := false, t := 0x3F }
    LsReady 0 true (atLs true tokened q) 0x3F ∧ o.t = 0x3F ∧ (o.op = .cas → o.v.toNat % 2 = 0)
      ∧ (o.u = true → o.op = .min ∨ o.op = .max) ∧ (q.get 2).toNat % 16 = 0
      ∧ aCore.inScratch (q.get 2).toNat 16 = true ∧ (tokened.gate true (q.get 2).toNat 16) = .free ∧ tokened.sAcquiring = false := by
  unfold LsReady
  decide +kernel

/-- The token popped by name is behind the one that the token field pops. -/
theorem met_LsQueueWords : let k := (tokened.setSem 5 0x3FFF).pushQueue .xs (some 7)
    LsReady 0 true (atLs true k (seq 1 2 3)) 0x3F ∧ (k.popAll (tokPops .s 0x3F)).queue (popQ .s .first) = [some 7]
      ∧ k.firstWaiter .s (WaitFor.onSem 5) = true ∧ (0x3FFF : BitVec 14).toNat ≤ (k.sem 5).toNat := by
  unfold LsReady
  decide +kernel

/-- COUNT at its target; COUNT one short on an abandoned register; a register that nothing is bound to. -/
theorem met_LsWatermarkWords : let k := aCore.modWm 2 (fun m => { m with count := 6, st := 3 })
    LsReady 0 false (atLs false k (seq 6 7 0)) 0 ∧ ((k.wm 2).count - (seq 6 7 0 |>.get 1).setWidth 32).toNat < 2 ^ 31
      ∧ 2 ^ 31 ≤ ((k.wm 2).count - (seq 6 7 0 |>.get 2).setWidth 32).toNat ∧ (k.wm 2).st = 3 ∧ k.window 2 = none ∧ k.bound 2 = []
      ∧ (seq 6 7 0).pend = [] ∧ (k.popAll (tokPops (lsAgent false) 0)).room (tokPushes (lsAgent false) 0 none) = true := by
  unfold LsReady
  decide +kernel

/-- A window that can be granted on a register with no live copy. -/
theorem met_LsWatermarkWords_open : let q := seq 0x7FFE0 0x3F00000020 0
    LsReady 0 false (atLs false aCore q) 0 ∧ aCore.checkOpen 1 (q.get 1) (q.get (1 + 1)) = none ∧ aCore.bound 1 = []
      ∧ aCore.canShare ((q.get (1 + 1)).toNat / 2 ^ 32 % 256 + 1) = true := by
  unfold LsReady
  decide +kernel

/-- The last sector of the scratchpad, with the largest share that leaves room for another window. -/
theorem met_LWindowWords : let q := seq 0x7FFE0 0x3F00000020 0
    LsReady 0 false (atLs false aCore q) 0 ∧ aCore.checkOpen 1 (q.get 1) (q.get 2) = none ∧ aCore.bound 1 = [] ∧ aCore.canShare 64 = true := by
  unfold LsReady
  decide +kernel

theorem met_LsCopyWords : let k := aCore.setHandle 1 aHandle
    let o : Sc := { h := 1, w := 3, a := 1, hint := .dflt, bar := false, t := 0 }
    let cw (op : CopyOp) : CopyWord := { op := op, h := aHandle, opnd := 0x7FF80, aux := 0, il := 0 }
    copyForm (.lCopy o) k (seq 0x7FF80 0 0) = some (.copy, aHandle, 0x7FF80, 0, 3, .dflt, false, 0, .add, .f32, 0)
      ∧ copyForm (.wcopy o) k (seq 0x7FF80 0 0) = some (.wcopy, aHandle, 0x7FF80, 0, 3, .dflt, false, 0, .add, .f32, 0)
      ∧ LsReady 0 false (atLs false k (seq 0x7FF80 0 0)) 0 ∧ LsReady 0 true (atLs true k (seq 0x7FF80 0 0)) 0
      ∧ (seq 0x7FF80 0 0).reading = none ∧ (seq 0x7FF80 0 0).handle = none ∧ (hdLp (k.handle 1) ≠ 0 → hdDim0 (k.handle 1) ≤ hdPitch (k.handle 1))
      ∧ (cw .copy).check k = none ∧ (cw .wcopy).check k = none ∧ k.sAcquiring = false
      ∧ (k.bound 3).length < 4 ∧ k.window 3 = none
      ∧ hdKind (k.handle 1) = 0 ∧ hdDim0 (k.handle 1) ≠ 0 ∧ hdDim1 (k.handle 1) ≠ 0 ∧ hdDim2 (k.handle 1) ≠ 0 ∧ hdDim3 (k.handle 1) ≠ 0 := by
  refine ⟨rfl, rfl, ?_⟩
  unfold LsReady
  decide +kernel

/-- The last 16 bytes of the scratchpad as result block, and values at the edges of 32 bits. -/
theorem met_SAtomicWords : let q := seq 0x200000 0x7FFF0 1
    let o : Atom := { a := 1, v := 4, res := 2, op := .cas, ord := .relaxed, scope := .device, u := false, t := 0 }
    LsReady 0 true (atLs true aCore q) 0 ∧ o.v.toNat % 2 = 0 ∧ o.u = false ∧ (q.get 2).toNat % 16 = 0
      ∧ aCore.inScratch (q.get 2).toNat 16 = true ∧ aCore.gate true (q.get 2).toNat 16 = .free ∧ aCore.sAcquiring = false
      ∧ 2 ^ 32 - 1 < 2 ^ (32 : Nat) := by
  unfold LsReady
  decide +kernel

/-! ### Hypotheses of the statements about C -/

/-- A plain register with a frame and a value in lane (0, 0). -/
def aReg (f : Nat) (v : W32) : PReg := { st := .plain, frame := some f, lanes := v :: List.replicate 1023 0, bind := none }

/-- A configured read port at offset 0 of the scratchpad, and the same for writes. -/
def aPort (dir : Bool) : Port :=
  { cfg := if dir then 0x00000000000000000000000000000000000001000001000100010001C0000000
      else 0x0000000000000000000000000000000000000100000100010001000180000000
    idx := 0, last := none }

/-- A core with the shape of one lane, STG 1, values in v1, v2 and v3, and a read and a write port. -/
def cCore : Core :=
  { aCore with
    regs := { aCore.regs with
      shp := 0, stg := 1
      pregs := ((aCore.regs.pregs.set 1 (aReg 0 0xFFFFFFFF)).set 2 (aReg 1 0x3F800000)).set 3 { aReg 2 0x40000000 with st := .tagged } }
    tables := { aCore.tables with ports := (aCore.tables.ports.set 0 (aPort false)).set 3 (aPort true) } }

theorem met_CReady : CReady 0 (at_ .c cCore) := by
  unfold CReady
  decide +kernel

/-- `fadd v3, v2, v2` and `mov v2, v3`, each of which reads what the other writes. -/
def anAdd : VecWord :=
  { i := .fadd { d := 3, a := 2, b := 2, m := .plain }, d := 3, a := 2, b := 2, useB := true, addend := false, m := .plain
    f := vecFp (fun rm a b _ => fpAdd rm a b) }

def aMove : VecWord :=
  { i := .cMov { d := 2, a := 3, m := .plain }, d := 2, a := 3, b := 3, useB := false, addend := false, m := .plain, f := vecBits (fun _ a _ => a) }

/-- A clear guard and a set one, enabled and disabled flags, the first and the last register; a bundle whose words read each other's
destinations. -/
theorem met_CVectorWords :
    (cVecForm anAdd.i cCore = some anAdd.form ∧ cVecForm aMove.i cCore = some aMove.form)
      ∧ cCore.guardOff (modGuard (.guard 1)) = true ∧ cCore.guardOff (modGuard (.guard 0)) = false
      ∧ cCore.readable (cCore.phys 2) ∧ cCore.readable (cCore.phys 3) ∧ cCore.writable (cCore.phys 3) ∧ cCore.writable (cCore.phys 127)
      ∧ fcsEn 0 &&& flagNX = 0 ∧ fcsEn 0x1000 &&& flagNX ≠ 0
      ∧ ([anAdd, aMove].map (fun w => cCore.phys w.d)).Nodup
      ∧ (∀ n ∈ [2, 3], (cCore.regs.preg n).frame.isSome = true ∧ n < cCore.regs.pregs.length) ∧ fcsEn cCore.regs.fcs &&& 0x3F = 0 := by
  refine ⟨⟨rfl, rfl⟩, ?_⟩
  unfold Core.readable Core.writable
  decide +kernel

theorem met_CConvertWithMagnitude : cCore.guardOff (modGuard .plain) = false ∧ cCore.readable (cCore.phys 2)
    ∧ cCore.fullWrite .plain = false ∧ cCore.writable (cCore.phys 127) ∧ fcsEn cCore.regs.fcs &&& 0x3F = 0 := by
  unfold Core.readable Core.writable
  decide +kernel

/-- The last lane of the largest shape, the last element of each width, an exact tie and a remainder, values at and beyond the largest, and
NaNs, zeros and negative values. -/
theorem met_CLanesAreIndependent : let v : VIn :=
      { a := zeroLanes, b := zeroLanes, d := zeroLanes, rows := 16, cols := 64, fmt := .f32, rm := .rne, sel := fun _ => true }
    v.a.length = 1024 ∧ v.rows ≤ 16 ∧ v.cols ≤ 64 ∧ 1023 / 64 < v.rows ∧ 1023 % 64 < v.cols ∧ v.sel 1023 = true
      ∧ (∀ f ∈ [(Fmt.bf16, 1), (.e4m3, 3), (.n4, 7)], fmtBits f.1 < 32 ∧ f.2 < 32 / fmtBits f.1)
      ∧ 2 ≤ [1, 2, (3 : W32)].length ∧ (12 % 2 ^ 3 ≠ 0 ∧ 2 * (12 % 2 ^ 3) = 2 ^ 3) ∧ 16 % 2 ^ 3 = 0
      ∧ val32 0x7F7FFFFF = .fin false 0xFFFFFF 104 ∧ val32 0x80000000 = .fin true 0 (-149) ∧ (128 : Int) ≤ 105 + Nat.log2 0x800000
      ∧ (val32 0x7F800001).isNan = true ∧ (val32 0x7F800001).signalling = true ∧ (val32 0xFF800000).isNan = false
      ∧ (0xFF800000 : W32).getLsbD 31 = true := by decide +kernel

/-- Roundings of R184 and R185, and the special cases of R187 and R189, at values worked out by hand. -/
theorem test_rounding : roundShift .rne false 12 3 = (2, true) ∧ roundShift .rup true 12 3 = (1, true) ∧ roundShift .rod false 17 3 = (3, true)
    ∧ round32 .rne true 0xFFFFFF 105 = (0xFF800000, flagOF ||| flagNX) ∧ fpFma .rne false false 0x7F800000 0 0x7FC00001 = (0x7FC00001, 0)
    ∧ fpRsqrt .rne 0x80000000 = (0xFF800000, flagDZ ||| flagNRT) ∧ fpExp2 .rne 0xC3150000 = (1, 0) := by decide +kernel

theorem met_CIntegerElements : cCore.guardOff (modGuard (.guard 0)) = false ∧ cCore.readable (cCore.phys 2) ∧ cCore.fullWrite .plain = false
    ∧ cCore.readable (cCore.phys 3) ∧ cCore.writable (cCore.phys 3) ∧ 0 < 32 / elemWidth .i32 ∧ 0 < 32 / elemWidth .f32 ∧ 3 < 32 / elemWidth .n8 ∧ 7 < 32 / elemWidth .n4
    ∧ zeroLanes.length = 1024 := by
  unfold Core.readable Core.writable
  decide +kernel

theorem met_CMaskWords : cCore.guardOff (some 0) = false ∧ cCore.readable (cCore.phys 1) ∧ cCore.readable (cCore.phys 2)
    ∧ (cCore.vread 1).length = 1024 ∧ fcsEn cCore.regs.fcs &&& 0x3F = 0 := by
  unfold Core.readable
  decide +kernel

theorem met_DraftTreeRows : cCore.guardOff (some 1) = true ∧ cCore.guardOff (some 0) = false ∧ cCore.readable (cCore.phys 2)
    ∧ (cCore.vread (cCore.phys 2)).length = 1024 := by
  unfold Core.readable
  decide +kernel

/-- CNT not zero, the last passes of the epilogue, and a loop that is over. -/
theorem met_CControlWords : CReady 0 (at_ .c { cCore with regs := { cCore.regs with cnt := 1, epi := 2 } })
    ∧ (cCore.regs.cnt = 0 ∧ cCore.regs.epi = 0) ∧ 1 < ((2 : BitVec 8)).toNat ∧ cCore.guardOff none = false
    ∧ cCore.readable (cCore.phys 2) ∧ cCore.writable (cCore.phys 9) := by
  unfold CReady Core.readable Core.writable
  decide +kernel

/-- A value token into a queue with one place left; a `sema` of the whole count. -/
theorem met_CTokenWords : let k := ((cCore.setQueue .cx (List.replicate 15 none)).pushQueue .xc none).setSem 0 127
    (∀ a, (some 2 : Option (BitVec 7)) = some a → k.readable (k.phys a)) ∧ k.canPop (tokPops .c 0x24) = true
      ∧ (k.popAll (tokPops .c 0x24)).room (tokPushes .c 0x24 (some 1)) = true ∧ k.guardOff none = false
      ∧ k.firstWaiter .c (WaitFor.onSem 0) = true ∧ (127 : BitVec 7).toNat ≤ (k.sem 0).toNat := by
  unfold Core.readable
  decide +kernel

theorem met_CPortWords : let f (p : BitVec 2) := (cCore.port p).foot (shpRows cCore.regs.shp) (shpCols cCore.regs.shp)
    cCore.portCheck (cCore.port 0) (f 0) false = none ∧ cCore.portWait (f 0) false = none
      ∧ cCore.portCheck (cCore.port 3) (f 3) true = none ∧ cCore.portWait (f 3) true = none
      ∧ 4 * shpCols cCore.regs.shp ≤ (f 3).rowp ∧ portLegal (portCfgOf (zeroLanes)) = true := by decide +kernel

/-- A recipe that binds nothing is refused, one of `mov v1` is not; a tagged, a plain and an empty register; a DROPPED one bound by `mov v1`, a
LOST one; a file with a free frame, with none, and with none in a powered bank. -/
theorem met_CRecipeWords :
    let b : Binding := { k := 3, shp := 0, rm := 0, pins := [] }
    let gone : PReg := { PReg.reset with st := .dropped, bind := some b }
    let lost : PReg := { PReg.reset with st := .lost }
    let k := { cCore with
      tables := { cCore.tables with recipes := cCore.tables.recipes.set 3 0x3100081000000000000000000000000000000004 }
      regs := { cCore.regs with pregs := (cCore.regs.pregs.set 4 gone).set 5 lost } }
    let none_ := { k with pool := { k.pool with rfb := 12 } }
    let dark := { k with pool := { k.pool with gated := List.range 64 } }
    k.rtagBad (k.phys 2) 3 = false ∧ k.rtagBad (k.phys 2) 4 = true
      ∧ (k.regs.preg (k.phys 3)).st = .tagged ∧ (k.regs.preg (k.phys 2)).st = .plain
      ∧ (k.regs.preg (k.phys 9)).st = .empty ∧ k.writable (k.phys 9) ∧ k.phys 127 < k.regs.pregs.length
      ∧ (k.regs.preg (k.phys 5)).st = .lost ∧ (k.regs.preg (k.phys 4)).st = .dropped ∧ (k.regs.preg (k.phys 4)).bind = some b
      ∧ (k.regs.preg (k.phys 3)).frame.isSome = true ∧ (∀ v ∈ recipeStatics (k.recipe b.k), v = 1) ∧ k.readable 1 ∧ k.readable (k.phys 3)
      ∧ k.poweredFree = some 3 ∧ none_.freeFrames = [] ∧ dark.freeFrames ≠ [] ∧ dark.poweredFree = none := by
  unfold Core.readable Core.writable
  decide +kernel

/-! ### Hypotheses of the statements about matrix words -/

/-- Two rings of eight E4M3 tiles of 64 elements a line without scales, one tile landed in each, and four weights in tile 0. -/
def mCore : Core :=
  let ring (base : W64) : Ring := { Ring.reset with cfg := (base <<< 48) ||| 0x00001CC000008001, tail := 1, itail := 1 }
  { cCore with tables := { cCore.tables with rings := (cCore.tables.rings.set 0 (ring 0)).set 7 (ring 0x400) } }

/-- Operands over rings 0 and 7 with unit scales. -/
def anMma : Mma := { tile := 0, ra := 0, rb := 7, st := 3, kc := 0, zs := true, ta := false, tb := false, ns := true, t := 0 }

/-- One candidate at position 4095, inverse temperature 1. -/
def drawParams : PReg := { st := .plain, frame := some 3, lanes := 0x0FFF0001 :: 0x3F800000 :: List.replicate 1022 0, bind := none }

/-- The core with those parameters in v4, and a mask of one sector at the start of the scratchpad in h2. -/
def dCore : Core :=
  { mCore with regs := { mCore.regs with pregs := mCore.regs.pregs.set 4 drawParams } }.setHandle 2
    0x0001000100010001000000000000000000000000000000000000000000000000

theorem met_CMatrixWordsIssue : let k := dCore
    (at_ .c k).focus = (0, .c) ∧ k.seqs.c.popped = false ∧ (∀ v ∈ k.seqs.c.ret.head?, ∃ w ∈ k.matrix.words, v = .mat w.id)
      ∧ (∀ v ∈ k.matrix.words, v.stage ≠ .done) ∧ k.fetchGate anMma = .free
      ∧ k.mmaBad anMma .e4m3 = false ∧ (k.ring 0).nextTile < (k.ring 0).tail ∧ (k.ring 7).nextTile < (k.ring 7).tail
      ∧ k.readable 2 ∧ k.awaited 2 = false ∧ k.writable 9 ∧ k.awaited 9 = false ∧ k.streamFull 3 = false ∧ k.canPop (tokPops .c 0) = true
      ∧ 511 * 1024 + 4096 * tileBytes .bf16 > k.scratchSize ∧ 504 * 1024 + 4096 * tileBytes .bf16 ≤ k.scratchSize
      ∧ k.gate true (504 * 1024) 8192 = .free ∧ k.gate false (504 * 1024) 8192 = .free
      ∧ k.drawCheck none 4 = none ∧ k.drawCheck (some 2) 4 = none ∧ hdDim0 (k.handle 2) ≠ 0
      ∧ k.gate false (drawBytes (k.handle 2) (k.vread 4)).1 (drawBytes (k.handle 2) (k.vread 4)).2 = .free := by
  unfold Core.readable Core.writable
  decide +kernel

/-- The core with one matrix word, number 5, at a stage. -/
def withWord (i : Instr) (st : MStage) : Core :=
  { dCore with matrix := { dCore.matrix with words := [{ MWord.fresh 5 i with stage := st, vec := dCore.vread 4, handle := dCore.handle 2 }] } }

theorem met_MatrixUnitSteps :
    ([.tld 0 9 3 0 0, .tst 1 2 0 1 0, .tzero 2 1 0, .tscale 3 1 2 0, .tload 4 3 .fp16 2 0, .tsave 7 0 .f32 496 0, .draw 0 1 (some 2) 4 0,
        .mmaE4m3 anMma, .mmazE4m3 anMma] : List Instr).all (fun i =>
      ((withWord i .issued).nextStart (mwordUnit i)).isSome && ((withWord i .started).runningMat 0).isSome) = true
      ∧ (withWord (.tzero 2 1 0) .issued).nextStart 1 = some { MWord.fresh 5 (.tzero 2 1 0) with vec := dCore.vread 4, handle := dCore.handle 2 }
      ∧ (dCore.tile 3).length = 4096 ∧ (dCore.vread 4).length = 1024 ∧ (mCore.ring 0).k = (mCore.ring 7).k
      ∧ mwordUnit (.tzero 2 1 0) ≠ 2 ∧ mwordUnit (.draw 0 1 none 4 0) = 2
      ∧ ({ MWord.fresh 5 (.draw 0 1 (some 1) 4 0) with handle := 0 } : MWord).maskAbsent = true
      ∧ ({ MWord.fresh 5 (.draw 0 1 none 4 0) with handle := 0 } : MWord).maskAbsent = false := by decide +kernel

/-- An accumulator takes the exact sum of a group, rounded once: 2 × 2 over 16 elements into 1.0 (R231). -/
theorem test_group_exact : groupFp .e4m3 0x3F800000 { scale := 127, elems := List.replicate 16 (.fin 1024) }
    { scale := 127, elems := List.replicate 16 (.fin 1024) } = 0x42820000 := by decide +kernel

theorem test_group_saturates : groupInt 0x7FFFFFF0 { scale := 127, elems := [.fin 8] } { scale := 127, elems := [.fin 2] } = 0x7FFFFFFF := by
  decide +kernel

/-- Bank 2 is gated and C waits for a frame. -/
theorem met_bankPowerUp : let k := { dCore.setC { dCore.seqs.c with wait := some .frame } with pool := { dCore.pool with gated := [2] } }
    k.seqs.c.wait = some .frame ∧ 2 ∈ k.pool.gated ∧ 64 * 2 < k.pool.rfb := by decide +kernel

/-! ### Hypotheses of the statements about steps of the device -/

/-- A message with a body. -/
def msg (b : Body) : Flit := { cls := .readReply, dst := coreRouter 0, src := sliceRouter 0, pri := 0, age := 0, stag := 0, soff := 0, seg := 0, body := b }

/-- The state with one message in the inbox of a router. -/
def withMsg (s : State) (r : RouterId) (b : Body) : State := s.modRouter r (fun q => { q with inbox := [msg b] })

/-- A copy of four sectors into the scratchpad on w3, two of them out. -/
def aCopy : Copy :=
  { id := 0, op := .copy, h := aHandle, opnd := 0, aux := 0, w := 3, hint := .dflt, bar := false, il := 0, acc := .add, accFmt := .f32
    copyId := 0x004C0001, start := 0, n := 4, st := .active, next := 2, rd := 0, got := [], redo := []
    out := [{ idx := 0, parts := [{ va := 0x200000, pa := 0x400000, pm := 0, data := none, failed := false, lost := false }] },
      { idx := 1, parts := [{ va := 0x200020, pa := 0x400020, pm := 0, data := none, failed := false, lost := false }] }]
    held := [], done := 0, perf := [], faults := [], groups := [], reported := 0, barPa := none, refused := [], tile0 := 0
    hold := false, pc := 8, idxStall := none, srcStall := none, hostLast := none, flush := 0, repDue := none }

/-- A core with one copy. -/
def copyCore (v : Copy) : Core := { aCore with land := { aCore.land with copies := [v], nextId := 1 } }

/-- The same copy as a refused put, and as one that has met a fault at its first sector. -/
def aPut (again count : Nat) : Copy := { aCopy with op := .put, out := [], refused := [{ idx := 0, again := again, count := count }] }

def faulted : Copy := { aCopy with out := [], faults := [{ idx := 0, va := 0x200000, code := 0x10, badPte := false, host := false, wr := false }] }

theorem met_CopyAnswers :
    (withMsg (at_ .l (copyCore aCopy)) (coreRouter 0) (.readReply 0x400020 (zeros 32) 0 (.copy 0 0 1 0))).coreMsg 0 0
        = some (msg (.readReply 0x400020 (zeros 32) 0 (.copy 0 0 1 0)))
      ∧ (copyCore aCopy).copy 0 = some aCopy ∧ 1 < aCopy.n ∧ (aCopy.out.find? (fun p => p.idx == 1)).isSome = true
      ∧ aCopy.out.find? (fun p => p.idx == 2) = none ∧ (aPut 256 4095).out.any (fun p => p.idx == 0) = false
      ∧ aCopy.out.any (fun p => p.idx == 1) = true
      ∧ (copyCore (aPut 256 4095)).copy 0 = some (aPut 256 4095) ∧ (aPut 256 4095).st = .active
      ∧ (aPut 256 4095).refused.find? (fun q => q.idx == 0) = some { idx := 0, again := 256, count := 4095 }
      ∧ (aPut 0 4096).refused.find? (fun q => q.idx == 0) = some { idx := 0, again := 0, count := 4096 }
      ∧ (copyCore faulted).canPark faulted = true := by decide +kernel

/-- A tenant's fault queue of 4 KiB at 0x700000 with room for a record. -/
def queued (s : State) : State := s.modTenant 1 (fun q => { q with fqbase := 0x700000 })

/-- A store of two sectors at system scope, one performed on the host and one that has met a fault, bound to a barrier. -/
def bound : Copy :=
  { aCopy with
    op := .wcopy, h := aHandle ||| 0x3000000000000000, bar := true, done := 1, out := [], barPa := some 0x400000, hostLast := some (2 ^ 39)
    faults := [{ idx := 1, va := 0x200020, code := 0x10, badPte := false, host := false, wr := true }] }

/-- A line fill of a prefetch, and a copy, that wait for the same multicast sector; a copy that parks with its report to make, with and
without a flushing read before it. -/
theorem met_CopyAnswers_more : let k := { copyCore aCopy with l1fills := [{ id := 7, line := 0x8000, want := 2, hint := .dflt, multi := true, va := 0x200000 }] }
    let s := queued (at_ .l (copyCore faulted))
    (s.core 0).task = some aTask
      ∧ ((k.land.copies ++ k.land.orphans).map Copy.id).Nodup ∧ (k.l1fills.map L1Fill.id).Nodup
      ∧ (∀ d ∈ k.land.copies ++ k.land.orphans, (d.out.map OutSec.idx).Nodup) ∧ aCopy.op.isS = false ∧ aCopy.st ≠ .abandoned
      ∧ (∀ o ∈ aCopy.out, o.parts.all (fun p => p.data.isSome || p.failed) = false)
      ∧ (withMsg (at_ .l k) (coreRouter 0) (.multiReply 0x400020 (zeros 32) 0)).coreMsg 0 0 = some (msg (.multiReply 0x400020 (zeros 32) 0))
      ∧ (withMsg (at_ .l k) (coreRouter 0) (.loss 0x400020 none)).coreMsg 0 0 = some (msg (.loss 0x400020 none))
      ∧ faulted.firstFault.isSome = true ∧ ¬ (faulted.bar = true ∧ faulted.reported < faulted.done)
      ∧ (s.tenant 1).waiting = [] ∧ (s.tenant 1).held = 0 ∧ (s.tenant 1).fqFree = true ∧ 32 ≤ (s.core 0).lagoonFree := by decide +kernel

theorem met_copyPark_reports : (∀ n ∈ [0, 2], (copyCore { bound with flush := n }).canPark { bound with flush := n } = true)
    ∧ bound.firstFault.isSome = true ∧ bound.bar = true ∧ bound.reported < bound.done ∧ bound.barPa = some 0x400000 ∧ bound.flush = 0
    ∧ bound.hostLast = some (2 ^ 39) ∧ bound.needsFlush = true ∧ { bound with flush := 2 }.needsFlush = false := by decide +kernel

/-- Multicast brings the second of two sectors (R92): it lands, and the line fill no longer wants it. -/
theorem test_multicast_lands : let k := { copyCore aCopy with l1fills := [{ id := 7, line := 0x8000, want := 2, hint := .dflt, multi := true, va := 0x200000 }] }
    (match exec (.sectorLanding 0 0) (withMsg (at_ .l k) (coreRouter 0) (.multiReply 0x400020 (List.replicate 32 7) 0)) with
    | .next t => ((t.core 0).copy 0).map (fun (v : Copy) => (v.out.any (fun o => o.idx == 1), v.held, (t.core 0).l1fills.length))
    | .fault _ => none
    | .refused _ => none) = some (false, [(1, List.replicate 32 7)], 0) := by decide +kernel

/-- A parked copy's record (R69, R126): STATE 2, one entry in the ring, with every sector of the copy missing. -/
theorem test_park_record :
    (match exec (.copyPark 0 0) (queued (at_ .l (copyCore faulted))) with
    | .next t => (((t.core 0).wm 3).st, (t.tenant 1).fqtail, t.mem.readLe 0x700018 8)
    | .fault _ => (0, 0, 0)
    | .refused _ => (0, 0, 0)) = (2, 1, 15) := by decide +kernel

/-- A load in flight. -/
def aLoad : XLoad :=
  { id := 3, d := 9, pa := 0x400028, pm := 0, size := 8, signed := false, acq := none, hint := .dflt, va := 0x200028, fill := none }

/-- An atomic that has been sent. -/
def anAtom : AtomFly :=
  { id := 0, va := 0x200000, off := 0x40, w := 32, req := { w := 32, op := .add, u := false, x := 1, y := 0 }, ord := .relaxed
    scope := .device, copyId := 0xC00001, before := 0, sent := true, pa := some 0x400000, pm := 0, host := false, flush := 0, flushAt := none, parked := none }

/-- Two atomics to one sector of a member through the gang window (R262): the first is sent, the second waits for it (R264). -/
theorem test_gang_window_atomics :
    let far (id : Nat) : AtomFly := { anAtom with id := id, va := 0xFFFFFC000040, sent := false, pa := none }
    let s := ((at_ .s { aCore with atoms := [far 0, far 1] }).pumpAtom 0 0).pumpAtom 0 1
    (s.core 0).atoms.map AtomFly.sent = [true, false] ∧ (s.router (coreRouter 0)).outbox.length = 1 := by decide +kernel

theorem met_WordAnswers : let s := at_ (.x 0) ({ aCore with atoms := [anAtom] }.setCtx 0 { farCtx with loads := [aLoad] })
    let b := { farCtx with op := some (.block 0x200040 4 none none) }
    ((s.core 0).ctx 0).loads.find? (fun m => m.id == 3) = some aLoad ∧ s.recordWaits 0 (.ctx 0 0) = false
      ∧ b.loads.find? (fun m => m.id == 4) = none ∧ b.op = some (.block 0x200040 4 none none)
      ∧ (s.core 0).atoms.find? (fun a => a.id == 0) = some anAtom ∧ s.recordWaits 0 (.atom 0 0) = false
      ∧ (withMsg s (coreRouter 0) (.atomReply 7 true 0x22 (.atom 0 0))).coreMsg 0 0 = some (msg (.atomReply 7 true 0x22 (.atom 0 0))) := by decide +kernel

/-- A reply for a sector of a line fill, and one that no load or atomic has to have its record posted for. -/
theorem met_WordAnswers_fill : let s := at_ (.x 0) aCore
    s.recordWaits 0 (.unit 0) = false
      ∧ (withMsg s (coreRouter 0) (.readReply 0x400020 (zeros 32) 0 (.fill 0 0 0x200020 1))).coreMsg 0 0
        = some (msg (.readReply 0x400020 (zeros 32) 0 (.fill 0 0 0x200020 1)))
      ∧ (withMsg s (coreRouter 0) (.writeAck 0 (.store 0 0 3))).coreMsg 0 0 = some (msg (.writeAck 0 (.store 0 0 3))) := by decide +kernel

/-- A line fill of a block that still wants both its sectors. -/
theorem met_WordAnswers_block : let k := { aCore with l1fills := [{ id := 4, line := 0x8000, want := 15, hint := .dflt, multi := false, va := 0x200040 }] }
    let b := { farCtx with op := some (.block 0x200040 4 (some 4) none) }
    b.loads.find? (fun m => m.id == 4) = none ∧ b.op = some (.block 0x200040 4 (some 4) none) ∧ k.l1Wants 4 0x400040 = true
      ∧ k.l1Wants 4 (0x400040 + 32) = true := by decide +kernel

/-- An acquire load of a sector that a store of the core has since made its own (R290, R291): its reply does not put older bytes into
the L1, and the register has the value. -/
theorem test_acquire_reply_after_own_store :
    let l := { aLoad with acq := some .device, fill := some 4, hint := .dflt }
    let line : L1Line := { line := 0x8000, tenant := 1, valid := 0, pairs := 0, hint := .sticky, bytes := zeros 128 }
    let k := { aCore.setCtx 0 { farCtx with loads := [l] } with
      l1 := [line], l1fills := [{ id := 4, line := 0x8000, want := 2, hint := .dflt, multi := false, va := 0x200028 }] }
    (match exec (.loadValueReturn 0 0) (withMsg (at_ (.x 0) (k.l1Store 0x400030 [1])) (coreRouter 0)
        (.readReply 0x400020 (List.replicate 32 7) 0 (.load 0 0 3))) with
    | .next t => (((t.core 0).ctx 0).get 9, (t.core 0).l1.map L1Line.valid)
    | .fault _ => (0, [])
    | .refused _ => (0, [])) = (0x0707070707070707, [0]) := by decide +kernel

/-- A window of two sectors: the next sector is taken, one that no window covers is refused. -/
theorem met_putSector : let k := aCore.openWindow 1 0x40 64 .dflt
    (match k.putSector 0x40 (zeros 32) with
      | .taken _ => true
      | .refused _ => false) = true
    ∧ (match k.putSector 0x80 (zeros 32) with
      | .taken _ => false
      | .refused covered => !covered) = true ∧ k.inGang 0 = true ∧ k.inGang 1 = false := by decide +kernel

/-- An entry whose phase is past by one, and one at the phase itself. -/
theorem met_BarrierAnswers :
    let e (p : BitVec 31) : RegEntry := { id := p.toNat, pa := 0x400000, phase := p, sem := 5 }
    let k := { aCore with sync := { aCore.sync with entries := [e 4, e 5] } }
    let s := at_ (.x 0) (k.setCtx 0 { farCtx with op := some (.barrier 0x200000 none) })
    (s.core 0).task = some aTask ∧ ((s.core 0).ctx 0).op = some (.barrier 0x200000 none) ∧ s.recordWaits 0 (.ctx 0 0) = false
      ∧ (1 : BitVec 16).getLsbD (colOf 0).val = true ∧ (1 : BitVec 16).getLsbD (colOf 1).val = false ∧ phasePast 5 4 = true ∧ phasePast 5 5 = false
      ∧ (withMsg s (coreRouter 0) (.wake 0x400000 5 1)).coreMsg 0 0 = some (msg (.wake 0x400000 5 1)) := by decide +kernel

/-- A `bwait` whose registration comes back refused, with the entry that it has taken. -/
theorem met_BarrierAnswers_refused :
    let s := at_ (.x 0) (aCore.setCtx 0 { farCtx with op := some (.barrier 0x200000 (some 4)) })
    (s.core 0).task = some aTask ∧ ((s.core 0).ctx 0).op = some (.barrier 0x200000 (some 4)) ∧ s.recordWaits 0 (.ctx 0 0) = false
      ∧ (withMsg s (coreRouter 0) (.barrierAck 0x400000 0 true false 0x12 (.barrier 0 0))).coreMsg 0 0
        = some (msg (.barrierAck 0x400000 0 true false 0x12 (.barrier 0 0))) := by decide +kernel

/-- The entry of the refused `bwait` is free again (R271). -/
theorem test_refused_bwait_gives_back_its_entry :
    let e : RegEntry := { id := 4, pa := 0x400000, phase := 3, sem := 5 }
    let k := { aCore.setCtx 0 { farCtx with op := some (.barrier 0x200000 (some 4)) } with sync := { aCore.sync with entries := [e, { e with id := 5 }] } }
    (match exec (.barrierAcknowledgement 0 0) (withMsg (at_ (.x 0) k) (coreRouter 0) (.barrierAck 0x400000 0 true false 0x12 (.barrier 0 0))) with
    | .next t => (t.core 0).sync.entries.map RegEntry.id
    | .fault _ => []
    | .refused _ => []) = [5] := by decide +kernel

/-- A mailbox with one free slot and a full one; a message that waits to be sent again; a message for a dormant context. -/
theorem met_MailboxSteps :
    let m : Mail := { dw := List.replicate 8 1, src := 2, hnd := 0x40 }
    let k (n : Nat) := { aCore with sync := { aCore.sync with mail := List.replicate n m } }
    let u := { farCtx with op := some (.mail 7 m (some 256)) }
    Core.reset.inGang 0 = false ∧ (k 3).inGang 1 = false ∧ (k 3).inGang 0 = true ∧ (k 4).inGang 0 = true ∧ (k 1).task.isSome = true ∧ (k 3).sync.mail.length < 4 ∧ 4 ≤ (k 4).sync.mail.length
      ∧ u.op = some (.mail 7 m (some 256)) ∧ { farCtx with op := some (.mail 7 m none) }.op = some (.mail 7 m none)
      ∧ (k 1).sync.mail = m :: [] ∧ (k 1).dormantCtx = some 1 ∧ (k 1).trap.stop = false ∧ (k 1).trap.halt = none := by decide +kernel

/-- A gang of one on core 0. -/
def aGang : Gang :=
  { id := 0, kernel := 0, tenant := 1, cls := 2, index := 0, size := 1, island := 0, cores := [0], left := [0], variant := 0, since := 0
    cause := 0, st := .running }

/-- The task with a handler and without one, drained and not, in the handler and not. -/
theorem met_TrapIsTaken : let h := { aCore with task := some aHandled }
    let k := aCore.setCtx 0 farCtx
    let s := { at_ (.x 0) k with disp := { State.reset.disp with gangs := [aGang] } }
    h.trap.stop = false ∧ h.trap.hmode = false ∧ h.hidx ≠ noHandler ∧ h.abandonWaits.drained = true
      ∧ (h.setCtx 1 { farCtx with loads := [aLoad] }).abandonWaits.drained = false ∧ aCore.hidx = noHandler ∧ s.gang aTask.gang = some aGang
      ∧ (s.core 0).task = some aTask
      ∧ { h with trap := { h.trap with halt := some (trapAt h .l causeStall 0 0) } }.trap.halt = some (trapAt h .l causeStall 0 0)
      ∧ { h with trap := { h.trap with halt := some (trapAt h .l causeStall 0 0) } }.drained = true
      ∧ { h with trap := { h.trap with hmode := true } }.trap.hmode = true := by decide +kernel

/-- L has waited one cycle more than the limit at a sector of a parked copy, or at its register. -/
theorem met_WaitLimits : let v := { faulted with st := .parked }
    let q (w : Wait) := { seq 0 0 0 with wait := some w, stall := 16001 }
    let k (w : Wait) := ((copyCore v).setLs false (q w)).modWm 3 (fun m => { m with st := 2 })
    let s (w : Wait) := (at_ .l (k w)).modTenant 1 (fun t => { t with ttrap := 1 })
    (∀ w ∈ [Wait.gate [1] true, Wait.mark 3], ((s w).tenant 1).ttrap.toNat % 2 ^ 16 = 1 ∧ 16000 * 1 < ((s w).core 0).stallOf .l
        ∧ ((s w).core 0).mayIssue .l = true ∧ ((s w).core 0).stalledOnParked .l = true ∧ ((s w).core 0).waitOf .l = some w)
      ∧ (((at_ .l (k (.mark 3))).modTenant 1 (fun t => { t with ttrap := 0 })).tenant 1).ttrap.toNat % 2 ^ 16 = 0 := by decide +kernel

/-- An S word has waited one cycle more than the limit to read its source behind a parked copy. -/
theorem met_WaitLimits_read : let v : Copy := { faulted with st := .parked }
    let u : Copy := { aCopy with id := 1, op := .wcopy, w := 4, next := 0, out := [], srcStall := some { sec := 0, cycles := 16001 } }
    let k := { aCore with land := { aCore.land with copies := [v, u], nextId := 2 } }
    k.stallOf .s ≤ 16000 * 1 ∧ (k.land.copies.filter (fun d => d.agent == .s)).head? = some u ∧ u.idxStall = none
      ∧ (k.srcHolders u).any (fun h => h.2.1 == 0 && !h.2.2.isEmpty && h.2.2.all (fun b => b.parked)) = true
      ∧ ((k.overdueRead .s (16000 * 1)).map (fun p => (p.1.id, p.2.1))) = some (1, 0) := by decide +kernel

/-- A gather has waited one cycle more than the limit to read its first index group behind a parked copy. -/
theorem met_WaitLimits_index : let v : Copy := { faulted with st := .parked }
    let u : Copy := { aCopy with id := 1, op := .gather, w := 4, next := 0, out := [], idxStall := some { sec := 0, cycles := 16001 } }
    let k := { aCore with land := { aCore.land with copies := [v, u], nextId := 2 } }
    k.stallOf .l ≤ 16000 * 1 ∧ u.idxStall = some { sec := 0, cycles := 16001 }
      ∧ (k.idxHolders u).any (fun h => h.2.1 == 0 && !h.2.2.isEmpty && h.2.2.all (fun b => b.parked)) = true := by decide +kernel

/-- A scratchpad sector that a parked copy holds. -/
theorem met_WaitLimits_held : ((copyCore { faulted with st := .parked }).holders [1] true).isEmpty = false := by decide +kernel

/-- L waits for a token that only S could send, and S has ended. -/
theorem met_queueDeadlock : let k := { (aCore.setLs false { seq 0 0 0 with wait := some (.pop [.sl]) }) with trap := { aCore.trap with idle := 4096 } }
    let s := at_ .l { k with seqs := { k.seqs with x := k.seqs.x.set 0 { farCtx with run := .ended } } }
    (s.core 0).waiters = [.l] ∧ 4096 ≤ (s.core 0).trap.idle ∧ s.deadlocked 0 = true := by decide +kernel

/-- Tables at 0x600000, in a granule of tag 12: one leaf of 2 MiB, writable, for VA 0x200000. -/
def tables : Mem :=
  (((Mem.writeN [] 0x600000 (leBytes 8 0x601001)).writeN 0x601000 (leBytes 8 0x602001)).writeN 0x602008 (leBytes 8 0x400007) : Mem)

/-- The state with those tables, and a walk of island 0 for a store of X0. -/
def walking : State :=
  let s := at_ (.x 0) { (aCore.setCtx 0 { farCtx with wait := some .other }) with tlbs := { x := [], l := [], s := [] } }
  let s := (s.modTenant 1 (fun t => { t with troot := 0x600001 })).modIsland 0 (fun i => { i with
    walks := [{ tenant := 1, page := 0x200, born := 0, reqs := [{ who := .word 0 (.x 0), va := 0x200010, write := true, image := false }] }] })
  { s with mem := tables, mgmt := { s.mgmt with tags := [(2, 1), (3, 12)] } }

theorem met_TranslationSteps :
    (match walking.walk (walkPort 0 0x200010) 1 0x200010 none with
      | .leaf e pte writable _ => decide (e.addr 0x200010 = 0x400010 ∧ pte = 0x602008 ∧ writable = true)
      | .fault _ _ => false) = true
    ∧ (match walking.walk (walkPort 0 0x400010) 1 0x400010 none with
      | .leaf _ _ _ _ => false
      | .fault code bad => decide (code = 0x10 ∧ bad = false)) = true
    ∧ ((walking.island 0).walks[0]?).any (fun w => walking.served 0 0 w && !walking.walkStuck 0 w) = true
    ∧ walking.upset = Ecc.clean ∧
    ((walking.island 0).walks[0]?).isSome = true ∧ (walking.core 0).task = some aTask ∧ (walking.core 0).waitOf (.x 0) = some .other
    ∧ ((walking.core 0).tlbs.of (.x 0)).find? (fun e => e.serves 1 0x200010 true) = none
    ∧ (((at_ (.x 0) aCore).core 0).tlbs.of (.x 0)).find? (fun e => e.serves 1 0x3FFFFF true) = some aPage
    ∧ inLocalWindow 0xFFFFFFDFFFFF = false ∧ inGangWindow 0x200010 = false ∧ (walking.tenant 1).troot.getLsbD 0 = true
    ∧ ((aTask.sects[0]?).getD (0, 0)).2 = 0x200 ∧ (walking.core 0).fetchedAt 0 0x1FC = none ∧ (walking.core 0).trap.stop = false := by
  decide +kernel

/-- Tables of one 2 MiB page that may not be stored to, and a walk for a store of X0. -/
def walkingRo : State :=
  { walking with mem := walking.mem.writeN 0x602008 (leBytes 8 0x400003) }

/-- A walk that ends at a leaf that is not writable, a store to the image, a fifth walk of a port, and a word fetched ahead. -/
theorem met_TranslationSteps_more :
    (match walkingRo.walk (walkPort 0 0x200010) 1 0x200010 none with
      | .leaf _ _ writable _ => !writable
      | .fault _ _ => false) = true
    ∧ aTask.inImage 0x100FFF = true
    ∧ (let w : Walk := { tenant := 1, page := 0x200, born := 0, reqs := [] }
      let s := walking.modIsland 0 (fun i => { i with walks := List.replicate 5 w })
      (s.island 0).walks[4]? = some w ∧ s.served 0 4 w = false ∧ s.served 0 3 w = true) := by
  decide +kernel

/-- A core whose micro-TLB of X maps the image. -/
def imaged : State := at_ (.x 0) { aCore with tlbs := { x := [{ aPage with va := 0, pa := 0x400000 }], l := [], s := [] } }

theorem met_TranslationSteps_ahead :
    imaged.xlate 0 (.x 0) (.ahead 0 (.x 0)) (aTask.image + 0x400 + 0x1FC) false = (imaged, .ok 0x5005FC 0 false)
      ∧ imaged.targetCode 1 0x5005FC 0 false = none ∧ imaged.fetchStuck 1 0x5005FC = false ∧ imaged.upset = Ecc.clean
      ∧ (imaged.core 0).fetchedAt 0 0x1FC = none ∧ imaged.gov.guard ≠ 3 :=
  ⟨Prod.ext rfl (by decide +kernel), by decide +kernel⟩

/-- The page of a walk that is waited for, as the tables map it now, has a miss of another 4 KiB of it beside it (R63). -/
theorem met_TranslationSteps_joined : (walking.leafOf 0 1 0x3FF000).any (fun g => g.serves 1 (0x200 * 4096) false) = true
    ∧ (isHostPa 0x200000 = false) ∧ ((walking.core 0).tlbs.of (.x 0)).find? (fun e => e.serves 1 0x3FF000 true) = none := by decide +kernel

/-- A TINV value of scope 0 that names the page of `aPage`, one of tenant 1, one of all. -/
theorem met_InvalidationAndOwners : let s := at_ (.x 0) aCore
    fld 0x0600000000200000 63 62 = 0 ∧ fld 0x4400000000000000 63 62 = 1 ∧ fld 0x8000000000000000 63 62 = 2
      ∧ (invalOf 0x0600000000200000).isSome = true ∧ (invalOf 0x8000000000000000).isSome = true ∧ s.mgmt.tinv = none
      ∧ s.inUse { tenant := some 1, lo := 0x200000, hi := 0x400000 } = false
      ∧ (at_ (.x 0) (aCore.setCtx 0 { farCtx with loads := [aLoad] })).inUse { tenant := some 1, lo := 0x200000, hi := 0x400000 } = true
      ∧ s.mgmt.own = none ∧ s.ownerTag 2 = 1 ∧ s.ownerTag 3 ≠ 1 ∧ s.mgmt.dead = false ∧ s.mgmt.ownHeld = [] ∧ s.mgmt.tinvHeld = []
      ∧ s.usesGranule 2 = false
      ∧ (s.modRouter 0 (fun q => { q with outbox := [msg (.read 0x400028 8 0 1 .dflt true (.load 0 0 3))] })).usesGranule 2 = true := by decide +kernel

/-- A parked copy and a parked atomic of tenant 1, and the save of a member that has such a copy. -/
def parkedCopy : Copy := { faulted with st := .parked }
def parkedAtom : AtomFly := { anAtom with parked := some { va := 0x200000, code := 0x10, badPte := false, host := false }, sent := false }
def aSave : Saved := { slot := 0, gang := 3, member := 0, core := copyCore parkedCopy, actions := [] }

/-- What RESUME finds for an identifier of tenant 1: on core 0, in a save, or nowhere. -/
def finds (s : State) (id : W32) : Option (CoreId × Nat × Bool) × Option Nat :=
  match s.findParked 1 id with
  | .copy c p => (some (c, p.id, true), none)
  | .atom c a => (some (c, a.id, false), none)
  | .saved _ m => (none, some m.slot)
  | .nothing => (none, none)

theorem met_FirmwareCommands : finds (at_ .l (copyCore parkedCopy)) 0x004C0001 = (some (0, 0, true), none)
    ∧ (copyCore parkedCopy).copy 0 = some parkedCopy ∧ ((copyCore parkedCopy).bound 3).head? = some parkedCopy
    ∧ ((copyCore parkedCopy).land.copies.map Copy.id).Nodup ∧ (copyCore parkedCopy).window 3 = none := by decide +kernel

theorem met_FirmwareCommands_elsewhere : finds (at_ .s { aCore with atoms := [parkedAtom] }) 0xC00001 = (some (0, 0, false), none)
    ∧ finds ((at_ .l aCore).modTenant 1 (fun q => { q with saved := [aSave] })) 0x004C0001 = (none, some 0)
    ∧ finds (at_ .l aCore) 7 = (none, none) := by decide +kernel

/-- A context that waits for service 5; rings with one entry to free. -/
theorem met_FirmwareCommands_rings :
    let q := { (State.reset.tenant 1) with fqbase := 0x700000, fqtail := 64, hin := 1, sqbase := 0x710000, sqtail := 16, sqheld := [zeros 64] }
    ({ farCtx with op := some (.service none), service := [0x105000000, 0, 0, 0, 0, 0, 0, 0] } : XCtx).awaits 5 = true
      ∧ q.waiting = [] ∧ q.hin = q.hout + 1 ∧ q.void = [] ∧ ({ q with fqhead := 1 } : TenantSt).fqFree = true ∧ q.fqFree = false
      ∧ q.sqheld = [zeros 64] ∧ ({ q with sqhead := 1 } : TenantSt).sqFree = true ∧ q.sqFree = false := by decide +kernel

/-- RESUME of a saved member (R385, R386): the action stands in the save, and in its descriptor of the slot. -/
theorem test_resume_of_a_save :
    (match exec (.resumeReplay 0x41000000004C0001) ((at_ .l aCore).modTenant 1 (fun q => { q with saved := [aSave], svbase := 0x700004 })) with
    | .next t => ((t.tenant 1).saved.map (fun m => m.actions), t.mem.readLe ((t.tenant 1).slotAddr 0 + 0x4000 + 64 * 12 + 59) 1)
    | .fault _ => ([], 0)
    | .refused _ => ([], 0)) = ([[(0x004C0001, true)]], 1) := by decide +kernel

/-- Slice and line of device physical address 0x400000, which tenant 1 owns. -/
def homeSlice : SliceId := sliceFor 0x400000

theorem met_SliceReads : let s := withMsg (at_ .l aCore) (sliceRouter homeSlice) (.read 0x400060 32 0 1 .dflt false (.copy 0 0 0 0))
    let host := 2 ^ 39
    let v : Window92 := { line := 0x8000, opened := 0, reqs := [msg (.read 0x400060 32 0 1 .dflt false (.copy 0 0 0 0))], read := 0 }
    let fl : Fill := { line := 0x8000, want := 8, alloc := true, hint := .dflt, who := .nobody, window := none, payers := [], arrived := false }
    let w := s.modSlice homeSlice (fun q => { q with windows := [v], lines := [{ line := 0x8000, valid := 15, dirty := 0, hint := .dflt }] })
    let m := { w with mgmt := { w.mgmt with tags := [(2, 2)] } }
    (s.sliceMsg homeSlice 0).isSome = true ∧ s.targetCodeAt 0 1 0x400060 0 (isHostPa 0x400060) = none
      ∧ s.targetCodeAt 0 2 0x400060 0 (isHostPa 0x400060) = some 0x12 ∧ isHostPa host = true
      ∧ secMask 0x400060 32 &&& ~~~((s.slice homeSlice).atHand 0x8000 .dflt) ≠ 0
      ∧ secMask 0x400060 32 &&& ~~~((w.slice homeSlice).atHand 0x8000 .dflt) = 0
      ∧ (w.slice homeSlice).windows[0]? = some v ∧ v.sectors &&& ~~~((w.slice homeSlice).atHand 0x8000 .dflt) = 0
      ∧ v.opened + 32 ≤ ({ w with time := 32 } : State).time ∧ ({ w with time := 31 } : State).time < v.opened + 32
      ∧ (∀ r ∈ v.reqs, w.barred r = none) ∧ m.targetCodeAt 0 1 0x400060 0 false = some 0x12
      ∧ w.lineFree homeSlice = true ∧ (w.modSlice homeSlice (fun q => { q with lineAt := some 0 })).lineFree homeSlice = false
      ∧ s.hostRoom = true ∧ ({ s with host := { s.host with reqs := List.replicate 1024 {
          tag := 0, bus := 0, pa := 0, size := 0, atom := none, flush := false, who := .nobody, pri := 0, rlx := false, nsnp := false
          sent := 0 } } } : State).hostRoom = false
      ∧ fl.arrived = false ∧ s.sliceStuck homeSlice 0x8000 = false ∧ fl.want &&& Ecc.clean.bad = 0 := by decide +kernel

theorem met_SliceWrites : let e : Ecc := Ecc.clean
    let s (b : Body) := withMsg (at_ .l aCore) (sliceRouter homeSlice) b
    let add : AtomReq := { w := 64, op := .add, u := false, x := 1, y := 0 }
    EccClean e
      ∧ (s (.write 0x400000 [1] 0 1 .dflt (.store 0 0 0))).sliceMsg homeSlice 0 = some (msg (.write 0x400000 [1] 0 1 .dflt (.store 0 0 0)))
      ∧ (s (.atom 0x400000 0 1 add (.atom 0 0))).inboxAt (sliceRouter homeSlice) 0 = some (msg (.atom 0x400000 0 1 add (.atom 0 0)))
      ∧ sliceOf (sliceRouter homeSlice) = some homeSlice ∧ (s (.writeAck 0 .nobody)).targetCode 1 0x400000 0 false = none
      ∧ (s (.writeAck 0 .nobody)).sliceStuck homeSlice 0x8000 = false ∧ (s (.writeAck 0 .nobody)).lineFree homeSlice = true
      ∧ (s (.writeAck 0 .nobody)).atomFree homeSlice = true ∧ (s (.writeAck 0 .nobody)).hostRoom = true
      ∧ aCore.inGang 0 = true ∧ aCore.inGang 1 = false
      ∧ aCore.inScratch 0x7FFF8 8 = true ∧ aCore.gate true 0x7FFF8 8 = .free ∧ aCore.inScratch 0x80000 8 = false := by
  unfold EccClean
  decide +kernel

/-- Two sectors of an accumulate write, an element that is the last of its sector, a NaN of each format, finite elements. -/
theorem met_SliceWrites_elements : (zeros 32).length = 32 ∧ accWidth .f32 * 7 + accWidth .f32 ≤ 32 ∧ accWidth .bf16 * 15 + accWidth .bf16 ≤ 32
    ∧ (val32 0x7FC00000).isNan = true ∧ (val32 0x3F800000).isNan = false ∧ (unpack .bf16 0x7FC0).isNan = true
    ∧ (match unpack .bf16 0x3F80, unpack .bf16 0xFF80 with
      | .fin _ _ _, .inf _ => true
      | _, _ => false) = true := by decide +kernel

/-- Accumulate writes element by element (R265): 1.0 + 2.0 in FP32 beside 0, 1.0 + 1.0 in BF16, the lesser of −1 and 1 in INT32. -/
theorem test_accumulate : leNat (accSector .add .f32 (leBytes 32 0x3F800000) (leBytes 32 0x40000000)) = 0x40400000
    ∧ leNat (accSector .add .bf16 (leBytes 32 0x3F800000) (leBytes 32 0x3F800000)) = 0x40000000
    ∧ leNat (accSector .min .i32 (leBytes 32 0xFFFFFFFF) (leBytes 32 1)) = 0xFFFFFFFF := by decide +kernel

/-- The edges of a registration's phases: one past, the last that counts as past, none, and the first beyond. -/
theorem met_BarrierObjects : let s := withMsg (at_ .l aCore) (sliceRouter homeSlice) (.barrier 0x400000 1 .arrive (.barrier 0 0))
    s.sliceMsg homeSlice 0 = some (msg (.barrier 0x400000 1 .arrive (.barrier 0 0))) ∧ s.targetCode 1 0x400000 0 false = none
      ∧ s.sliceStuck homeSlice 0x8000 = false ∧ s.lineFree homeSlice = true ∧ (Who.barrier 0 0).core = some 0
      ∧ ((5 : BitVec 31) - 4).toNat = 1 ∧ ((5 : BitVec 31) - 5).toNat = 0 ∧ ((2 ^ 30 - 1 : BitVec 31) - 0).toNat < 2 ^ 30
      ∧ 2 ^ 30 ≤ ((2 ^ 30 : BitVec 31) - 0).toNat := by decide +kernel

theorem met_FabricSteps : let f := msg (.writeAck 0 .nobody)
    let v (d : Option Nat) : Credit := { flit := f, cycle := 0, delivered := d, noted := false }
    let s := State.reset.modRouter 17 (fun q => { q with outbox := [f], credits := [v (some 0), v none] })
    let timely : State := { s with gov := { s.gov with boundaries := 1 } }
    s.nextOut 17 = some 0 ∧ s.mayInject 17 = true ∧ (s.modRouter 17 (fun q => { q with inject := some f })).mayInject 17 = false
      ∧ (s.router 17).credits[0]? = some (v (some 0)) ∧ (s.router 17).credits[1]? = some (v none)
      ∧ (v none).cycle + 8224 ≤ ({ s with time := 8224 } : State).time ∧ ({ f with cls := .readReply } : Flit).isReply = true ∧ ({ f with cls := .barrier } : Flit).isReply = false
      ∧ (msg (.writeAck 0 .nobody)).isMulti = false ∧ (s.entering 17 []).length ≤ 4
      ∧ timely.onTime = true ∧ s.onTime = false ∧ ({ timely with time := 31 } : State).onTime = true
      ∧ ({ timely with time := 32 } : State).onTime = false
      ∧ ({ s with time := 1024 } : State).time % 1024 = 0 ∧ s.gov.windows < 1024 / 1024 ∧ s.moveSounds.accepts f [] = true := by decide +kernel

/-- Flits for router 18 and router 17 that come to router 17 over its links, the first of a higher class than the second. -/
def flitTo (d : RouterId) (pri : Nat) : Flit := { msg (.writeAck 0 .nobody) with dst := d, pri := pri, src := 40 }
def crowded (fs : List (Lane × Flit)) : State :=
  let s := State.reset
  { s with fabric := { s.fabric with links := fs.map (fun p => { at_ := 17, lane := p.1, flit := p.2 }) }, gov := { s.gov with boundaries := 1 } }

theorem met_FabricSteps_routing :
    (let s := crowded [(.down, flitTo 18 1), (.up, flitTo 18 0)];
      s.moveSounds.entering 17 [] = ([{ order := 0, flit := flitTo 18 1 }, { order := 1, flit := flitTo 18 0 }] : List Enter) ∧ wayOn 17 18 = .east
        ∧ s.onTime = true)
    ∧ (let s := crowded [(.down, flitTo 17 2), (.up, flitTo 17 1), (.east, flitTo 17 0)];
      (s.moveSounds.entering 17 []).length = 3 ∧ s.moveSounds.accepts (flitTo 17 2) [] = true
        ∧ ∀ x ∈ s.moveSounds.entering 17 [], x.flit.dst = 17 ∧ x.flit.isMulti = false)
    ∧ (crowded [(.down, flitTo 18 1)]).fabric.links = [{ at_ := 17, lane := .down, flit := flitTo 18 1 }] := by decide +kernel

/-- The flit of the higher class is above the other. -/
theorem met_RanksOver : RanksOver 0 { order := 1, flit := flitTo 18 1 } { order := 0, flit := flitTo 18 0 } := by
  refine Or.inr (Or.inr (Or.inr ?_))
  decide +kernel

/-- Outside its duty a throttled strip holds its candidates. -/
theorem met_FabricSteps_throttle : let s := State.reset.modIsland 0 (fun v => { v with tact := true })
    islandAt (coreRouter 0) = some 0 ∧ (s.island 0).tact = true ∧ fld (s.island 0).fthr 15 13 ≤ ({ s with time := 7 } : State).time % 8
      ∧ ({ s with time := 3 } : State).time % 8 < fld (s.island 0).fthr 15 13 := by decide +kernel

/-- Requests of firmware, ticks, limits at their thresholds, a boundary. -/
theorem met_PowerSteps : let s := State.reset
    let c := (s.island 0).clock
    (0x8000000000000205 : W64).getLsbD 63 = true ∧ (0x205 : W64).toNat / 2 ^ 8 % 4 = 2 ∧ c.trat ≤ 2 ∧ 0 < c.trat
      ∧ s.othersHigh 0 < 3 ∧ (0x205 : W64).getLsbD 63 = false
      ∧ ({ s with time := 1600 } : State).time % 160 = 0 ∧ s.gov.ramps < 1600 / 160 ∧ s.gov.ticks < 1600 / 1600
      ∧ (s.island 0).ipol.toNat / 2 ^ 48 < 4001 ∧ 4000 ≤ (s.island 0).ipol.toNat / 2 ^ 48
      ∧ s.gov.therm.toNat / 2 ^ 8 % 2 ^ 8 ≤ 105 ∧ 94 < s.gov.therm.toNat % 2 ^ 8
      ∧ c.hot = false ∧ { c with droop := true }.stretching = true ∧ { c with hot := true }.hot = true ∧ c.stretching = false
      ∧ (s.time = 160000 * s.gov.boundaries ∧ s.gov.ticks = s.time / 1600 ∧ s.gov.lowering = []) := by decide +kernel

/-- A lowering that has fallen due in each of its four ways. -/
theorem met_PowerSteps_lowering :
    let low (w : Option Nat) := ({ State.reset with gov := { State.reset.gov with lowering := [(0, w)] } }).modIsland 0 (fun i => { i with
      clock := { i.clock with low := some (1, 3, 0), held := none } })
    (∀ w ∈ [none, some 0, some 1, some 2], (low w).gov.lowering.find? (fun l => l.1 == 0) = some (0, w)
        ∧ ((low w).island 0).clock.low = some (1, 3, 0) ∧ ((low w).island 0).clock.held = none ∧ ((low w).island 0).fwh = false)
      ∧ ((low none).modIsland 0 (fun i => { i with ipol := i.ipol ||| 0x4000000000 }) |>.island 0).clock.held = none := by decide +kernel

/-- An island's current falls: with a core whose activity fell, its task there or gone, and with none. -/
theorem met_PowerSteps_slope : let s := State.reset
    let fell (gone : Option Tenant) := (s.modCore 3 (fun k => { k with fill := { work := 0, level := 5, gone := gone, ops := [] } })).modIsland 0
      (fun v => { v with clock := { v.clock with cur := 500 } })
    (∀ g ∈ [none, some (4 : Tenant)], 399 + 100 < ((fell g).island 0).clock.cur ∧ ((fell g).core 3).fell = true
        ∧ ((fell g).core 3).ceased false = g.isSome ∧ ((fell g).core 4).fell = false ∧ (fell g).fillers 0 = [3])
      ∧ (s.fillers 0).length = 16
      ∧ (List.replicate 16 (1 : Nat)).sum ≤ 16 ∧ (List.replicate 16 (1 : Nat)).length = 16 := by decide +kernel

/-- A module that runs, with an empty flash, a pending request and none. -/
theorem met_BootMailboxAndRegisters : let h := State.reset.host
    let run := { h with hstat := setFld h.hstat 3 0 4, pending := true }
    State.reset.mgmt.dead = false ∧ { State.reset.mgmt with dead := true }.dead = true ∧ (0x8000000000000008 : W64).getLsbD 63 = true
      ∧ h.pending = false ∧ run.pending = true ∧ 1 ≤ fld run.hstat 3 0 ∧ fld run.hstat 3 0 ≤ 4 ∧ h.flash[(0 : Fin 2).val] = []
      ∧ ({ State.reset with time := 160000, gov := { State.reset.gov with boundaries := 2 } } : State).time + 160000 = 160000 * 2
      ∧ fld 0x0000000100010000 39 32 ≠ 0 ∧ fld 0x0000000100010000 31 16 ≠ 0 ∧ h.hacc.getLsbD 3 = false
      ∧ ({ h with hacc := 8 } : HostSt).hacc.getLsbD 3 = true := by decide +kernel

/-- The turns of bring-up, each at its STAGE. -/
theorem met_BootMailboxAndRegisters_stages : ∀ n ∈ [0, 1, 2, 3, 4],
    let h := { State.reset.host with hstat := setFld State.reset.host.hstat 3 0 n }
    let s : State := { State.reset with host := h, agenda := [.outside (.bringUp true)] }
    fld h.hstat 3 0 = n ∧ s.mgmt.dead = false ∧ s.gov.lowering = [] ∧ s.agenda = [.outside (.bringUp true)] := by decide +kernel

/-- The first stage of bring-up after a reset, and the second with an empty flash (R401, R398): ERR 1 at STAGE 15. -/
theorem test_bring_up : let h := State.reset.host
    ([(0, 1, 0), (1, 15, 1), (3, 4, 0)] : List (Nat × Nat × Nat)).all (fun p =>
      match step { State.reset with host := { h with hstat := setFld h.hstat 3 0 p.1 }, agenda := [.outside (.bringUp true)] } with
      | .next t => t.stage == p.2.1 && t.err == p.2.2
      | .fault _ => false
      | .refused _ => false) = true := by decide +kernel

/-- FIPS 180-4's example: SHA-512 of "abc" begins DDAF35A1 93617ABA and ends 2A9AC94F A54CA49F. -/
theorem test_sha512 : ((sha512 [0x61, 0x62, 0x63]).take 8, (sha512 [0x61, 0x62, 0x63]).drop 56)
    = ([0xDD, 0xAF, 0x35, 0xA1, 0x93, 0x61, 0x7A, 0xBA], [0x2A, 0x9A, 0xC9, 0x4F, 0xA5, 0x4C, 0xA4, 0x9F]) := by decide +kernel

/-- BAR2 at its least and at its greatest size, and offsets on either side of it. -/
theorem met_HostLinkSteps_sizes : ∀ k : Fin 8, let h := { State.reset.host with bar2 := 30 + k.val }
    State.reset.mgmt.dead = false ∧ 2 ^ 30 * 2 ^ k.val - 1 < 2 ^ h.bar2 ∧ 2 ^ h.bar2 ≤ 2 ^ 30 * 2 ^ k.val := by decide +kernel

/-- A request of a slice, one of a fetch and one of an atomic, at and before their time-out; a granule that the host may reach. -/
theorem met_HostLinkSteps :
    let r (w : Who) (a : Option AtomReq) (fl : Bool) : HostReq :=
      { tag := 4, bus := 0x1000, pa := 2 ^ 39, size := 4, atom := a, flush := fl, who := w, pri := 0, rlx := false, nsnp := false, sent := 0 }
    let s (q : HostReq) : State := { at_ .l aCore with host := { State.reset.host with reqs := [q] } }
    (∀ q ∈ [r (.copy 0 0 0 0) none false, r (.fetch 0 .l 0) none false, r (.copy 0 0 0 0) none true,
        r (.atom 0 0) (some { w := 32, op := .add, u := false, x := 1, y := 0 }) false],
      (s q).hostReq 4 = some q ∧ (s q).disp.subs = [] ∧ (s q).hostReq 5 = none) ∧ (zeros 4).length = (r .nobody none false).size
      ∧ (r .nobody none false).sent + 80000000 ≤ 80000000 ∧ 79999999 < (r .nobody none false).sent + 80000000
      ∧ State.reset.ownerTag 5 = 15 ∧ (at_ .l aCore).ownerTag 2 ≤ 12 ∧ ({ State.reset.host with hacc := 2 } : HostSt).hacc.getLsbD 1 = true
      ∧ 127 % 128 + 1 ≤ 128 ∧ aCore.fetchedAt (agentSect .l).1 0 = none
      ∧ (at_ .l aCore).lineFree (sliceFor 0x400000) = true ∧ (at_ .l aCore).sliceStuck (sliceFor 0x400000) 0x8000 = false
      ∧ ({ State.reset.mgmt with own := some { gran := 2, tag := 3 } } : Mgmt).own = some { gran := 2, tag := 3 } := by decide +kernel

/-- A tenant of the host and one that is not, a full queue; a stream with five, six and seven records and a time of 1 µs; ports. -/
theorem met_SubmissionsStreamsAndPeers : let s := at_ .l aCore
    let w (n : Nat) : Stream := { cfg := 0x8100000000000001, drop := 0, sent := 0, buf := List.replicate n (0, 7), out := none }
    let p : PeerMod := { index := 2, mem := [], tags := [], enabled := [] }
    let m : State := { s with host := { s.host with peers := [p] }, disp := { s.disp with peer := [.report 2 0 none] } }
    (State.reset.host.hacc.getLsbD 1 = false) ∧ ((s.tenant 1).queues[0]).recs.length < 32 ∧ fld 0x200000 47 0 % 64 = 0
      ∧ (match (walking.readTenant 1 0x200000 64).2 with
        | .ok bs => decide (bs = zeros 64)
        | _ => false) = true
      ∧ (match (walking.readTenant 1 0x400000 64).2 with
        | .fault f => decide (f.code = 0x10)
        | _ => false) = true
      ∧ (w 5).cfg.getLsbD 63 = true ∧ fld (w 5).cfg 7 0 = 1 ∧ (∀ r ∈ (w 5).buf.head?, 1599 < r.1 + 1 * 1600)
      ∧ (fld (w 6).cfg 55 48 = 0 ∧ (s.core 0).tenant = some 1 ∧ (1 : Tenant).val = fld (w 6).cfg 59 56) ∧ (s.core 0).sync.mail.length < 4
      ∧ (w 6).buf.head? = some (0, 7) ∧ 0 + 1 * 1600 ≤ 1600 ∧ 160 ≤ fld (0x80C8000000000000 : W64) 55 48
      ∧ (s.host.slnk[0]).getLsbD 63 = false ∧ (setFld s.host.slnk[0] 63 63 1).getLsbD 63 = true
      ∧ (let u : Mail := { dw := [], src := 0, hnd := 0 }
        (withMsg s (coreRouter 0) (.mail 0 u (.stream 1 1) .nobody)).coreMsg 0 0 = some (msg (.mail 0 u (.stream 1 1) .nobody))
          ∧ { w 5 with out := some (0, u, 3, none) }.out = some (0, u, 3, none)
          ∧ { w 5 with out := some (0, u, 3, some 256) }.out = some (0, u, 3, some 256))
      ∧ m.disp.peer[0]? = some (.report 2 0 none) ∧ m.peer 2 = some p ∧ m.peer 3 = none := by decide +kernel

/-- Modules 1 and 2 beside module 0, with both ports up. -/
def ring : State :=
  let s := at_ .l aCore
  let up (n : Nat) : W64 := setFld (setFld 0 63 63 1) 55 54 n
  { s with host := { s.host with
      slnk := (s.host.slnk.set 0 (up 1)).set 1 (up 2)
      peers := [{ index := 1, mem := [], tags := [], enabled := [] }, { index := 2, mem := [], tags := [], enabled := [] }] } }

/-- The way up to module 1 is the shorter one; with the link above this module cut the other one remains, with both cut none. -/
theorem met_SubmissionsStreamsAndPeers_ring : let cut0 := ({ ring with host := { ring.host with slnk := ring.host.slnk.set 0 0 } } : State)
    let two := ({ ring with host := { ring.host with peers := ring.host.peers.drop 1 } } : State)
    ring.modIndex = 0 ∧ (ring.peer 1).isSome = true ∧ (ring.peer 3).isSome = false ∧ ring.portUp 0 = true ∧ ring.wayUp 0 1 = [0] ∧ ring.wayUp 1 0 = [1, 2]
      ∧ (∀ j ∈ [0, 1, 2], ring.linkUp j = true) ∧ cut0.linkUp 0 = false ∧ cut0.portTo 1 0 = some 1
      ∧ two.portTo 2 0x80 = some 1 ∧ two.portTo 2 0x100 = some 0
      ∧ ({ cut0 with host := { cut0.host with cuts := [1] } } : State).portTo 1 0 = none := by decide +kernel

/-- A read of module 2 at the last bytes of a sector of this module, and one that is meant for another. -/
theorem met_SubmissionsStreamsAndPeers_outside : let a : PeerAccess := { src := 2, dst := 0, tag := 5, tenant := 1, pri := 1, hint := .dflt, ask := .read 0x40003C 4 }
    let s : State := { ring with agenda := [.outside (.peer a)] }
    a.dst.val = s.modIndex ∧ ({ a with dst := 1 } : PeerAccess).dst.val ≠ s.modIndex ∧ 0x40003C % 32 + 4 ≤ 32 ∧ 0x40003C < 2 ^ 37
      ∧ s.agenda = [.outside (.peer a)] ∧ s.gov.lowering = [] ∧ s.mgmt.dead = false
      ∧ (∃ w ∈ [({ index := 1, tags := [], enabled := [], mem := [] } : PeerView)], w.index.val ≠ s.modIndex) := by decide +kernel

/-- A kernel of two gangs of one task; its record entered queue 3. -/
def aKernel : Kernel :=
  { id := 0, tenant := 1, queue := 3, serial := 0, image := 0x100000, puth := false, param := 0, paramSize := 0, done := 0, wait0 := 0, tgt0 := 0
    wait1 := 0, tgt1 := 0, status := 0, bytes := [], header := [], handles := [], rings := [], ports := [], recipes := [], gsize := 1
    pool := (512, 1024, 1536), noClass := true, levels := [{ kind := 2, count := 2 }]
    variants := [{ sects := [], cls := 0, quality := 0, res := 1 }], hidx := noHandler, acceptor := 0, number := 0, device := 0, started := 1
    sent := false, completed := 0, killed := 0, cause := 0, skip := 0, skipped := false, claim := none, read0 := none, read1 := none
    owedStatus := false, owedDone := false, statusWritten := false, failed := [] }

/-- Core 0 runs a gang of it for a tenant that may use no island more and has four slots. -/
def dispatching (st : GangSt) (k : Core) : State :=
  let s := (at_ (.x 0) k).modTenant 1 (fun q => { q with tcfg := 0xB000000000C80000, policy := 0xB000000000C80000, svbase := 4 })
  { s with disp := { s.disp with gangs := [{ aGang with st := st }], kernels := [aKernel] }, time := 16000 * 200 }

/-- The core when its task has done everything: at the end, and killed with a copy still parked. -/
def endedCore : Core :=
  { aCore with seqs := { aCore.seqs with
      x := aCore.seqs.x.set 0 { XCtx.reset with run := .ended }, l := { aCore.seqs.l with ended := true }, c := { aCore.seqs.c with ended := true }
      s := { aCore.seqs.s with ended := true } } }

theorem met_DispatcherSteps : let s := dispatching .running aCore
    s.gang 0 = some aGang ∧ aGang.since + 16000 * fld (s.tenant 1).policy 31 16 ≤ s.time
      ∧ ¬ (aGang.since + 16000 * fld (s.tenant 1).policy 31 16 ≤ ({ s with time := 16000 * 200 - 1 } : State).time)
      ∧ (match s.head 1 3 with
        | some (.fresh kn) => kn == aKernel
        | _ => false) = true
      ∧ (s.choose 1 (.fresh aKernel)).isNone = true ∧ aGang.left.length ≤ s.slotsLeft 1
      ∧ (s.modTenant 1 (fun q => { q with svbase := 0 })).slotsLeft 1 < aGang.left.length
      ∧ aGang.live.Nodup ∧ aGang.live.length ≤ (s.tenant 1).freeSlots.length := by decide +kernel

/-- Members that are ready to be saved and not; a kernel with a gang to come; a member that is killed with a copy parked. -/
theorem met_DispatcherSteps_members : let s := dispatching .running aCore
    (s.core 0).saveReady = true ∧ (copyCore aCopy).saveReady = false ∧ (copyCore aCopy).task.isSome = true
      ∧ (s.core 0).task = some aTask ∧ s.kernel 0 = some aKernel ∧ aKernel.acceptor = s.modIndex ∧ aKernel.completed + 1 < aKernel.nc * aKernel.nd
      ∧ (aCore.ctx 0).run ≠ .ended
      ∧ ({ copyCore { faulted with st := .parked } with trap := { aCore.trap with stop := true } }).killDone = true := by decide +kernel

/-- A task that has ended: what its agents show, and what nothing of it awaits. -/
theorem met_DispatcherSteps_ended : let e := (dispatching .running endedCore).core 0
    (e.ctx 0).run = .ended ∧ e.seqs.l.ended = true ∧ e.seqs.c.ended = true ∧ e.seqs.s.ended = true
      ∧ (∀ x, x ≠ 0 → (e.ctx x).run = .dormant) ∧ (∀ x, (e.ctx x).loads = [] ∧ (e.ctx x).stores = [])
      ∧ e.seqs.c.ret = [] ∧ e.seqs.l.pend = [] ∧ e.seqs.s.pend = [] := by decide +kernel

theorem met_DispatcherSteps_done : let e := (dispatching .running endedCore).core 0
    e.sync.mail = [] ∧ e.atoms = [] ∧ (∀ w ∈ e.land.copies ++ e.land.orphans, w.live = false ∧ (w.op.isS = true → w.out = []))
      ∧ e.land.windows = [] ∧ e.land.fetches = [] ∧ e.matrix.words = [] ∧ e.trap.strict = none ∧ e.trap.halt = none
      ∧ e.trap.hmode = false ∧ e.trap.stop = false := by decide +kernel

/-! ### Words, steps and memory -/

theorem met_DecodeUndoesEncode : (Instr.xAddi 31 4 0xFFFF).wf = true ∧ (Instr.xAddi 31 4 0xFFFF).home = .scalar
    ∧ (Instr.lsNop 0).wf = true ∧ (Instr.lsNop 0).home = .loadStore ∧ (Instr.fma { d := 70, a := 5, b := 6, m := .plain }).wf = true
    ∧ (Instr.fma { d := 70, a := 5, b := 6, m := .plain }).home = .compute := by decide

/-- A word of each section that is accepted. -/
theorem met_EncodeUndoesDecode : reads .scalar [(0x00611001, false, .xAdd 3 1 2)] = true ∧ reads .load [(0xF8000000, false, .lsNop 0)] = true
    ∧ reads .store [(0xF8000000, false, .lsNop 0)] = true
    ∧ reads .compute [(0x8F182860, true, .fma { d := 70, a := 5, b := 6, m := .plain })] = true := by decide

/-- What the fetch answers. -/
def wordAt (s : State) (c : CoreId) (a : Agent) : Option W32 :=
  match (s.fetchWord c a ((s.core c).pc a).toNat).2 with
  | .word w => some w
  | _ => none

/-- A word stands fetched at the pc of an agent of core 0, and the agent has the turn. -/
def placed (a : Agent) (w : W32) : State :=
  { State.reset.modCore 0 (fun k => k.placeWord a w) with agenda := [.issue 0 a], focus := (0, a) }

/-- X0, L, S and C, each with a word fetched. -/
theorem met_StepRunsTheDecodedInstruction :
    (∀ p ∈ [(Agent.x 0, 0x00611001), (.l, 0xF8000000), (.s, 0xF8000000), (.c, 0x0F182860)], let s := placed p.1 p.2
      s.agenda = [.issue 0 p.1] ∧ (s.core 0).mayIssue p.1 = true ∧ s.gov.guard ≠ 3 ∧ s.gov.lowering = [] ∧ (s.core 0).trap.warn = none
        ∧ (s.core 0).seqs.l.reading = none ∧ (s.core 0).holdsPush false = [] ∧ (s.core 0).holdsPush true = []
        ∧ (s.core 0).cHolds = [] ∧ wordAt { s with agenda := [] } 0 p.1 = some p.2)
      ∧ (match (placed .c 0x0F182860).fetchBundle 0 3 0 with
        | (_, .ok is) => decide (is = [.fma { d := 70, a := 5, b := 6, m := .plain }]) && bundleLegal is
        | (_, _) => false) = true
      ∧ (let k := { aCore with task := some aHandled, trap := { aCore.trap with warn := some (2, 1), strict := some 0x40 } }
        k.trap.warn = some (2, 1) ∧ k.trap.hmode = false ∧ k.hidx ≠ noHandler ∧ (at_ (.x 0) k).strictAt 0 (.x 1) (.fence .core) = some 0x40)
      ∧ aCore.trapsNow { aCore with trap := { aCore.trap with halt := some (trapAt aCore .l causeStall 0 0) } } = true
      ∧ aCore.trapsNow aCore = false ∧ ({ State.reset.gov with guard := 3 } : Gov).guard = 3
      ∧ ({ State.reset.gov with lowering := [(0, none)] } : Gov).lowering = [((0 : IslandId), none)]
      ∧ aCore.mayIssue (.x 1) = false ∧ Instr.governorIntervalBoundary.home = Home.device ∧ Instr.governorIntervalBoundary.wf = true := by
  decide +kernel

/-- A warning is pending at X0's word, which takes no trap of its own (R370). -/
def warned : State := (placed (.x 0) 0x00611001).modCore 0 (fun k =>
  { k with task := k.task.map (fun t => { t with hidx := 0x20 }), trap := { k.trap with warn := some (2, 1) } })

theorem met_StepRunsTheDecodedInstruction_warning : (warned.core 0).trap.warn = some (2, 1) ∧ (warned.core 0).trap.hmode = false
    ∧ (warned.core 0).hidx ≠ noHandler ∧ (warned.core 0).mayIssue (.x 0) = true ∧ warned.gov.guard ≠ 3 ∧ warned.gov.lowering = []
    ∧ (match { warned with agenda := [] }.issueNow 0 (.x 0) with
      | .next t => !(warned.core 0).trapsNow (t.core 0)
      | .fault _ => false
      | .refused _ => false) = true := by decide +kernel

/-- One step of the agenda: the placed word runs, and the machine answers a next state. -/
theorem test_step_runs_the_placed_word :
    (match step (State.reset.withFetchWord 32 0x1060002A) with
    | .next t => ((t.core 0).ctx 0).get 3
    | .fault _ => 0
    | .refused _ => 0) = 42 := by decide +kernel

/-- BAR0: HACC itself reads whatever it holds, a page of tenant 1 reads zero until HACC opens it (18_host R389). -/
theorem test_bar0_pages : let s := { State.reset with host := { State.reset.host with hacc := 1 } }
    s.bar0Read 0x10 = 1 ∧ s.bar0Read 0x101008 = 0
      ∧ ({ (s.modQueue 1 0 (fun q => { q with rej := 3 })) with host := { s.host with hacc := 2 } } : State).bar0Read 0x101008 = 0x0003000000000000 := by
  decide +kernel

/-- Two memories in canonical form, the empty one and one of two bytes. -/
theorem met_MemoryLaws : Mem.wf [] = true ∧ Mem.wf ([(3, 7), (9, 1)] : Mem) = true := by decide

/-- A step from reset with a turn of the device placed first answers a next state. -/
theorem met_EveryStepKeepsMemoryCanonical : State.reset.mem.wf = true
    ∧ Completes (step { State.reset with agenda := [.event .pcieLinkDown] }) := ⟨by decide +kernel, _, rfl⟩

end Sys2Proof.Tests
end

section
/-! The operations that leave the module's memory as it was: one frame lemma for each. -/

namespace Sys2Proof.Machine

open Sys2Proof

/-! ### Folds and branches -/

theorem State.foldl_mem {α : Type} {f : State → α → State} {l : List α} {s : State}
    (h : ∀ u x, (f u x).mem = u.mem) : (l.foldl f s).mem = s.mem :=
  List.foldlRecOn (motive := fun u => u.mem = s.mem) l f rfl fun u hu x _ => (h u x).trans hu

@[simp] theorem State.mem_ite (c : Prop) [Decidable c] (a b : State) :
    (if c then a else b).mem = if c then a.mem else b.mem := apply_ite State.mem c a b

/-! ### Parts of the state -/

@[simp] theorem State.channel_mem (s : State) (n : Nat) : (s.channel n).mem = s.mem := rfl

@[simp] theorem State.modStream_mem (s : State) (j : Fin 4) (f : Stream → Stream) : (s.modStream j f).mem = s.mem := rfl

/-! ### Traps -/

@[simp] theorem State.modGang_mem (s : State) (g : Nat) (f : Gang → Gang) : (s.modGang g f).mem = s.mem := rfl

@[simp] theorem State.stopCores_mem (s : State) (l : List CoreId) : (s.stopCores l).mem = s.mem := by
  induction l generalizing s with
  | nil => rfl
  | cons c rest ih => simp [State.stopCores, ih]

@[simp] theorem State.terminate_mem (s : State) (c : CoreId) (cause : W32) : (s.terminate c cause).mem = s.mem := by
  unfold State.terminate
  (repeat' split) <;> simp

@[simp] theorem State.takeTrap_mem (s : State) (c : CoreId) (t : TrapInfo) : (s.takeTrap c t).mem = s.mem := by
  simp [State.takeTrap]

@[simp] theorem State.raise_mem (s : State) (c : CoreId) (a : Agent) (cause : BitVec 8) (detail : Nat) (val : W64) :
    (s.raise c a cause detail val).mem = s.mem := by simp [State.raise]

/-! ### Translation -/

@[simp] theorem State.fillMicro_mem (s : State) (c : CoreId) (a : Agent) (e : Tlb) : (s.fillMicro c a e).mem = s.mem := rfl

@[simp] theorem State.fillIsland_mem (s : State) (i : IslandId) (e : Tlb) : (s.fillIsland i e).mem = s.mem := rfl

@[simp] theorem State.xlate_mem (s : State) (c : CoreId) (a : Agent) (who : XlatWho) (va : Nat) (write : Bool) :
    (s.xlate c a who va write).1.mem = s.mem := by
  simp only [State.xlate]
  (repeat' split) <;> simp

/-! ### Messages -/

@[simp] theorem State.send_mem (s : State) (src dst : RouterId) (pri : Nat) (b : Body) :
    (s.send src dst pri b).mem = s.mem := rfl

@[simp] theorem State.sendSlice_mem (s : State) (c : CoreId) (pa : Nat) (b : Body) : (s.sendSlice c pa b).mem = s.mem := rfl

@[simp] theorem State.answer_mem (s : State) (i : SliceId) (pri : Nat) (w : Who) (b : Body) :
    (s.answer i pri w b).mem = s.mem := by
  unfold State.answer
  split <;> simp

@[simp] theorem State.takeInbox_mem (s : State) (r : RouterId) (n : Nat) : (s.takeInbox r n).mem = s.mem := rfl

/-! ### Fault records -/

@[simp] theorem State.interrupt_mem (s : State) (kind : Nat) : (s.interrupt kind).mem = s.mem := rfl

@[simp] theorem State.voidRecords_mem (s : State) (t : Tenant) (id : W32) : (s.voidRecords t id).mem = s.mem := rfl

/-! ### Copies and prefetches -/

@[simp] theorem State.reportUpto_mem (s : State) (core : CoreId) (c : Copy) (upto : Nat) :
    (s.reportUpto core c upto).1.mem = s.mem := by
  unfold State.reportUpto
  (repeat' split) <;> simp

@[simp] theorem State.reportBar_mem (s : State) (core : CoreId) (c : Copy) : (s.reportBar core c).1.mem = s.mem := by
  simp [State.reportBar]

@[simp] theorem State.reportNow_mem (s : State) (core : CoreId) (c : Copy) : (s.reportNow core c).1.mem = s.mem := by
  unfold State.reportNow
  (repeat' split) <;> simp

@[simp] theorem State.reportFlushed_mem (s : State) (core : CoreId) (id : Nat) : (s.reportFlushed core id).mem = s.mem := by
  unfold State.reportFlushed
  (repeat' split) <;> simp

@[simp] theorem State.flushCopy_mem (s : State) (core : CoreId) (c : Copy) : (s.flushCopy core c).mem = s.mem := by
  unfold State.flushCopy
  split <;> simp

@[simp] theorem State.advanceCopy_mem (s : State) (core : CoreId) (id n : Nat) :
    (s.advanceCopy core id n).mem = s.mem := by
  induction n generalizing s with
  | zero => rfl
  | succ fuel ih =>
    simp only [State.advanceCopy]
    (repeat' split) <;> simp [ih]

@[simp] theorem State.completeCopy_mem (s : State) (core : CoreId) (id : Nat) : (s.completeCopy core id).mem = s.mem := by
  simp only [State.completeCopy]
  split <;> simp

@[simp] theorem State.commitAll_mem (s : State) (core : CoreId) : (s.commitAll core).mem = s.mem := by
  simp only [State.commitAll]
  rw [State.foldl_mem, State.foldl_mem] <;> simp

@[simp] theorem State.xlateParts_mem (s : State) (core : CoreId) (c : Copy) (i : Nat) (l : List Part) :
    (s.xlateParts core c i l).1.mem = s.mem := by
  induction l generalizing s with
  | nil => rfl
  | cons p rest ih =>
    simp only [State.xlateParts]
    split <;> simp [ih]

@[simp] theorem State.sendParts_mem (s : State) (core : CoreId) (t : Tenant) (c : Copy) (i : Nat)
    (l : List ((Nat × Nat) × Nat)) : (s.sendParts core t c i l).mem = s.mem := by
  induction l generalizing s with
  | nil => rfl
  | cons p rest ih => simp [State.sendParts, ih]

@[simp] theorem State.askPart_mem (s : State) (core : CoreId) (t : Tenant) (id idx n : Nat) :
    (s.askPart core t id idx n).mem = s.mem := by
  simp only [State.askPart]
  (repeat' split) <;> simp

@[simp] theorem State.askLost_mem (s : State) (core : CoreId) : (s.askLost core).mem = s.mem := by
  unfold State.askLost
  split
  · rfl
  · exact State.foldl_mem fun _ _ => State.foldl_mem fun _ _ => State.foldl_mem fun _ _ => by split <;> simp

@[simp] theorem State.pumpGroup_mem (s : State) (core : CoreId) (c : Copy) : (s.pumpGroup core c).1.mem = s.mem := by
  simp only [State.pumpGroup]
  split <;> simp

@[simp] theorem State.bindBarrier_mem (s : State) (core : CoreId) (t : Tenant) (c : Copy) :
    (s.bindBarrier core t c).1.mem = s.mem := by
  simp only [State.bindBarrier]
  (repeat' split) <;> simp

@[simp] theorem State.pumpSource_mem (s : State) (core : CoreId) (c : Copy) : (s.pumpSource core c).1.mem = s.mem := by
  simp only [State.pumpSource]
  (repeat' split) <;> simp

@[simp] theorem State.pumpRead_mem (s : State) (core : CoreId) (c : Copy) : (s.pumpRead core c).1.mem = s.mem := by
  simp only [State.pumpRead]
  (repeat' split) <;> simp

@[simp] theorem State.trapRead_mem (s : State) (core : CoreId) (id : Nat) (cause : BitVec 8) (w : BitVec 4) (x : Nat) :
    (s.trapRead core id cause w x).mem = s.mem := by
  simp only [State.trapRead]
  split <;> simp

@[simp] theorem State.settleReads_mem (s : State) (core : CoreId) (isS : Bool) (id : Nat) :
    (s.settleReads core isS id).mem = s.mem := by
  simp only [State.settleReads]
  (repeat' split) <;> simp

@[simp] theorem State.pumpFetch_mem (s : State) (core : CoreId) (f : Prefetch) : (s.pumpFetch core f).1.mem = s.mem := by
  simp only [State.pumpFetch]
  (repeat' split) <;> simp
  exact (State.foldl_mem fun _ _ => by simp).trans (by simp)

@[simp] theorem State.pumpFetches_mem (s : State) (core : CoreId) (id n : Nat) :
    (s.pumpFetches core id n).mem = s.mem := by
  induction n generalizing s with
  | zero => rfl
  | succ fuel ih =>
    simp only [State.pumpFetches]
    (repeat' split) <;> simp [ih]

/-! ### Words of X, L and S -/

@[simp] theorem State.modHere_mem (s : State) (f : Core → Core) : (s.modHere f).mem = s.mem := rfl

@[simp] theorem State.xRetire_mem (s : State) (f : XCtx → XCtx) : (s.xRetire f).mem = s.mem := rfl

@[simp] theorem State.xJump_mem (s : State) (target : W64) (f : XCtx → XCtx) : (s.xJump target f).mem = s.mem := rfl

@[simp] theorem State.xWait_mem (s : State) (w : Wait) : (s.xWait w).mem = s.mem := rfl

@[simp] theorem State.xTrap_mem (s : State) (cause : BitVec 8) (detail : Nat) (val : W64) :
    (s.xTrap cause detail val).mem = s.mem := by simp [State.xTrap]

@[simp] theorem State.xAlu_mem (s : State) (d : BitVec 5) (uses : List (BitVec 5)) (v : XCtx → W64) :
    (s.xAlu d uses v).mem = s.mem := by simp [State.xAlu]

@[simp] theorem State.xBranch_mem (s : State) (a b : BitVec 5) (off : BitVec 16) (p : W64 → W64 → Bool) :
    (s.xBranch a b off p).mem = s.mem := by simp [State.xBranch]

@[simp] theorem State.lsWait_mem (s : State) (w : Wait) : (s.lsWait w).mem = s.mem := rfl

@[simp] theorem State.lsTrap_mem (s : State) (cause : BitVec 8) (detail : Nat) (val : W64) :
    (s.lsTrap cause detail val).mem = s.mem := by simp [State.lsTrap]

@[simp] theorem State.lsPops_mem (s : State) (t : Token) (go : State → State) (h : ∀ u, (go u).mem = u.mem) :
    (s.lsPops t go).mem = s.mem := by
  simp only [State.lsPops]
  (repeat' split) <;> simp [h]

@[simp] theorem State.lsOp_mem (s : State) (t : Token) (f : LSeq → LSeq) : (s.lsOp t f).mem = s.mem :=
  State.lsPops_mem s t _ fun _ => rfl

@[simp] theorem State.lsJump_mem (s : State) (t : Token) (target : LSeq → W64) (f : LSeq → LSeq) :
    (s.lsJump t target f).mem = s.mem := State.lsPops_mem s t _ fun _ => rfl

/-! ### Loads and stores of X -/

@[simp] theorem State.xPlace_mem (s : State) (va : W64) (n : Nat) (write : Bool) : (s.xPlace va n write).1.mem = s.mem := by
  simp only [State.xPlace]
  (repeat' split) <;> simp

@[simp] theorem State.xGated_mem (s : State) (g : Gate) (load : Bool) (go : State) (h : go.mem = s.mem) :
    (s.xGated g load go).mem = s.mem := by cases g <;> simp [State.xGated, h]

@[simp] theorem State.xOpNew_mem (s : State) (op : Nat → XOp) : (s.xOpNew op).mem = s.mem := rfl

@[simp] theorem State.fillLine_mem (s : State) (id va pa n : Nat) (h : Hint) :
    (s.fillLine id va pa n h).mem = s.mem := State.foldl_mem fun _ _ => by split <;> simp

@[simp] theorem State.xLoadSend_mem (s : State) (o : XMem) (va : W64) (size : Nat) (signed : Bool) (pa pm : Nat) :
    (s.xLoadSend o va size signed pa pm).mem = s.mem := by simp [State.xLoadSend]

@[simp] theorem State.xLoad_mem (s : State) (o : XMem) (size : Nat) (signed : Bool) : (s.xLoad o size signed).mem = s.mem := by
  simp only [State.xLoad]
  (repeat' split) <;> simp

theorem State.xReleaseWait_mem (s : State) (sc : Scope) : ∀ t ∈ s.xReleaseWait sc, t.mem = s.mem := by
  simp only [State.xReleaseWait]
  (repeat' split) <;> simp

@[simp] theorem State.xStoreSend_mem (s : State) (o : XMem) (va : W64) (data : List Byte) (pa pm : Nat) (host : Bool) :
    (s.xStoreSend o va data pa pm host).mem = s.mem := rfl

@[simp] theorem State.xStoreGo_mem (s : State) (o : XMem) (size : Nat) : (s.xStoreGo o size).mem = s.mem := by
  simp only [State.xStoreGo]
  split <;> simp

@[simp] theorem State.xStore_mem (s : State) (o : XMem) (size : Nat) : (s.xStore o size).mem = s.mem := by
  simp only [State.xStore]
  split
  · simp
  · split
    · simp
    · split
      · next t ht => exact State.xReleaseWait_mem s _ t ht
      · simp

@[simp] theorem State.xBlock_mem (s : State) (va : W64) (cached : Bool) (go : State → List Byte → State)
    (h : ∀ u bs, (go u bs).mem = u.mem) : (s.xBlock va cached go).mem = s.mem := by
  simp only [State.xBlock]
  (repeat' split) <;> simp [h]

/-! ### Queues, barriers and messages of X -/

@[simp] theorem State.xPush_mem (s : State) (p : Peer) (v : Option W32) : (s.xPush p v).mem = s.mem := by simp [State.xPush]

@[simp] theorem State.xPop_mem (s : State) (p : Peer) (f : Option W32 → XCtx → XCtx) : (s.xPop p f).mem = s.mem := by
  simp only [State.xPop]
  split <;> simp

@[simp] theorem State.xBarrier_mem (s : State) (va : W64) (entry : Option Nat) (go : State → Nat → State)
    (h : ∀ u pa, (go u pa).mem = u.mem) : (s.xBarrier va entry go).mem = s.mem := by
  simp only [State.xBarrier]
  (repeat' split) <;> simp [h]

@[simp] theorem State.xBarrierSend_mem (s : State) (pa : Nat) (op : BarOp) (w : Who) : (s.xBarrierSend pa op w).mem = s.mem := rfl

@[simp] theorem State.sendMail_mem (s : State) (core : CoreId) (ctx : CtxId) (dst : CoreId) (m : Mail) :
    (s.sendMail core ctx dst m).mem = s.mem := rfl

/-! ### Launch and service records -/

@[simp] theorem State.launchFrom_mem (s : State) (t : Tenant) (q : Fin 4) (bytes : List Byte)
    (origin : Option (Nat × Nat × Nat)) : (s.launchFrom t q bytes origin).mem = s.mem := rfl

@[simp] theorem State.launchRecord_mem (s : State) (t : Tenant) (q : Fin 4) (bytes : List Byte) :
    (s.launchRecord t q bytes).mem = s.mem := rfl

/-! ### Queues of L and S -/

@[simp] theorem State.lsQpop_mem (s : State) (p : Peer) (t : Token) (f : Option W32 → LSeq → LSeq) :
    (s.lsQpop p t f).mem = s.mem := by
  refine State.lsPops_mem s t _ fun u => ?_
  dsimp only
  split <;> simp

@[simp] theorem State.lsQpush_mem (s : State) (p : Peer) (t : Token) (v : LSeq → Option W32) : (s.lsQpush p t v).mem = s.mem :=
  State.lsPops_mem s t _ fun _ => rfl

/-! ### Copies of L and S -/

@[simp] theorem State.lsCopy_mem (s : State) (op : CopyOp) (h : BitVec 6) (w : BitVec 4) (opnd aux : W64) (hint : Hint)
    (bar : Bool) (il : Nat) (acc : AccOp) (accFmt : AccFmt) (t : Token) :
    (s.lsCopy op h w opnd aux hint bar il acc accFmt t).mem = s.mem := by
  simp only [State.lsCopy]
  (repeat' split) <;> simp

/-! ### Atomics of L and S -/

@[simp] theorem State.lsAtom_mem (s : State) (o : Atom) (w : Nat) : (s.lsAtom o w).mem = s.mem := by
  simp only [State.lsAtom]
  (repeat' split) <;> simp
  exact State.lsPops_mem s o.t _ fun _ => rfl

/-! ### Bundles of C -/

@[simp] theorem State.cWait_mem (s : State) (w : Wait) : (s.cWait w).mem = s.mem := rfl

@[simp] theorem State.cTrap_mem (s : State) (cause : BitVec 8) (detail : Nat) (val : W64) :
    (s.cTrap cause detail val).mem = s.mem := by simp [State.cTrap]

@[simp] theorem State.cBundle_mem (s : State) (ws : List CWord) : (s.cBundle ws).mem = s.mem := by
  simp only [State.cBundle]
  (repeat' split) <;> simp

/-! ### What settles after a word -/

@[simp] theorem State.strictNow_mem (s : State) (c : CoreId) : (s.strictNow c).mem = s.mem := by
  simp only [State.strictNow]
  split <;> simp

/-! ### Energy -/

@[simp] theorem State.chargePj_mem (s : State) (c : CoreId) (pj : Nat) : (s.chargePj c pj).mem = s.mem := rfl

@[simp] theorem State.charge_mem (s : State) (w : Who) (n : Nat) : (s.charge w n).mem = s.mem := by
  unfold State.charge
  split <;> simp

@[simp] theorem State.chargeShared_mem (s : State) (ws : List CoreId) (k : Nat) : (s.chargeShared ws k).mem = s.mem := by
  unfold State.chargeShared
  split
  · rfl
  · exact (State.foldl_mem fun _ _ => by simp).trans (by simp)

@[simp] theorem State.bookEnergy_mem (s : State) (c : CoreId) : (s.bookEnergy c).mem = s.mem := by
  simp only [State.bookEnergy]
  split <;> simp

/-! ### A cycle of the fabric -/

@[simp] theorem State.creditDelivered_mem (s : State) (f : Flit) : (s.creditDelivered f).mem = s.mem := rfl

@[simp] theorem State.creditNoted_mem (s : State) (f : Flit) : (s.creditNoted f).mem = s.mem := rfl

@[simp] theorem State.lossNotice_mem (s : State) (f : Flit) : (s.lossNotice f).mem = s.mem := by
  unfold State.lossNotice
  split
  · split <;> simp
  · split
    · exact State.foldl_mem fun _ _ => rfl
    · rfl
  · rfl

@[simp] theorem State.clearClaim_mem (s : State) (f : Flit) : (s.clearClaim f).mem = s.mem := rfl

@[simp] theorem State.discard_mem (s : State) (l : OnLink) : (s.discard l).mem = s.mem := by simp [State.discard]

@[simp] theorem State.toInbox_mem (s : State) (r : RouterId) (f : Flit) : (s.toInbox r f).mem = s.mem := rfl

@[simp] theorem State.moveSounds_mem (s : State) : s.moveSounds.mem = s.mem := State.foldl_mem fun _ _ => rfl

@[simp] theorem State.enterSound_mem (s : State) (r : RouterId) (f : Flit) : (s.enterSound r f).mem = s.mem := by
  unfold State.enterSound
  split <;> simp

@[simp] theorem State.applyGiven_mem (s : State) (r : RouterId) (g : Given) (crossed : Nat) :
    (s.applyGiven r g crossed).mem = s.mem := by
  have ejected (u : State) : (g.ejected.foldl (fun s f => (s.toInbox r f).creditDelivered f) u).mem = u.mem :=
    State.foldl_mem fun _ _ => rfl
  simp only [State.applyGiven]
  split
  · split <;> simp [ejected]
  · refine (State.foldl_mem fun u f => ?_).trans ?_
    · split <;> rfl
    · split <;> simp [ejected]

@[simp] theorem State.fabricCycle_mem (s : State) (drops : List (RouterId × Lane)) : (s.fabricCycle drops).mem = s.mem := by
  simp only [State.fabricCycle]
  rw [State.foldl_mem, State.foldl_mem] <;> simp

/-! ### Clocks -/

@[simp] theorem State.tickTime_mem (s : State) : s.tickTime.mem = s.mem := rfl

@[simp] theorem State.request_mem (s : State) (i : IslandId) (r step : Nat) : (s.request i r step).mem = s.mem := rfl

@[simp] theorem State.slope_mem (s : State) (load : Nat) (filler : List (CoreId × Nat)) (i : IslandId) :
    (s.slope load filler i).mem = s.mem := by
  simp only [State.slope, State.modIsland_mem]
  exact State.foldl_mem fun _ _ => rfl

/-! ### The host link -/

@[simp] theorem State.hostAsk_mem (s : State) (pa : Nat) (seg : W64) (n : Nat) (atom : Option AtomReq) (flush : Bool)
    (pri : Nat) (who : Who) : (s.hostAsk pa seg n atom flush pri who).mem = s.mem := rfl

@[simp] theorem State.hostPost_mem (s : State) (pa : Nat) (seg : W64) (data : List Byte) :
    (s.hostPost pa seg data).mem = s.mem := rfl

@[simp] theorem State.hostDone_mem (s : State) (tag : Nat) : (s.hostDone tag).mem = s.mem := rfl

/-! ### Slices -/

@[simp] theorem State.countCorrected_mem (s : State) (i : SliceId) (n : Nat) : (s.countCorrected i n).mem = s.mem := rfl

@[simp] theorem State.useLine_mem (s : State) (i : SliceId) : (s.useLine i).mem = s.mem := rfl

@[simp] theorem State.useAtom_mem (s : State) (i : SliceId) : (s.useAtom i).mem = s.mem := rfl

/-! ### Events of a slice -/

@[simp] theorem State.sliceTake_mem (s : State) (i : SliceId) (n : Nat) : (s.sliceTake i n).mem = s.mem := rfl

@[simp] theorem State.startChannel_mem (s : State) (i : SliceId) (line : Nat) (need : BitVec 4) (h : Hint) (w : Who)
    (window : Option Nat) : (s.startChannel i line need h w window).mem = s.mem := by simp [State.startChannel]

@[simp] theorem State.readUnicast_mem (s : State) (i : SliceId) (n : Nat) (f : Flit) (pa size : Nat) (h : Hint) (w : Who) :
    (s.readUnicast i n f pa size h w).mem = s.mem := by simp [State.readUnicast]

@[simp] theorem State.readWindow_mem (s : State) (i : SliceId) (n : Nat) (f : Flit) (pa size : Nat) (h : Hint) (w : Who) :
    (s.readWindow i n f pa size h w).mem = s.mem := by simp [State.readWindow]

@[simp] theorem State.multicast_mem (s : State) (i : SliceId) (v : Window92) (sec : Nat) : (s.multicast i v sec).mem = s.mem :=
  State.foldl_mem fun _ _ => rfl

@[simp] theorem State.refuseRead_mem (s : State) (i : SliceId) (f : Flit) (code : Nat) : (s.refuseRead i f code).mem = s.mem := by
  unfold State.refuseRead
  split <;> simp

@[simp] theorem State.chargeFill_mem (s : State) (i : SliceId) (f : Fill) (k : Nat) : (s.chargeFill i f k).mem = s.mem := by
  unfold State.chargeFill
  split <;> simp

@[simp] theorem State.atomAtPort_mem (s : State) (c : CoreId) (n : Nat) (f : Flit) (off : Nat) (r : AtomReq) (gang : Nat)
    (w : Who) : (s.atomAtPort c n f off r gang w).mem = s.mem := by
  simp only [State.atomAtPort]
  (repeat' split) <;> simp

@[simp] theorem State.wakeAll_mem (s : State) (i : SliceId) (pri pa wait : Nat) (phase : BitVec 31) :
    (s.wakeAll i pri pa wait phase).mem = s.mem := State.foldl_mem fun _ _ => rfl

/-! ### Events of a core -/

@[simp] theorem State.coreTake_mem (s : State) (c : CoreId) (n : Nat) : (s.coreTake c n).mem = s.mem := rfl

@[simp] theorem State.refillAt_mem (s : State) (c : CoreId) (pa : Nat) : (s.refillAt c pa).mem = s.mem := by
  unfold State.refillAt
  split
  · rfl
  · exact State.foldl_mem fun _ _ => rfl

@[simp] theorem State.wakeEntries_mem (s : State) (c : CoreId) (pa : Nat) (phase : BitVec 31) :
    (s.wakeEntries c pa phase).mem = s.mem := by
  unfold State.wakeEntries
  split
  · rfl
  · exact State.foldl_mem fun _ _ => by split <;> simp

@[simp] theorem State.streamArrival_mem (s : State) (c : CoreId) (m : Mail) (j : Fin 4) (ten : Nat) :
    (s.streamArrival c m j ten).mem = s.mem := by simp [State.streamArrival]

/-! ### Instruction fetch -/

@[simp] theorem State.askFetch_mem (s : State) (c : CoreId) (a : Agent) (off pa : Nat) :
    (s.askFetch c a off pa).mem = s.mem := by simp [State.askFetch]

/-! ### Page walks -/

@[simp] theorem State.cachePtrs_mem (s : State) (port : SliceId) (ptrs : List WalkPtr) :
    (s.cachePtrs port ptrs).mem = s.mem := rfl

@[simp] theorem State.dropPage_mem (s : State) (i : IslandId) (e : Tlb) : (s.dropPage i e).mem = s.mem := rfl

/-! ### Memory of the dispatcher -/

@[simp] theorem State.askChunk_mem (s : State) (p : Nat × Nat) : (s.askChunk p).mem = s.mem := by simp [State.askChunk]

@[simp] theorem State.dispHost_mem (s : State) (va pa n : Nat) : (s.dispHost va pa n).1.mem = s.mem := by
  simp only [State.dispHost]
  split
  · exact State.foldl_mem fun _ _ => by simp
  · rfl

@[simp] theorem State.modKernel_mem (s : State) (id : Nat) (f : Kernel → Kernel) : (s.modKernel id f).mem = s.mem := rfl

@[simp] theorem State.kernelOk_mem (s : State) (id n : Nat) : (s.kernelOk id n).mem = s.mem := rfl

@[simp] theorem State.dropKernel_mem (s : State) (k : Kernel) : (s.dropKernel k).mem = s.mem := rfl

/-! ### Acceptance of a kernel -/

@[simp] theorem State.modQueue_mem (s : State) (t : Tenant) (q : Fin 4) (f : LQueue → LQueue) :
    (s.modQueue t q f).mem = s.mem := rfl

@[simp] theorem State.forward_mem (s : State) (id : Nat) : (s.forward id).mem = s.mem := by
  unfold State.forward
  split <;> simp

/-! ### Gangs -/

@[simp] theorem State.deliverWarning_mem (s : State) (c : CoreId) : (s.deliverWarning c).mem = s.mem := by
  unfold State.deliverWarning
  split <;> simp

@[simp] theorem State.startMembers_mem (s : State) (k : Kernel) (g : Gang) (data : List Byte) :
    (s.startMembers k g data).mem = s.mem := State.foldl_mem fun _ _ => by simp

@[simp] theorem State.dropWalks_mem (s : State) (c : CoreId) : (s.dropWalks c).mem = s.mem := rfl

@[simp] theorem State.voidAll_mem (s : State) (c : CoreId) : (s.voidAll c).mem = s.mem := by
  simp only [State.voidAll]
  split
  · rfl
  · rw [State.foldl_mem, State.foldl_mem] <;> simp

@[simp] theorem State.freeCore_mem (s : State) (c : CoreId) : (s.freeCore c).mem = s.mem := by
  simp only [State.freeCore]
  split <;> simp

@[simp] theorem State.leaveGang_mem (s : State) (g : Gang) (m : Nat) : (s.leaveGang g m).mem = s.mem := by
  simp [State.leaveGang]

/-! ### Save and restore -/

@[simp] theorem State.resendEntries_mem (s : State) (c : CoreId) : (s.resendEntries c).mem = s.mem := by
  unfold State.resendEntries
  split
  · rfl
  · exact State.foldl_mem fun _ _ => rfl

@[simp] theorem State.restoreMember_mem (s : State) (g : Gang) (v : Saved) (c : CoreId) :
    (s.restoreMember g v c).mem = s.mem := by simp [State.restoreMember]

/-! ### Scheduling -/

@[simp] theorem State.takeClaim_mem (s : State) (id : Nat) : (s.takeClaim id).mem = s.mem := by
  unfold State.takeClaim
  (repeat' split) <;> simp

@[simp] theorem State.countSkip_mem (s : State) (id : Nat) : (s.countSkip id).mem = s.mem := by simp [State.countSkip]

@[simp] theorem State.setDef_mem (s : State) (t : Tenant) (c : Fin 4) (n : Nat) : (s.setDef t c n).mem = s.mem := rfl

@[simp] theorem State.preempt_mem (s : State) (g : Gang) : (s.preempt g).mem = s.mem := by simp [State.preempt]

@[simp] theorem State.preemptFor_mem (s : State) (t : Tenant) (c : Nat) (h : Head) : (s.preemptFor t c h).mem = s.mem := by
  simp only [State.preemptFor]
  (repeat' split) <;> simp
  exact State.foldl_mem fun _ _ => by simp

@[simp] theorem State.preemptAll_mem (s : State) : s.preemptAll.mem = s.mem :=
  State.foldl_mem fun _ _ => State.foldl_mem fun _ _ => by split <;> simp

@[simp] theorem State.cleanClaims_mem (s : State) : s.cleanClaims.mem = s.mem := rfl

/-! ### The governor -/

@[simp] theorem State.shareRail_mem (s : State) (i : IslandId) (rail : Nat) : (s.shareRail i rail).mem = s.mem := by
  simp only [State.shareRail]
  rw [State.foldl_mem, State.foldl_mem] <;> simp

@[simp] theorem State.grant_mem (s : State) : s.grant.mem = s.mem := by
  simp only [State.grant]
  exact State.foldl_mem fun _ _ => rfl

@[simp] theorem State.warnTasks_mem (s : State) (i : IslandId) : (s.warnTasks i).mem = s.mem :=
  State.foldl_mem fun _ _ => by simp

@[simp] theorem State.warn_mem (s : State) (i : IslandId) (r step : Nat) : (s.warn i r step).mem = s.mem := by
  simp [State.warn]

@[simp] theorem State.decideHeld_mem (s : State) (i : IslandId) : (s.decideHeld i).mem = s.mem := by
  unfold State.decideHeld
  split <;> simp

@[simp] theorem State.decideIsland_mem (s : State) (i : IslandId) : (s.decideIsland i).mem = s.mem := by
  simp only [State.decideIsland]
  split
  · (repeat' split) <;> simp
  · rw [State.decideHeld_mem, State.foldl_mem fun _ _ => by simp]
    (repeat' split) <;> simp

/-! ### Invalidations, owners and resumes -/

@[simp] theorem State.dropEntries_mem (s : State) (q : Inval) : (s.dropEntries q).mem = s.mem := rfl

@[simp] theorem State.startInval_mem (s : State) (v : W64) : (s.startInval v).mem = s.mem := by
  unfold State.startInval
  (repeat' split) <;> simp

@[simp] theorem State.tinv_mem (s : State) (scope : Nat) (v : W64) : (s.tinv scope v).mem = s.mem := by simp [State.tinv]

@[simp] theorem State.nextInval_mem (s : State) (n : Nat) : (s.nextInval n).mem = s.mem := by
  induction n generalizing s with
  | zero => rfl
  | succ fuel ih =>
    simp only [State.nextInval]
    (repeat' split) <;> simp [ih]

@[simp] theorem State.startOwn_mem (s : State) (v : W64) : (s.startOwn v).mem = s.mem := by simp [State.startOwn]

@[simp] theorem State.nextOwn_mem (s : State) (n : Nat) : (s.nextOwn n).mem = s.mem := by
  induction n generalizing s with
  | zero => rfl
  | succ fuel ih =>
    simp only [State.nextOwn]
    (repeat' split) <;> simp [ih]

@[simp] theorem State.resumeRes_mem (s : State) (n : Nat) : (s.resumeRes n).mem = s.mem := rfl

@[simp] theorem State.deliver_mem (s : State) (v : W64) : (s.deliver v).mem = s.mem := by
  simp only [State.deliver]
  (repeat' split) <;> simp

/-! ### What comes from outside -/

@[simp] theorem State.fetchDone_mem (s : State) (c : CoreId) (a : Agent) (off code : Nat) (data : List Byte) :
    (s.fetchDone c a off code data).mem = s.mem := by
  unfold State.fetchDone
  (repeat' split) <;> simp

@[simp] theorem State.chunkDone_mem (s : State) (pa size code : Nat) (data : List Byte) :
    (s.chunkDone pa size code data).mem = s.mem := rfl

@[simp] theorem State.countOvf_mem (s : State) (t : Tenant) (q : Fin 4) : (s.countOvf t q).mem = s.mem := rfl

@[simp] theorem State.cutLinks_mem (s : State) (l : List Nat) : (s.cutLinks l).mem = s.mem := rfl

@[simp] theorem State.mendLinks_mem (s : State) (l : List Nat) : (s.mendLinks l).mem = s.mem := rfl

@[simp] theorem State.seePeers_mem (s : State) (seen : List PeerView) : (s.seePeers seen).mem = s.mem := rfl

@[simp] theorem State.namePeer_mem (s : State) (p : Fin 2) : (s.namePeer p).mem = s.mem := by simp [State.namePeer]

@[simp] theorem State.peerAccess_mem (s : State) (a : PeerAccess) : (s.peerAccess a).mem = s.mem := by
  simp [State.peerAccess]

@[simp] theorem State.countRetry_mem (s : State) (p : Fin 2) (n : Nat) : (s.countRetry p n).mem = s.mem := rfl

@[simp] theorem State.dropPeer_mem (s : State) (n : Nat) : (s.dropPeer n).mem = s.mem := rfl

@[simp] theorem State.deny_mem (s : State) : s.deny.mem = s.mem := rfl

@[simp] theorem State.complete_mem (s : State) (c : Cpl) : (s.complete c).mem = s.mem := rfl

@[simp] theorem State.sendIngress_mem (s : State) (j : Fin 4) (c : CoreId) (m : Mail) (records ten : Nat) :
    (s.sendIngress j c m records ten).mem = s.mem := rfl

@[simp] theorem State.ingress_mem (s : State) (j : Fin 4) : (s.ingress j).mem = s.mem := by
  simp only [State.ingress]
  (repeat' split) <;> simp

/-! ### Registers and bring-up -/

@[simp] theorem State.setHstat_mem (s : State) (v : W64) : (s.setHstat v).mem = s.mem := rfl

@[simp] theorem State.verify_mem (s : State) : s.verify.mem = s.mem := by
  unfold State.verify
  split <;> simp

@[simp] theorem State.bringUp_mem (s : State) (ok : Bool) : (s.bringUp ok).mem = s.mem := by
  unfold State.bringUp
  (repeat' split) <;> simp

@[simp] theorem State.outside_mem (s : State) (l : Outside) : (s.outside l).mem = s.mem := by
  unfold State.outside
  split <;> simp

@[simp] theorem State.finishRequest_mem (s : State) (answer : List Byte) : (s.finishRequest answer).mem = s.mem := rfl

/-! ### Issue -/

@[simp] theorem State.agentWait_mem (s : State) (c : CoreId) (a : Agent) : (s.agentWait c a).mem = s.mem := rfl

theorem State.takeWarning_mem (s : State) (c : CoreId) : ∀ t ∈ s.takeWarning c, t.mem = s.mem := by
  simp only [State.takeWarning]
  split <;> simp

theorem State.lsBusy_mem (s : State) (c : CoreId) (isS : Bool) : ∀ t ∈ s.lsBusy c isS, t.mem = s.mem := by
  simp only [State.lsBusy]
  split <;> simp

/-! ### Turns -/

@[simp] theorem State.nextTurn_mem (s : State) : s.nextTurn.2.mem = s.mem := by
  unfold State.nextTurn
  split <;> simp

end Sys2Proof.Machine
end

section
/-! The operations that may write the module's memory keep its canonical form, in the order of the model. Each either uses the
memory operations (`Mem.write_wf`, `Mem.writeN_wf`, `Mem.clear_wf`) or is made of operations that keep the form. -/

namespace Sys2Proof.Machine

open Sys2Proof

/-! ### Folds and branches -/

/-- A state with the memory of a canonical one is canonical. -/
theorem State.wf_of_mem {s t : State} (h : t.mem = s.mem) (hm : s.mem.wf = true) : t.mem.wf = true := by rw [h]; exact hm

theorem State.ite_wf {c : Prop} [Decidable c] {a b : State} (ha : a.mem.wf = true) (hb : b.mem.wf = true) :
    (if c then a else b).mem.wf = true := iteInduction (motive := fun u : State => u.mem.wf = true) (fun _ => ha) fun _ => hb

theorem State.foldl_wf {α : Type} {f : State → α → State} {l : List α} {s : State}
    (h : ∀ u x, u.mem.wf = true → (f u x).mem.wf = true) (hm : s.mem.wf = true) : (l.foldl f s).mem.wf = true :=
  List.foldlRecOn (motive := fun u => u.mem.wf = true) l f hm fun u hu x _ => h u x hu

/-- The same of a fold that carries a mark beside the state. -/
theorem State.foldl_fst_wf {α β : Type} {f : State × β → α → State × β} {l : List α} {r : State × β}
    (h : ∀ r x, r.1.mem.wf = true → (f r x).1.mem.wf = true) (hm : r.1.mem.wf = true) : (l.foldl f r).1.mem.wf = true :=
  List.foldlRecOn (motive := fun r => r.1.mem.wf = true) l f hm fun r hr x _ => h r x hr

theorem Mem.foldl_wf {α : Type} {f : Mem → α → Mem} {l : List α} {m : Mem}
    (h : ∀ m x, m.wf = true → (f m x).wf = true) (hm : m.wf = true) : (l.foldl f m).wf = true :=
  List.foldlRecOn (motive := fun m => m.wf = true) l f hm fun m hm x _ => h m x hm

/-! ### Fault records -/

@[simp] theorem State.ringRecord_wf {s : State} (t : Tenant) (r : W256) (hm : s.mem.wf = true) :
    (s.ringRecord t r).mem.wf = true := by simp [State.ringRecord, Mem.writeN_wf, hm]

@[simp] theorem State.holdRecord_wf {s : State} (t : Tenant) (r : W256) (hm : s.mem.wf = true) :
    (s.holdRecord t r).mem.wf = true := by simp [State.holdRecord, Mem.writeN_wf, hm]

@[simp] theorem State.postRecord_wf {s : State} (t : Tenant) (r : RecInfo) (h : Holder) (hm : s.mem.wf = true) :
    (s.postRecord t r h).mem.wf = true := by
  simp only [State.postRecord]
  (repeat' split) <;> simp [hm]

@[simp] theorem State.moveRecords_wf {s : State} (t : Tenant) (n : Nat) (hm : s.mem.wf = true) :
    (s.moveRecords t n).mem.wf = true := by
  induction n generalizing s with
  | zero => exact hm
  | succ n ih =>
    simp only [State.moveRecords]
    (repeat' split) <;> simp [ih, hm]

@[simp] theorem State.memoryError_wf {s : State} (c : CoreId) (t : Tenant) (seq va : Nat) (id : W32) (atom wr : Bool)
    (h : Holder) (hm : s.mem.wf = true) :
    (s.memoryError c t seq va id atom wr h).mem.wf = true := by simp [State.memoryError, hm]

@[simp] theorem State.memoryErrorOther_wf {s : State} (pa : Nat) (i : SliceId) (wr : Bool) (hm : s.mem.wf = true) :
    (s.memoryErrorOther pa i wr).mem.wf = true := by
  simp only [State.memoryErrorOther]
  split <;> simp [hm]

/-! ### Copies and prefetches -/

@[simp] theorem State.badIndex_wf {s : State} (core : CoreId) (c : Copy) (x : W32) (hm : s.mem.wf = true) :
    (s.badIndex core c x).mem.wf = true := by
  simp only [State.badIndex]
  (repeat' split) <;> simp [hm]

@[simp] theorem State.noteRow_wf {s : State} (core : CoreId) (c : Copy) (i : Nat) (hm : s.mem.wf = true) :
    (s.noteRow core c i).mem.wf = true := by
  unfold State.noteRow
  (repeat' split) <;> simp [hm]

@[simp] theorem State.requestL_wf {s : State} (core : CoreId) (t : Tenant) (c : Copy) (i : Nat) (again : Bool)
    (hm : s.mem.wf = true) : (s.requestL core t c i again).1.mem.wf = true := by
  simp only [State.requestL]
  (repeat' split) <;> simp [hm]

@[simp] theorem State.requestS_wf {s : State} (core : CoreId) (t : Tenant) (c : Copy) (i : Nat) (again : Bool)
    (hm : s.mem.wf = true) : (s.requestS core t c i again).1.mem.wf = true := by
  unfold State.requestS
  extract_lets k bump data
  clear_value k bump data
  split
  · split
    · exact hm
    · dsimp only
      split <;> exact hm
  all_goals
    split
    · dsimp only
      split
      · exact hm
      · exact State.noteRow_wf core c i hm
    · split
      · exact hm
      · next va _ _ =>
        extract_lets r
        have hx : r.1.mem.wf = true := State.wf_of_mem (State.xlate_mem s core .s (.copy core c.id i va) va true) hm
        clear_value r
        split
        · exact hx
        · exact hx
        · extract_lets u k
          split
          · exact hx
          · split <;> exact hx

@[simp] theorem State.pumpAsk_wf {s : State} (core : CoreId) (t : Tenant) (c : Copy) (hm : s.mem.wf = true) :
    (s.pumpAsk core t c).1.mem.wf = true := by
  simp only [State.pumpAsk]
  (repeat' split) <;> simp [hm]

@[simp] theorem State.pumpOne_wf {s : State} (core : CoreId) (id : Nat) (hm : s.mem.wf = true) :
    (s.pumpOne core id).1.mem.wf = true := by
  simp only [State.pumpOne]
  (repeat' split) <;> simp [hm]

@[simp] theorem State.pump_wf {s : State} (core : CoreId) (id n : Nat) (hm : s.mem.wf = true) :
    (s.pump core id n).mem.wf = true := by
  induction n generalizing s with
  | zero => exact hm
  | succ fuel ih =>
    simp only [State.pump]
    split <;> simp [ih, hm]

@[simp] theorem State.pumpAll_wf {s : State} (core : CoreId) (hm : s.mem.wf = true) : (s.pumpAll core).mem.wf = true := by
  have pumped (l : List Copy) : (l.foldl (fun s c => s.pump core c.id 400) s).mem.wf = true :=
    State.foldl_wf (fun _ c h => State.pump_wf core c.id 400 h) hm
  simp only [State.pumpAll]
  rw [State.foldl_mem fun _ _ => by simp, State.foldl_mem fun _ _ => State.foldl_mem fun _ _ => by simp]
  exact pumped _

@[simp] theorem State.parkCopy_wf {s : State} (core : CoreId) (id : Nat) (hm : s.mem.wf = true) :
    (s.parkCopy core id).mem.wf = true := by
  simp only [State.parkCopy]
  split
  · (repeat' split) <;> simp [hm]
  · exact hm

/-! ### Launch and service records -/

@[simp] theorem State.ringService_wf {s : State} (t : Tenant) (r : List Byte) (hm : s.mem.wf = true) :
    (s.ringService t r).mem.wf = true := by simp [State.ringService, Mem.writeN_wf, hm]

@[simp] theorem State.postService_wf {s : State} (t : Tenant) (r : List Byte) (hm : s.mem.wf = true) :
    (s.postService t r).mem.wf = true := by
  unfold State.postService
  split <;> simp [hm]

@[simp] theorem State.moveServices_wf {s : State} (t : Tenant) (n : Nat) (hm : s.mem.wf = true) :
    (s.moveServices t n).mem.wf = true := by
  induction n generalizing s with
  | zero => exact hm
  | succ fuel ih =>
    simp only [State.moveServices]
    (repeat' split) <;> simp [ih, hm]

/-! ### Atomics of L and S -/

@[simp] theorem State.parkAtom_wf {s : State} (core : CoreId) (a : AtomFly) (f : XFault) (hm : s.mem.wf = true) :
    (s.parkAtom core a f).mem.wf = true := by
  simp only [State.parkAtom]
  split <;> simp [hm]

@[simp] theorem State.pumpAtom_wf {s : State} (core : CoreId) (id : Nat) (hm : s.mem.wf = true) :
    (s.pumpAtom core id).mem.wf = true := by
  unfold State.pumpAtom
  extract_lets k
  split
  · extract_lets park release m o r u
    have parked (v : State) (code : Nat) (bad host : Bool) (hv : v.mem.wf = true) : (park v code bad host).mem.wf = true :=
      State.parkAtom_wf core _ _ hv
    have translated : u.mem.wf = true := State.wf_of_mem (State.xlate_mem s core .s _ _ true) hm
    clear_value park release u
    refine State.ite_wf hm (State.ite_wf hm (State.ite_wf (parked _ _ _ _ hm) (State.ite_wf ?_ ?_)))
    · split
      · exact parked _ _ _ _ hm
      · exact State.ite_wf (parked _ _ _ _ hm) (State.ite_wf hm (by simpa using hm))
    · split
      · exact translated
      · exact State.parkAtom_wf _ _ _ translated
      · refine State.ite_wf (parked _ _ _ _ translated) (State.ite_wf (parked _ _ _ _ translated)
          (State.ite_wf translated (State.ite_wf translated ?_)))
        split <;> simp [translated]
  · exact hm

@[simp] theorem State.pumpAtoms_wf {s : State} (core : CoreId) (hm : s.mem.wf = true) : (s.pumpAtoms core).mem.wf = true :=
  State.foldl_wf (fun _ a h => State.pumpAtom_wf core a.id h) hm

/-! ### What settles after a word -/

@[simp] theorem State.settleOnce_wf {s : State} (c : CoreId) (hm : s.mem.wf = true) : (s.settleOnce c).mem.wf = true := by
  simp only [State.settleOnce]
  (repeat' split) <;> simp [hm]

@[simp] theorem State.settle_wf {s : State} (c : CoreId) (hm : s.mem.wf = true) : (s.settle c).mem.wf = true := by
  rw [State.settle, State.strictNow_mem]
  exact State.settleOnce_wf c (State.settleOnce_wf c (State.settleOnce_wf c hm))

/-! ### The host link -/

/-- `State.writeMem_wf` as a rule for `simp`. -/
@[simp] theorem State.writeMem_keeps_wf {s : State} (pa pm : Nat) (data : List Byte) (hm : s.mem.wf = true) :
    (s.writeMem pa pm data).mem.wf = true := State.writeMem_wf pa pm data hm

/-! ### Slices -/

@[simp] theorem State.errorFor_wf {s : State} (i : SliceId) (pa : Nat) (w : Who) (bad : BitVec 4) (wr : Bool)
    (hm : s.mem.wf = true) : (s.errorFor i pa w bad wr).mem.wf = true := by
  unfold State.errorFor
  (repeat' split) <;> simp [hm]

@[simp] theorem State.zeroLine_wf {s : State} (line : Nat) (hm : s.mem.wf = true) : (s.zeroLine line).mem.wf = true :=
  Mem.clear_wf _ _ hm

@[simp] theorem State.readChannel_wf {s : State} (i : SliceId) (line : Nat) (want : BitVec 4) (e : Ecc) (w : Who) (wr : Bool)
    (hm : s.mem.wf = true) : (s.readChannel i line want e w wr).mem.wf = true := by
  unfold State.readChannel
  split <;> simp [hm]

@[simp] theorem State.writeBack_wf {s : State} (i : SliceId) (v : Line) (e : Ecc) (hm : s.mem.wf = true) :
    (s.writeBack i v e).mem.wf = true := by
  unfold State.writeBack
  (repeat' split) <;> simp [hm]

@[simp] theorem State.allocate_wf {s : State} (i : SliceId) (line : Nat) (h : Hint) (e : Ecc) (hm : s.mem.wf = true) :
    (s.allocate i line h e).mem.wf = true := by
  unfold State.allocate
  (repeat' split) <;> simp [hm]

@[simp] theorem State.readLine_wf {s : State} (pa n : Nat) (h : Hint) (w : Who) (paid : Bool) (hm : s.mem.wf = true) :
    (s.readLine pa n h w paid).1.mem.wf = true := by
  simp only [State.readLine]
  (repeat' split) <;> simp [hm]

@[simp] theorem State.readPast_wf {s : State} (pa n : Nat) (hm : s.mem.wf = true) : (s.readPast pa n).mem.wf = true :=
  State.foldl_wf (fun u p h => by dsimp only; split <;> simp [h]) hm

@[simp] theorem State.update_wf {s : State} (i : SliceId) (pa n : Nat) (h : Hint) (w : Who) (paid : Bool) (reads : Reads)
    (e : Ecc)
    (f : List Byte → Option (List Byte)) (hm : s.mem.wf = true) : (s.update i pa n h w paid reads e f).s.mem.wf = true := by
  unfold State.update
  extract_lets line mask s1 valid missing inPlace direct pay s2 s3 old bad s4
  have hpay (u : State) (k : Nat) : (pay u k).mem = u.mem := by unfold pay; split <;> simp
  have allocated : s2.mem.wf = true := by unfold s2; split <;> simp [s1, hm]
  have read : s3.mem.wf = true := by unfold s3; split <;> simp [hpay, allocated]
  have marked : s4.mem.wf = true := by unfold s4; split <;> simp [read]
  split
  · exact marked
  · extract_lets s5
    have written : s5.mem.wf = true := Mem.writeN_wf _ marked
    split <;> simp [hpay, written]

@[simp] theorem State.writePast_wf {s : State} (pa : Nat) (data : List Byte) (hm : s.mem.wf = true) :
    (s.writePast pa data).mem.wf = true := State.foldl_wf (fun _ _ h => State.update_wf _ _ _ _ _ _ _ _ _ h) hm

@[simp] theorem State.setAccessed_wf {s : State} (pte : Nat) (write : Bool) (hm : s.mem.wf = true) :
    (s.setAccessed pte write).mem.wf = true := by simp [State.setAccessed, hm]

/-! ### Events of a slice -/

@[simp] theorem State.atomAtSlice_wf {s : State} (i : SliceId) (n : Nat) (e : Ecc) (f : Flit) (pa pm : Nat) (t : Tenant)
    (r : AtomReq) (w : Who) (hm : s.mem.wf = true) : (s.atomAtSlice i n e f pa pm t r w).mem.wf = true := by
  simp only [State.atomAtSlice]
  (repeat' split) <;> simp [hm]

@[simp] theorem State.barrierAt_wf {s : State} (i : SliceId) (n : Nat) (e : Ecc) (ok : BarOp → Bool) (hm : s.mem.wf = true) :
    (s.barrierAt i n e ok).mem.wf = true := by
  unfold State.barrierAt
  (repeat' split) <;> simp [hm]

/-! ### The matrix engine -/

@[simp] theorem State.finishMat_wf {s : State} (c : CoreId) (n : Nat) (p : MWord → Bool) (hm : s.mem.wf = true) :
    (s.finishMat c n p).mem.wf = true := by
  unfold State.finishMat
  (repeat' split) <;> simp [hm]

/-! ### Instruction fetch -/

@[simp] theorem State.readCode_wf {s : State} (c : CoreId) (a : Agent) (off pa pm : Nat) (own : Bool) (hm : s.mem.wf = true) :
    (s.readCode c a off pa pm own).1.mem.wf = true := by
  simp only [State.readCode]
  (repeat' split) <;> simp [hm]

@[simp] theorem State.fetchWord_wf {s : State} (c : CoreId) (a : Agent) (off : Nat) (hm : s.mem.wf = true) :
    (s.fetchWord c a off).1.mem.wf = true := by
  simp only [State.fetchWord]
  (repeat' split) <;> simp [hm]

/-! ### Page walks -/

@[simp] theorem State.walkError_wf {s : State} (port : SliceId) (t : Tenant) (va : Nat) (hm : s.mem.wf = true) :
    (s.walkError port t va).mem.wf = true := by simp [State.walkError, hm]

@[simp] theorem State.walkReads_wf {s : State} (port : SliceId) (t : Tenant) (va : Nat) (bad : Option Nat) (h : Hint)
    (hm : s.mem.wf = true) : (s.walkReads port t va bad h).mem.wf = true := by
  unfold State.walkReads
  extract_lets r
  have read : r.1.mem.wf = true := by
    refine State.foldl_fst_wf (fun r p hr => ?_) hm
    cases bad <;> dsimp only <;> (repeat' split) <;> simp [hr]
  split <;> exact read

@[simp] theorem State.deliverFault_wf {s : State} (r : WalkReq) (code : Nat) (bad host : Bool) (hm : s.mem.wf = true) :
    (s.deliverFault r code bad host).mem.wf = true := by
  unfold State.deliverFault
  (repeat' split) <;> simp [hm]

@[simp] theorem State.fillWalk_wf {s : State} (i : IslandId) (port : SliceId) (e : Tlb) (pte : Nat) (writable : Bool)
    (ptrs : List WalkPtr) (reqs : List WalkReq) (hm : s.mem.wf = true) :
    (s.fillWalk i port e pte writable ptrs reqs).mem.wf = true := by
  simp only [State.fillWalk]
  have told (l : List WalkReq) :
      (l.foldl (fun s r => s.deliverFault r 0x11 false e.host) (s.cachePtrs port ptrs)).mem.wf = true :=
    State.foldl_wf (fun _ _ h => State.deliverFault_wf _ _ _ _ h) (by simpa using hm)
  split
  · exact told _
  · rw [State.foldl_mem fun _ _ => by simp, State.fillIsland_mem]
    exact State.setAccessed_wf _ _ (told _)

@[simp] theorem State.endWalk_wf {s : State} (i : IslandId) (w : Walk) (bad : Option Nat) (hm : s.mem.wf = true) :
    (s.endWalk i w bad).mem.wf = true := by
  have hr := State.walkReads_wf (walkPort i w.va) w.tenant w.va bad .dflt hm
  simp only [State.endWalk]
  refine State.foldl_wf (fun _ _ h => State.settle_wf _ h) ?_
  split
  · exact State.fillWalk_wf _ _ _ _ _ _ _ (by simpa using hr)
  · exact State.foldl_wf (fun _ _ h => State.deliverFault_wf _ _ _ _ h) hr

@[simp] theorem State.fetchAhead_wf {s : State} (c : CoreId) (a : Agent) (off : Nat) (hm : s.mem.wf = true) :
    (s.fetchAhead c a off).mem.wf = true := by
  simp only [State.fetchAhead]
  (repeat' split) <;> simp [hm]

/-! ### Memory of the dispatcher -/

@[simp] theorem State.dispXlate_wf {s : State} (t : Tenant) (va : Nat) (write : Bool) (hm : s.mem.wf = true) :
    (s.dispXlate t va write).1.mem.wf = true := by
  simp only [State.dispXlate]
  (repeat' split) <;> simp [hm]

@[simp] theorem State.dispReadPage_wf {s : State} (t : Tenant) (va n : Nat) (hm : s.mem.wf = true) :
    (s.dispReadPage t va n).1.mem.wf = true := by
  simp only [State.dispReadPage]
  (repeat' split) <;> simp [hm]

@[simp] theorem State.dispRead_wf {s : State} (t : Tenant) (va n fuel : Nat) (hm : s.mem.wf = true) :
    (s.dispRead t va n fuel).1.mem.wf = true := by
  induction fuel generalizing s va n with
  | zero => exact hm
  | succ fuel ih =>
    have hp := State.dispReadPage_wf t va (min n (4096 - va % 4096)) hm
    simp only [State.dispRead]
    (repeat' split) <;> simp [hm, hp, ih]

@[simp] theorem State.readTenant_wf {s : State} (t : Tenant) (va n : Nat) (hm : s.mem.wf = true) :
    (s.readTenant t va n).1.mem.wf = true := State.dispRead_wf t va n _ hm

@[simp] theorem State.dispFault_wf {s : State} (t : Tenant) (f : XFault) (atom wr : Bool) (hm : s.mem.wf = true) :
    (s.dispFault t f atom wr).mem.wf = true := by simp [State.dispFault, hm]

@[simp] theorem State.counterPlace_wf {s : State} (t : Tenant) (va : Nat) (write : Bool) (hm : s.mem.wf = true) :
    (s.counterPlace t va write).1.mem.wf = true := by
  simp only [State.counterPlace]
  (repeat' split) <;> simp [hm]

@[simp] theorem State.kernelFault_wf {s : State} (k : Kernel) (n : Nat) (f : XFault) (hm : s.mem.wf = true) :
    (s.kernelFault k n f).mem.wf = true := by
  unfold State.kernelFault
  split <;> simp [hm]

@[simp] theorem State.readCounter_wf {s : State} (k : Kernel) (n : Nat) (hm : s.mem.wf = true) :
    (s.readCounter k n).mem.wf = true := by
  simp only [State.readCounter]
  (repeat' split) <;> simp [hm]

@[simp] theorem State.readCounters_wf {s : State} (id : Nat) (hm : s.mem.wf = true) : (s.readCounters id).mem.wf = true := by
  simp only [State.readCounters]
  (repeat' split) <;> simp [hm]

@[simp] theorem State.writeStatus_wf {s : State} (t : Tenant) (va : Nat) (v : W64) (hm : s.mem.wf = true) :
    (s.writeStatus t va v).1.mem.wf = true := by
  simp only [State.writeStatus]
  (repeat' split) <;> simp [hm]

@[simp] theorem State.rereadAt_wf {s : State} (t : Tenant) (va : Nat) (hm : s.mem.wf = true) :
    (s.rereadAt t va).mem.wf = true := State.foldl_wf (fun _ _ h => State.readCounters_wf _ h) hm

@[simp] theorem State.payKernel_wf {s : State} (id : Nat) (hm : s.mem.wf = true) : (s.payKernel id).mem.wf = true := by
  unfold State.payKernel
  split
  · exact hm
  · extract_lets status s1
    have written : status.1.mem.wf = true := State.writeStatus_wf _ _ _ hm
    have paid : s1.mem.wf = true := by
      unfold s1
      (repeat' split) <;> simp [hm, written]
    split
    · exact paid
    · split
      · exact paid
      · split
        · extract_lets r
          have placed : r.1.mem.wf = true := State.counterPlace_wf _ _ _ paid
          split
          · exact State.kernelFault_wf _ _ _ placed
          · exact State.rereadAt_wf _ _ (State.writePast_wf _ _ (State.readPast_wf _ _ placed))
        · exact paid

@[simp] theorem State.completeKernel_wf {s : State} (id : Nat) (hm : s.mem.wf = true) : (s.completeKernel id).mem.wf = true := by
  simp [State.completeKernel, hm]

@[simp] theorem State.payOwed_wf {s : State} (o : OwedStatus) (hm : s.mem.wf = true) : (s.payOwed o).mem.wf = true := by
  simp only [State.payOwed]
  (repeat' split) <;> simp [hm]

@[simp] theorem State.dispRetry_wf {s : State} (hm : s.mem.wf = true) : s.dispRetry.mem.wf = true := by
  simp only [State.dispRetry]
  refine State.foldl_wf (fun _ _ h => State.payOwed_wf _ h) ?_
  exact State.foldl_wf (fun _ _ h => by split <;> simp [h]) hm

/-! ### Acceptance of a kernel -/

@[simp] theorem State.rejectRecord_wf {s : State} (t : Tenant) (q : Fin 4) (r : LRec) (code detail : Nat) (hm : s.mem.wf = true) :
    (s.rejectRecord t q r code detail).mem.wf = true := by
  simp only [State.rejectRecord]
  split <;> simp [hm]

/-- A check of the dispatcher that leaves memory canonical, whether it answers or stops. -/
def DispM.KeepsWf {α : Type} (m : DispM α) : Prop := ∀ s : State, s.mem.wf = true → (m.run s).2.mem.wf = true

namespace DispM

theorem pure_keepsWf {α : Type} (a : α) : KeepsWf (pure a) := fun _ hm => hm

theorem throw_keepsWf {α : Type} (e : DispStop) : KeepsWf (throw e : DispM α) := fun _ hm => hm

theorem get_keepsWf : KeepsWf (get : DispM State) := fun _ hm => hm

theorem KeepsWf.bind {α β : Type} {m : DispM α} {f : α → DispM β} (h : m.KeepsWf) (hf : ∀ a, (f a).KeepsWf) :
    KeepsWf (m >>= f) := by
  intro s hm
  have hs := h s hm
  have split : (m >>= f).run s = match (m.run s).1 with
      | .ok a => (f a).run (m.run s).2
      | .error e => (.error e, (m.run s).2) := by
    show ExceptT.bindCont (fun a => f a) (m.run s).1 (m.run s).2 = _
    cases (m.run s).1 <;> rfl
  rw [split]
  cases (m.run s).1 with
  | ok a => exact hf a _ hs
  | error e => exact hs

theorem need_keepsWf (b : Bool) (code : Nat) : KeepsWf (need b code) := by
  unfold need
  split
  · exact pure_keepsWf ()
  · exact throw_keepsWf _

theorem imageBytes_keepsWf (t : Tenant) (va n : Nat) : KeepsWf (imageBytes t va n) := by
  intro s hm
  have hr := State.readTenant_wf t va n hm
  change ((match (s.readTenant t va n).2 with
    | .ok bs => pure bs
    | .fault f => throw (.reject 0x87 f.code)
    | .wait => throw .wait : DispM (List Byte)).run (s.readTenant t va n).1).2.mem.wf = true
  split <;> exact hr

theorem readLevel_keepsWf (t : Tenant) (pva psize : Nat) (l : List Byte) : KeepsWf (readLevel t pva psize l) := by
  unfold readLevel
  split
  · exact pure_keepsWf _
  · exact (imageBytes_keepsWf t _ _).bind fun _ => pure_keepsWf _

theorem mapM_keepsWf {α β : Type} {f : α → DispM β} (hf : ∀ a, (f a).KeepsWf) (l : List α) : KeepsWf (l.mapM f) := by
  induction l with
  | nil => exact pure_keepsWf _
  | cons a l ih =>
    rw [List.mapM_cons]
    exact (hf a).bind fun _ => ih.bind fun _ => pure_keepsWf _

theorem checkRecord_keepsWf (t : Tenant) (q : Nat) (r : LRec) (id : Nat) : KeepsWf (checkRecord t q r id) := by
  unfold checkRecord
  extract_lets bs image
  refine (need_keepsWf _ _).bind fun _ => (imageBytes_keepsWf _ _ _).bind fun h => ?_
  extract_lets d b table
  have table_keepsWf (o n w most : Nat) : KeepsWf (table o n w most) := by
    unfold table
    split
    · exact pure_keepsWf _
    · exact (imageBytes_keepsWf _ _ _).bind fun _ => pure_keepsWf _
  refine (table_keepsWf _ _ _ _).bind fun vs => (table_keepsWf _ _ _ _).bind fun cs => (table_keepsWf _ _ _ _).bind fun ls =>
    (table_keepsWf _ _ _ _).bind fun hs => (table_keepsWf _ _ _ _).bind fun rs => (table_keepsWf _ _ _ _).bind fun ps =>
    (table_keepsWf _ _ _ _).bind fun es => ?_
  refine (mapM_keepsWf (readLevel_keepsWf _ _ _) _).bind fun levels => ?_
  exact (need_keepsWf _ _).bind fun _ => (need_keepsWf _ _).bind fun _ => (need_keepsWf _ _).bind fun _ =>
    (need_keepsWf _ _).bind fun _ => (need_keepsWf _ _).bind fun _ => get_keepsWf.bind fun _ => (need_keepsWf _ _).bind fun _ =>
    (need_keepsWf _ _).bind fun _ => pure_keepsWf _

end DispM

@[simp] theorem State.checkOne_wf {s : State} (t : Tenant) (q : Fin 4) (r : LRec) (hm : s.mem.wf = true) :
    (s.checkOne t q r).mem.wf = true := by
  have checked : ((checkRecord t q.val r s.disp.nextId).run s).2.mem.wf = true := DispM.checkRecord_keepsWf t q.val r _ s hm
  unfold State.checkOne
  extract_lets id res u
  split
  · exact checked
  · exact State.rejectRecord_wf _ _ _ _ _ checked
  · next k _ =>
    extract_lets s1 s2 s3
    have read : s3.mem.wf = true := State.readCounters_wf id (by simpa [s2, s1] using checked)
    split
    · exact State.completeKernel_wf _ (by simpa [State.modQueue] using read)
    · exact read

@[simp] theorem State.checkAll_wf {s : State} (hm : s.mem.wf = true) : s.checkAll.mem.wf = true := by
  refine State.foldl_wf (fun _ _ h => ?_) hm
  split
  · exact State.foldl_wf (fun _ _ h => State.foldl_wf (fun _ _ h => State.checkOne_wf _ _ _ h) h) h
  · exact h

/-! ### Gangs -/

@[simp] theorem State.startGang_wf {s : State} (id : Nat) (i : IslandId) (v : Nat) (hm : s.mem.wf = true) :
    (s.startGang id i v).1.mem.wf = true := by
  simp only [State.startGang]
  (repeat' split) <;> simp [hm]

@[simp] theorem State.countTask_wf {s : State} (id : Nat) (killed : Option Nat) (hm : s.mem.wf = true) :
    (s.countTask id killed).mem.wf = true := by
  simp only [State.countTask]
  (repeat' split) <;> simp [hm]

@[simp] theorem State.reportTask_wf {s : State} (id : Nat) (killed : Option Nat) (hm : s.mem.wf = true) :
    (s.reportTask id killed).mem.wf = true := by
  simp only [State.reportTask]
  (repeat' split) <;> simp [hm]

@[simp] theorem State.endTask_wf {s : State} (c : CoreId) (t : Task) (hm : s.mem.wf = true) : (s.endTask c t).mem.wf = true := by
  simp only [State.endTask]
  split <;> simp [hm]

/-! ### Save and restore -/

@[simp] theorem State.writeSlot_wf {s : State} (c : CoreId) (t : Task) (base : Nat) (hm : s.mem.wf = true) :
    (s.writeSlot c t base).mem.wf = true :=
  Mem.foldl_wf (fun _ p h => Mem.write_wf p.2 h) (Mem.foldl_wf (fun _ p h => Mem.writeN_wf p.2 h) (Mem.clear_wf _ _ hm))

@[simp] theorem State.saveMember_wf {s : State} (g : Gang) (c : CoreId) (slot : Nat) (hm : s.mem.wf = true) :
    (s.saveMember g c slot).mem.wf = true := by
  unfold State.saveMember
  split <;> simp [hm]

@[simp] theorem State.resumeMember_wf {s : State} (c : CoreId) (hm : s.mem.wf = true) : (s.resumeMember c).mem.wf = true := by
  simp only [State.resumeMember]
  (repeat' split) <;> simp [hm]

@[simp] theorem State.restoreGang_wf {s : State} (g : Gang) (i : IslandId) (hm : s.mem.wf = true) :
    (s.restoreGang g i).mem.wf = true := by
  simp only [State.restoreGang]
  refine State.foldl_wf (fun _ _ h => State.resumeMember_wf _ h) ?_
  rw [State.foldl_mem fun _ _ => by simp]
  exact hm

/-! ### Scheduling -/

@[simp] theorem State.place_wf {s : State} (t : Tenant) (h : Head) (hm : s.mem.wf = true) : (s.place t h).1.mem.wf = true := by
  unfold State.place
  (repeat' split) <;> simp [hm]

@[simp] theorem State.serve_wf {s : State} (t : Tenant) (c : Fin 4) (n : Nat) (hm : s.mem.wf = true) :
    (s.serve t c n).1.mem.wf = true := by
  induction n generalizing s with
  | zero => exact hm
  | succ fuel ih =>
    simp only [State.serve]
    (repeat' split) <;> simp [hm, ih]

@[simp] theorem State.turn_wf {s : State} (c : Fin 4) (t : Tenant) (hm : s.mem.wf = true) : (s.turn c t).1.mem.wf = true := by
  unfold State.turn
  split <;> simp [hm]

@[simp] theorem State.round_wf {s : State} (c : Fin 4) (hm : s.mem.wf = true) : (s.round c).1.mem.wf = true :=
  State.foldl_fst_wf (fun _ _ h => State.turn_wf _ _ h) (r := (s, false)) hm

@[simp] theorem State.rounds_wf {s : State} (c : Fin 4) (n : Nat) (hm : s.mem.wf = true) : (s.rounds c n).mem.wf = true := by
  induction n generalizing s with
  | zero => exact hm
  | succ fuel ih =>
    have hr := State.round_wf c hm
    simp only [State.rounds]
    split
    · exact ih hr
    · exact hr

@[simp] theorem State.select_wf {s : State} (hm : s.mem.wf = true) : s.select.mem.wf = true := by
  simp only [State.select, State.preemptAll_mem]
  refine State.foldl_wf (fun _ _ h => State.rounds_wf _ _ h) ?_
  rw [State.foldl_mem fun _ _ => by simp]
  exact hm

@[simp] theorem State.dispatch_wf {s : State} (hm : s.mem.wf = true) : s.dispatch.mem.wf = true := by
  have checked : { s with disp := { s.disp with look := false } }.checkAll.mem.wf = true := State.checkAll_wf hm
  unfold State.dispatch
  extract_lets _ s1 s2
  have forwarded : s2.mem.wf = true := by
    rw [show s2.mem = s1.mem from State.foldl_mem fun _ _ => by simp]
    exact checked
  split
  · exact State.select_wf forwarded
  · exact forwarded

/-! ### Invalidations, owners and resumes -/

@[simp] theorem State.zeroGranule_wf {s : State} (g : Nat) (hm : s.mem.wf = true) : (s.zeroGranule g).mem.wf = true :=
  Mem.clear_wf _ _ hm

@[simp] theorem State.recordAction_wf {s : State} (t : Tenant) (m : Saved) (id : W32) (replay : Bool) (hm : s.mem.wf = true) :
    (s.recordAction t m id replay).mem.wf = true := by
  simp only [State.recordAction]
  split
  · exact Mem.write_wf _ hm
  · exact hm

@[simp] theorem State.resume_wf {s : State} (v : W64) (replay : Bool) (hm : s.mem.wf = true) :
    (s.resume v replay).mem.wf = true := by
  simp only [State.resume]
  (repeat' split) <;> simp [hm]

@[simp] theorem State.drainRecords_wf {s : State} (t : Tenant) (hm : s.mem.wf = true) : (s.drainRecords t).mem.wf = true :=
  State.foldl_wf (fun _ _ h => State.settle_wf _ h) (State.moveRecords_wf t _ hm)

/-! ### What comes from outside -/

@[simp] theorem State.atomRefused_wf {s : State} (w : Who) (hm : s.mem.wf = true) : (s.atomRefused w).mem.wf = true := by
  unfold State.atomRefused
  (repeat' split) <;> simp [hm]

@[simp] theorem State.hostEnds_wf {s : State} (r : HostReq) (code : Nat) (data : List Byte) (hm : s.mem.wf = true) :
    (s.hostEnds r code data).mem.wf = true := by
  simp only [State.hostEnds]
  (repeat' split) <;> simp [hm]

@[simp] theorem State.submit_wf {s : State} (t : Tenant) (q : Fin 4) (va : Nat) (hm : s.mem.wf = true) :
    (s.submit t q va).mem.wf = true := by
  simp only [State.submit]
  (repeat' split) <;> simp [hm]

@[simp] theorem State.retrySubs_wf {s : State} (hm : s.mem.wf = true) : s.retrySubs.mem.wf = true := by
  unfold State.retrySubs
  extract_lets l _ s1
  have tried : s1.mem.wf = true := State.foldl_wf (fun _ _ h => State.submit_wf _ _ _ h) hm
  split <;> exact tried

@[simp] theorem State.hostRead_wf {s : State} (i : SliceId) (pa n : Nat) (e : Ecc) (hm : s.mem.wf = true) :
    (s.hostRead i pa n e).mem.wf = true := by
  simp only [State.hostRead]
  split <;> simp [hm]

/-! ### Registers and bring-up -/

@[simp] theorem State.mgmtWrite_wf {s : State} (r : Reg) (v : W64) (hm : s.mem.wf = true) : (s.mgmtWrite r v).mem.wf = true := by
  unfold State.mgmtWrite
  split <;> simp [hm]

@[simp] theorem State.hostWrites_wf {s : State} (r : Reg) (v : W64) (hm : s.mem.wf = true) :
    (s.hostWrites r v).mem.wf = true := by
  unfold State.hostWrites
  (repeat' split) <;> simp [hm]

/-! ### Issue -/

@[simp] theorem State.fetchBundle_wf {s : State} (c : CoreId) (n off : Nat) (hm : s.mem.wf = true) :
    (s.fetchBundle c n off).1.mem.wf = true := by
  induction n generalizing s off with
  | zero => exact hm
  | succ fuel ih =>
    have hw := State.fetchWord_wf c .c off hm
    simp only [State.fetchBundle]
    (repeat' split) <;> simp [hw, ih]

@[simp] theorem State.afterIssue_wf {s : State} (c : CoreId) (a : Agent) (hm : s.mem.wf = true) :
    (s.afterIssue c a).mem.wf = true := by
  simp only [State.afterIssue]
  (repeat' split) <;> simp [hm]

/-! ### Turns -/

@[simp] theorem State.dispatches_wf {s : State} (n : Nat) (hm : s.mem.wf = true) : (s.dispatches n).mem.wf = true := by
  induction n generalizing s with
  | zero => exact hm
  | succ fuel ih =>
    simp only [State.dispatches]
    split <;> simp [hm, ih]

@[simp] theorem State.afterTurn_wf {s : State} (hm : s.mem.wf = true) : s.afterTurn.mem.wf = true := by
  simp [State.afterTurn, hm]

end Sys2Proof.Machine
end

section
/-! Every step keeps the module's memory canonical (O60): each instruction, then each turn. -/

namespace Sys2Proof.Machine

open Sys2Proof

/-- The memory of the next state, where the outcome is one, is canonical. -/
def CanonicalNext (o : Out) : Prop := ∀ t, o = .next t → t.mem.wf = true

theorem canonicalNext_next (t : State) : CanonicalNext (.next t) ↔ t.mem.wf = true :=
  ⟨fun h => h t rfl, fun h u hu => by cases hu; exact h⟩

theorem canonicalNext_fault (f : Fault) : CanonicalNext (.fault f) := fun _ h => nomatch h

theorem canonicalNext_refused (r : Refusal) : CanonicalNext (.refused r) := fun _ h => nomatch h

theorem CanonicalNext.of_mem {s t : State} (h : t.mem = s.mem) (hm : s.mem.wf = true) : CanonicalNext (.next t) :=
  (canonicalNext_next t).mpr (State.wf_of_mem h hm)

/-! ### The instructions of more than one step -/

theorem execFence_canonical {s : State} (sc : Scope) (hm : s.mem.wf = true) : CanonicalNext (execFence sc s) := by
  simp only [execFence, canonicalNext_next]
  split
  · next t ht => exact State.wf_of_mem (State.xReleaseWait_mem s sc t ht) hm
  · exact hm

theorem execBxl_canonical {s : State} (a : BitVec 5) (k : BitVec 3) (hm : s.mem.wf = true) :
    CanonicalNext (execBxl a k s) := by
  simp only [execBxl, canonicalNext_next]
  split
  · exact hm
  · exact State.wf_of_mem (State.xBlock_mem s _ _ _ fun _ _ => rfl) hm

theorem execBarr_canonical {s : State} (a : BitVec 5) (hm : s.mem.wf = true) : CanonicalNext (execBarr a s) := by
  simp only [execBarr, canonicalNext_next]
  split
  · exact hm
  · exact State.wf_of_mem (State.xBarrier_mem s _ _ _ fun _ _ => rfl) hm

theorem execBexp_canonical {s : State} (a b : BitVec 5) (hm : s.mem.wf = true) : CanonicalNext (execBexp a b s) := by
  simp only [execBexp, canonicalNext_next]
  split
  · exact hm
  · exact State.wf_of_mem (State.xBarrier_mem s _ _ _ fun _ _ => rfl) hm

theorem execBwait_canonical {s : State} (a b : BitVec 5) (k : BitVec 6) (hm : s.mem.wf = true) :
    CanonicalNext (execBwait a b k s) := by
  simp only [execBwait, canonicalNext_next]
  split
  · exact hm
  · split
    · exact hm
    · exact State.wf_of_mem (State.xBarrier_mem s _ _ _ fun _ _ => rfl) hm

theorem execMsend_canonical {s : State} (d a b : BitVec 5) (hm : s.mem.wf = true) : CanonicalNext (execMsend d a b s) := by
  simp only [execMsend, canonicalNext_next]
  split
  · exact hm
  · split
    · simpa using hm
    · split
      · simpa using hm
      · split
        · simpa using hm
        · exact State.wf_of_mem (State.xGated_mem s _ _ _ (by split <;> rfl)) hm

theorem execLsSemv_canonical {s : State} (i : BitVec 6) (n : BitVec 14) (t : Token) (hm : s.mem.wf = true) :
    CanonicalNext (execLsSemv i n t s) := by
  simp only [execLsSemv, canonicalNext_next]
  exact State.wf_of_mem (State.lsPops_mem s _ _ fun _ => rfl) hm

theorem execHset_canonical {s : State} (h : BitVec 6) (a : BitVec 4) (k : BitVec 2) (t : Token) (hm : s.mem.wf = true) :
    CanonicalNext (execHset h a k t s) := by
  simp only [execHset, canonicalNext_next]
  exact State.wf_of_mem (State.lsPops_mem s _ _ fun _ => rfl) hm

theorem execPrefetch_canonical {s : State} (h : BitVec 6) (a : BitVec 4) (hint : Hint) (t : Token) (hm : s.mem.wf = true) :
    CanonicalNext (execPrefetch h a hint t s) := by
  simp only [execPrefetch, canonicalNext_next]
  split
  · simpa using hm
  · exact State.wf_of_mem (State.lsPops_mem s _ _ fun _ => rfl) hm

theorem execLOpen_canonical {s : State} (w a : BitVec 4) (hint : Hint) (t : Token) (hm : s.mem.wf = true) :
    CanonicalNext (execLOpen w a hint t s) := by
  simp only [execLOpen, canonicalNext_next]
  split <;> simp [hm]

theorem execLClose_canonical {s : State} (w : BitVec 4) (t : Token) (hm : s.mem.wf = true) :
    CanonicalNext (execLClose w t s) := by
  simp only [execLClose, canonicalNext_next]
  exact State.wf_of_mem (State.lsPops_mem s _ _ fun _ => rfl) hm

theorem execWatermarkStallLimit_canonical {s : State} (c : CoreId) (a : Agent) (hm : s.mem.wf = true) :
    CanonicalNext (execWatermarkStallLimit c a s) := by
  simp only [execWatermarkStallLimit, canonicalNext_next]
  (repeat' split) <;> simp [hm]

theorem execQueueDeadlock_canonical {s : State} (c : CoreId) (hm : s.mem.wf = true) :
    CanonicalNext (execQueueDeadlock c s) := by
  simp only [execQueueDeadlock, canonicalNext_next]
  split <;> simp [hm]

theorem execHandlerStart_canonical {s : State} (c : CoreId) (hm : s.mem.wf = true) :
    CanonicalNext (execHandlerStart c s) := by
  simp only [execHandlerStart, canonicalNext_next]
  split <;> simp [hm]

theorem execRampTick_canonical {s : State} (slope : Slope) (hm : s.mem.wf = true) :
    CanonicalNext (execRampTick slope s) := by
  simp only [execRampTick, canonicalNext_next]
  split
  · rwa [State.foldl_mem fun _ _ => by simp]
  · exact hm

theorem execMulticastWindowClose_canonical {s : State} (i : SliceId) (n : Nat) (hm : s.mem.wf = true) :
    CanonicalNext (execMulticastWindowClose i n s) := by
  simp only [execMulticastWindowClose, canonicalNext_next]
  split
  · exact hm
  · split
    · exact hm
    · split
      · simpa using hm
      · rw [State.modSlice_mem, State.chargeShared_mem, State.foldl_mem fun _ _ => by simp,
          State.foldl_mem fun _ _ => by split <;> simp]
        exact hm

theorem execSectorWrite_canonical {s : State} (i : SliceId) (n : Nat) (e : Ecc) (hm : s.mem.wf = true) :
    CanonicalNext (execSectorWrite i n e s) := by
  simp only [execSectorWrite, canonicalNext_next]
  (repeat' split) <;> simp [hm]

theorem execSectorLanding_canonical {s : State} (c : CoreId) (n : Nat) (hm : s.mem.wf = true) :
    CanonicalNext (execSectorLanding c n s) := by
  simp only [execSectorLanding, canonicalNext_next]
  (repeat' split) <;> simp [hm]

theorem execLoadValueReturn_canonical {s : State} (c : CoreId) (n : Nat) (hm : s.mem.wf = true) :
    CanonicalNext (execLoadValueReturn c n s) := by
  simp only [execLoadValueReturn, canonicalNext_next]
  (repeat' split) <;> simp [hm]

theorem execLossNotice_canonical {s : State} (c : CoreId) (n : Nat) (hm : s.mem.wf = true) :
    CanonicalNext (execLossNotice c n s) := by
  simp only [execLossNotice, canonicalNext_next]
  (repeat' split) <;> simp [hm]

theorem execAtomicReply_canonical {s : State} (c : CoreId) (n : Nat) (hm : s.mem.wf = true) :
    CanonicalNext (execAtomicReply c n s) := by
  simp only [execAtomicReply, canonicalNext_next]
  (repeat' split) <;> simp [hm]

theorem execPutSectorArrival_canonical {s : State} (c : CoreId) (n : Nat) (hm : s.mem.wf = true) :
    CanonicalNext (execPutSectorArrival c n s) := by
  simp only [execPutSectorArrival, canonicalNext_next]
  (repeat' split) <;> simp [hm]

theorem execBarrierAcknowledgement_canonical {s : State} (c : CoreId) (n : Nat) (hm : s.mem.wf = true) :
    CanonicalNext (execBarrierAcknowledgement c n s) := by
  simp only [execBarrierAcknowledgement, canonicalNext_next]
  (repeat' split) <;> simp [hm]

theorem execMessageAcceptance_canonical {s : State} (c : CoreId) (n : Nat) (hm : s.mem.wf = true) :
    CanonicalNext (execMessageAcceptance c n s) := by
  simp only [execMessageAcceptance, canonicalNext_next]
  (repeat' split) <;> simp [hm]

theorem execTaskCompletion_canonical {s : State} (c : CoreId) (hm : s.mem.wf = true) :
    CanonicalNext (execTaskCompletion c s) := by
  simp only [execTaskCompletion, canonicalNext_next]
  (repeat' split) <;> simp [hm]

theorem execPreemption_canonical {s : State} (g : Nat) (hm : s.mem.wf = true) : CanonicalNext (execPreemption g s) := by
  simp only [execPreemption, canonicalNext_next]
  split
  · exact hm
  · split
    · exact State.foldl_wf (fun _ _ h => State.saveMember_wf _ _ _ h) hm
    · exact hm

theorem execEnergyTick_canonical {s : State} (rail : List Nat) (oh emod : Nat) (temps : List Nat) (hm : s.mem.wf = true) :
    CanonicalNext (execEnergyTick rail oh emod temps s) := by
  unfold execEnergyTick
  rw [canonicalNext_next]
  split
  · extract_lets s1 s2 s3 g left
    have shared : s1.mem = s.mem := State.foldl_mem fun _ _ => by simp
    have sensed : s2.mem = s1.mem := State.foldl_mem fun _ _ => rfl
    have gated : s3.mem = s2.mem := State.foldl_mem fun _ _ => rfl
    clear_value s3
    exact State.wf_of_mem (gated.trans (sensed.trans shared)) hm
  · exact hm

theorem execGovernorIntervalBoundary_canonical {s : State} (hm : s.mem.wf = true) :
    CanonicalNext (execGovernorIntervalBoundary s) := by
  unfold execGovernorIntervalBoundary
  rw [canonicalNext_next]
  split
  · extract_lets _ s1 s2 s3 s4 s5
    have gated : s2.mem = s.mem := by
      unfold s2
      split
      · rfl
      · exact State.foldl_mem fun _ _ => rfl
    have granted : s3.mem = s2.mem := State.grant_mem s2
    have opened : s4.mem = s3.mem := State.foldl_mem fun _ _ => rfl
    have decided : s5.mem = s4.mem := State.foldl_mem fun _ _ => State.decideIsland_mem _ _
    clear_value s5
    have canon : s5.mem.wf = true := State.wf_of_mem (decided.trans (opened.trans (granted.trans gated))) hm
    exact State.dispRetry_wf canon
  · exact hm

theorem execLaunchForward_canonical {s : State} (m : Forward) (hm : s.mem.wf = true) :
    CanonicalNext (execLaunchForward m s) := by
  simp only [execLaunchForward, canonicalNext_next]
  (repeat' split) <;> simp [hm]

theorem execTaskCompletionReport_canonical {s : State} (m : Report) (hm : s.mem.wf = true) :
    CanonicalNext (execTaskCompletionReport m s) := by
  simp only [execTaskCompletionReport, canonicalNext_next]
  (repeat' split) <;> simp [hm]

theorem execHostBar2Access_canonical {s : State} (off : Nat) (acc : HostAcc) (e : Ecc) (hm : s.mem.wf = true) :
    CanonicalNext (execHostBar2Access off acc e s) := by
  simp only [execHostBar2Access, canonicalNext_next]
  (repeat' split) <;> simp [hm]

theorem execModuleReset_canonical (s : State) : CanonicalNext (execModuleReset s) := (canonicalNext_next _).mpr rfl

/-! ### Every instruction -/

theorem exec_canonical {s : State} (i : Instr) (hm : s.mem.wf = true) : CanonicalNext (exec i s) := by
  cases i with
  | xAdd | xSub | xAnd | xOr | xXor | xAndn | xSll | xSrl | xSra | xSlt | xSltu | xSeq | xSne | xMin | xMax | xMinu | xMaxu
  | xSel | xClz | xCtz | xPopc | xMul | xMulh | xMulhu | xDiv | xDivu | xRem | xRemu | bxp | xAddi | xAndi | xOri | xXori
  | xSlti | xSltiu | xLui | xSlli | xSrli | xSrai => exact .of_mem (State.xAlu_mem _ _ _ _) hm
  | xBeq | xBne | xBlt | xBge | xBltu | xBgeu => exact .of_mem (State.xBranch_mem _ _ _ _ _) hm
  | xJ => exact .of_mem (State.xJump_mem _ _ _) hm
  | ldD | ldW | ldWu | ldH | ldHu | ldB | ldBu => exact .of_mem (State.xLoad_mem _ _ _ _) hm
  | stD | stW | stH | stB => exact .of_mem (State.xStore_mem _ _ _) hm
  | xPushBare => exact .of_mem (State.xPush_mem _ _ _) hm
  | xPopBare => exact .of_mem (State.xPop_mem _ _ _) hm
  | xNop => exact .of_mem (State.xRetire_mem _ _) hm
  | lsAddi | lsAdd | lsSub | lsMul | lsAnd | lsOr | lsXor | lsSll | lsSrl | li | lih | shli | shri | lset | wget | lsNop
  | lsEnd => exact .of_mem (State.lsOp_mem _ _ _) hm
  | lnext | bz | bnz | lsJ => exact .of_mem (State.lsJump_mem _ _ _ _) hm
  | qpopValue | qpopBare => exact .of_mem (State.lsQpop_mem _ _ _ _) hm
  | qpushValue | qpushBare => exact .of_mem (State.lsQpush_mem _ _ _ _) hm
  | lCopy | copyO | copyPk | copyUk | gather | wcopy | scatter | put | acopy =>
    exact .of_mem (State.lsCopy_mem _ _ _ _ _ _ _ _ _ _ _ _) hm
  | atom32 | atom64 => exact .of_mem (State.lsAtom_mem _ _ _) hm
  | fadd | fsub | fmul | fdiv | fmin | fmax | fma | fms | fnma | fnms | cAdd | cSub | cMul | cMulh | cMin | cMax | cAnd | cOr
  | cXor | cShl | cShr | cmp | cSel | cMov | fabs | fneg | fsqrt | frcp | frsqrt | fexp2 | flog2 | ftanh | cAbs | cNeg | cNot
  | cClz | cPopc | cvt | cvta | rot | bcast | red | xpose | vbx | vbxl | treemask | vld | vst | pcfg | shape | cloop | rtag
  | rdrop | rstat | ctok | cNop | cEnd | cSema | cSemv | fcsR | fcsW | tld | tst | tzero | tscale | tsave | tload | draw
  | mmaFp4 | mmaI4 | mmaN4 | mmaE4m3 | mmaE5m2 | mmaI8 | mmaN8 | mmaBf16 | mmaFp16 | mmazFp4 | mmazI4 | mmazN4 | mmazE4m3
  | mmazE5m2 | mmazI8 | mmazN8 | mmazBf16 | mmazFp16 => exact .of_mem (State.cBundle_mem _ _) hm
  | matrixWordCompletion | drawCompletion => exact (canonicalNext_next _).mpr (State.finishMat_wf _ _ _ hm)
  | tinvPage | tinvTenant | tinvAll => exact .of_mem (State.tinv_mem _ _ _) hm
  | fetchAhead => exact (canonicalNext_next _).mpr (State.fetchAhead_wf _ _ _ hm)
  | creditReturn | droopTrip | droopClear | overcurrent | currentLimitClear | pcieLinkDown | pcieLinkUp =>
    exact (canonicalNext_next _).mpr hm
  | fence => exact execFence_canonical _ hm
  | bxl => exact execBxl_canonical _ _ hm
  | barr => exact execBarr_canonical _ hm
  | bexp => exact execBexp_canonical _ _ hm
  | bwait => exact execBwait_canonical _ _ _ hm
  | msend => exact execMsend_canonical _ _ _ hm
  | lsSemv => exact execLsSemv_canonical _ _ _ hm
  | hset => exact execHset_canonical _ _ _ _ hm
  | prefetch h a hint t => exact execPrefetch_canonical h a hint t hm
  | lOpen => exact execLOpen_canonical _ _ _ _ hm
  | lClose => exact execLClose_canonical _ _ hm
  | watermarkStallLimit => exact execWatermarkStallLimit_canonical _ _ hm
  | queueDeadlock => exact execQueueDeadlock_canonical _ hm
  | handlerStart => exact execHandlerStart_canonical _ hm
  | rampTick => exact execRampTick_canonical _ hm
  | multicastWindowClose => exact execMulticastWindowClose_canonical _ _ hm
  | sectorWrite => exact execSectorWrite_canonical _ _ _ hm
  | sectorLanding => exact execSectorLanding_canonical _ _ hm
  | loadValueReturn => exact execLoadValueReturn_canonical _ _ hm
  | lossNotice => exact execLossNotice_canonical _ _ hm
  | atomicReply => exact execAtomicReply_canonical _ _ hm
  | putSectorArrival => exact execPutSectorArrival_canonical _ _ hm
  | barrierAcknowledgement => exact execBarrierAcknowledgement_canonical _ _ hm
  | messageAcceptance => exact execMessageAcceptance_canonical _ _ hm
  | taskCompletion => exact execTaskCompletion_canonical _ hm
  | preemption => exact execPreemption_canonical _ hm
  | energyTick => exact execEnergyTick_canonical _ _ _ _ hm
  | governorIntervalBoundary => exact execGovernorIntervalBoundary_canonical hm
  | launchForward => exact execLaunchForward_canonical _ hm
  | taskCompletionReport => exact execTaskCompletionReport_canonical _ hm
  | hostBar2Access => exact execHostBar2Access_canonical _ _ _ hm
  | moduleReset => exact execModuleReset_canonical _
  | call | jr | callr | xPushValue | xPopValue | xSema | xSemv | hend | launch | tret | xEnd | lsSema | wwait | wreset
  | throttleWindowClose | flitRouting | ifreq | thermalCritical | thermalRecovery | barrierArrival | byteDeclaration
  | byteReport | registration | bankPowerUp | owncmd | resumeNoAction | svcmdDeliver | ingressRecordWrite
  | ingressFlushTimeout | watchdogExpiry | hostDoorbell | attestationReport | identityCertificate | firmwareImageWrite =>
    refine (canonicalNext_next _).mpr ?_
    simp [hm]
  | rsys | wsys | sys | trapEntry | flitInjection | creditExpiry | readRequest | lineFill | accumulateWrite | atomicRequest
  | writeAcknowledgement | putAcknowledgement | putRefusal | putResendDelay | putRefusalLimit | copyPark | wakeUp
  | messageArrival | messageResend | matrixWordStart | pageWalkCompletion | sliceExpiry | loweringDue | tinvCompletion
  | ownerChangeCompletion | resumeReplay | resumeKill | fqheadWrite | sqheadWrite | serviceAnswerArrival | hostCompletion
  | completionTimeout | lqsub | stolepelLinkDown | stolepelLinkUp | registerWrite =>
    refine (canonicalNext_next _).mpr ?_
    (repeat' split) <;> simp [hm]


/-! ### Issue of the words of an agent -/

theorem runWord_canonical {s : State} (c : CoreId) (a : Agent) (i : Instr) (hm : s.mem.wf = true) :
    CanonicalNext (s.runWord c a i) := by
  have done := exec_canonical i hm
  unfold State.runWord
  split
  · split
    · next t ht =>
      rw [ht, canonicalNext_next] at done
      split <;> simp [canonicalNext_next, hm, done]
    · exact canonicalNext_fault _
    · exact canonicalNext_refused _
  · exact done

theorem issueWord_canonical {s : State} (c : CoreId) (a : Agent) (hm : s.mem.wf = true) :
    CanonicalNext (s.issueWord c a) := by
  have fetched := State.fetchWord_wf c a ((s.core c).pc a).toNat hm
  simp only [State.issueWord]
  split
  · simp [canonicalNext_next, fetched]
  · simp [canonicalNext_next, fetched]
  · simp [canonicalNext_next, fetched]
  · split
    · simp [canonicalNext_next, fetched]
    · exact runWord_canonical c a _ fetched

theorem runBundle_canonical {s : State} (is : List Instr) (hm : s.mem.wf = true) : CanonicalNext (s.runBundle is) := by
  unfold State.runBundle
  split
  · exact exec_canonical _ hm
  · exact .of_mem (State.cBundle_mem _ _) hm

theorem issueBundle_canonical {s : State} (c : CoreId) (hm : s.mem.wf = true) : CanonicalNext (s.issueBundle c) := by
  have fetched := State.fetchBundle_wf c 3 ((s.core c).pc .c).toNat hm
  simp only [State.issueBundle]
  split
  · simp [canonicalNext_next, fetched]
  · simp [canonicalNext_next, fetched]
  · simp [canonicalNext_next, fetched]
  · exact (canonicalNext_next _).mpr fetched
  · split
    · exact runBundle_canonical _ fetched
    · simp [canonicalNext_next, fetched]

theorem issueNow_canonical {s : State} (c : CoreId) (a : Agent) (hm : s.mem.wf = true) :
    CanonicalNext (s.issueNow c a) := by
  unfold State.issueNow
  extract_lets u word
  have focused : u.mem.wf = true := hm
  have word_canonical (o : Out) (h : CanonicalNext o) : CanonicalNext (word o) := by
    cases o with
    | next t => exact (canonicalNext_next _).mpr (State.afterIssue_wf c a ((canonicalNext_next t).mp h))
    | fault f => exact canonicalNext_fault f
    | refused r => exact canonicalNext_refused r
  clear_value u word
  split
  · exact word_canonical _ (issueWord_canonical c _ focused)
  · split
    · next t ht =>
      exact (canonicalNext_next _).mpr (State.settle_wf c (State.wf_of_mem (State.lsBusy_mem u c _ t ht) focused))
    · exact word_canonical _ (issueWord_canonical c _ focused)
  · split
    · next t ht =>
      exact (canonicalNext_next _).mpr (State.settle_wf c (State.wf_of_mem (State.lsBusy_mem u c _ t ht) focused))
    · exact word_canonical _ (issueWord_canonical c _ focused)
  · split
    · exact word_canonical _ (issueBundle_canonical c focused)
    · simp [canonicalNext_next, focused]

theorem issue_canonical {s : State} (c : CoreId) (a : Agent) (hm : s.mem.wf = true) : CanonicalNext (s.issue c a) := by
  unfold State.issue
  split
  · exact (canonicalNext_next s).mpr hm
  · split
    · next t ht =>
      have warned : t.mem.wf = true := State.wf_of_mem (State.takeWarning_mem s c t ht) hm
      have issued := issueNow_canonical c a hm
      split
      · next u hu =>
        rw [hu, canonicalNext_next] at issued
        split <;> simp [canonicalNext_next, issued, warned]
      · exact canonicalNext_fault _
      · exact canonicalNext_refused _
    · exact issueNow_canonical c a hm

/-! ### A turn and a step -/

theorem takeTurn_canonical {s : State} (t : Turn) (hm : s.mem.wf = true) : CanonicalNext (s.takeTurn t) := by
  cases t with
  | issue c a => exact issue_canonical c a hm
  | event i =>
    simp only [State.takeTurn]
    split
    · exact exec_canonical i hm
    · exact canonicalNext_fault _
  | upset e => exact (canonicalNext_next _).mpr hm
  | outside o => exact .of_mem (State.outside_mem s o) hm

theorem move_canonical {s : State} (hm : s.mem.wf = true) : CanonicalNext s.move := by
  unfold State.move
  split
  · exact exec_canonical (.loweringDue _) hm
  · exact takeTurn_canonical _ (State.wf_of_mem (State.nextTurn_mem s) hm)

theorem step_canonical {s : State} (hm : s.mem.wf = true) : CanonicalNext (step s) := by
  have moved := move_canonical hm
  unfold step
  split
  · next t ht =>
    rw [ht, canonicalNext_next] at moved
    exact (canonicalNext_next _).mpr (State.afterTurn_wf moved)
  · exact canonicalNext_fault _
  · exact canonicalNext_refused _

/-- Settles O60: every operation leaves the module's memory as it was, or writes it by `Mem.write`, `Mem.writeN` and `Mem.clear`,
which keep its form. -/
theorem everyStepKeepsMemoryCanonical : Obligations.EveryStepKeepsMemoryCanonical := by
  unfold Obligations.EveryStepKeepsMemoryCanonical
  exact fun s t hm hs => step_canonical hm t hs

end Sys2Proof.Machine
end

section
/-! Memory (O59): what a read returns after a write or a clear, numbers in bytes, and the canonical form. -/

namespace Sys2Proof.Machine

open Sys2Proof

/-! ### Bytes and numbers -/

@[simp] theorem leBytes_length (n v : Nat) : (leBytes n v).length = n := by
  induction n generalizing v with
  | zero => rfl
  | succ n ih => simp [leBytes, ih]

theorem leNat_leBytes (n v : Nat) : leNat (leBytes n v) = v % 256 ^ n := by
  induction n generalizing v with
  | zero => simp [leBytes, leNat, Nat.mod_one]
  | succ n ih =>
    calc leNat (leBytes (n + 1) v) = v % 256 + 256 * (v / 256 % 256 ^ n) := by simp [leBytes, leNat, ih]
      _ = v % 256 ^ (n + 1) := by rw [Nat.pow_succ', Nat.mod_mul]

theorem leNat_lt (bs : List Byte) : leNat bs < 256 ^ bs.length := by
  induction bs with
  | nil => simp [leNat]
  | cons b bs ih =>
    rw [leNat, List.length_cons, Nat.pow_succ']
    omega

/-! ### Reads -/

theorem Mem.read_cons (x : Nat) (b : Byte) (rest : Mem) (a : Nat) :
    Mem.read ((x, b) :: rest) a = if x = a then b else Mem.read rest a := by simp [Mem.read]

@[simp] theorem Mem.readN_length (m : Mem) (a n : Nat) : (m.readN a n).length = n := by
  induction n generalizing a with
  | zero => rfl
  | succ n ih => simp [Mem.readN, ih]

theorem Mem.getElem_readN (m : Mem) (a n i : Nat) (h : i < (m.readN a n).length) : (m.readN a n)[i] = m.read (a + i) := by
  induction n generalizing a i with
  | zero => simp at h
  | succ n ih =>
    cases i with
    | zero => rfl
    | succ i =>
      have hi : i < (m.readN (a + 1) n).length := by simpa using h
      calc (m.readN (a + 1) n)[i] = m.read (a + 1 + i) := ih (a + 1) i hi
        _ = m.read (a + (i + 1)) := by rw [Nat.add_assoc, Nat.add_comm 1]

theorem Mem.read_writeN (m : Mem) (a : Nat) (bs : List Byte) : Wrote m (m.writeN a bs) a bs := by
  induction bs generalizing m a with
  | nil =>
    intro x
    rw [if_neg (by simp)]
    rfl
  | cons b bs ih =>
    intro x
    rw [Mem.writeN, ih (m.write a b) (a + 1) x, Mem.read_write, List.length_cons]
    rcases Nat.lt_trichotomy x a with below | rfl | above
    · rw [if_neg (by omega), if_neg (by omega), if_neg (by omega)]
    · rw [if_neg (by omega), if_pos rfl, if_pos (by omega), Nat.sub_self, List.getElem?_cons_zero, Option.getD_some]
    · obtain ⟨k, rfl⟩ : ∃ k, x = a + 1 + k := ⟨x - (a + 1), by omega⟩
      rw [if_neg (by omega : ¬a + 1 + k = a), show a + 1 + k - a = k + 1 by omega, Nat.add_sub_cancel_left,
        List.getElem?_cons_succ]
      exact ite_congr (propext (by omega)) (fun _ => rfl) fun _ => rfl

theorem Mem.readN_writeN (m : Mem) (a : Nat) (bs : List Byte) : (m.writeN a bs).readN a bs.length = bs := by
  refine List.ext_getElem (by simp) fun i _ h => ?_
  rw [Mem.getElem_readN, Mem.read_writeN m a bs, if_pos (by omega)]
  simp [h]

theorem Mem.readLe_writeN (m : Mem) (a n v : Nat) : (m.writeN a (leBytes n v)).readLe a n = v % 256 ^ n := by
  have back := Mem.readN_writeN m a (leBytes n v)
  rw [leBytes_length] at back
  rw [Mem.readLe, back, leNat_leBytes]

theorem Mem.readLe_lt (m : Mem) (a n : Nat) : m.readLe a n < 256 ^ n := by
  simpa [Mem.readLe] using leNat_lt (m.readN a n)

theorem Mem.read_clear (m : Mem) (lo hi x : Nat) :
    (m.clear lo hi).read x = if lo ≤ x ∧ x < hi then 0 else m.read x := by
  split
  · next inside => exact Mem.read_free _ _ (by simp [Mem.clear]; omega)
  · next outside => exact Mem.read_filter m _ x (by simp; omega)

/-! ### The canonical form -/

theorem Mem.wfFrom_cons {x lo : Nat} {b : Byte} {rest : Mem} :
    Mem.wfFrom lo ((x, b) :: rest) = true ↔ lo ≤ x ∧ b ≠ 0 ∧ Mem.wfFrom (x + 1) rest = true := by simp [Mem.wfFrom, and_assoc]

theorem Mem.read_below {m : Mem} {lo x : Nat} (w : m.wfFrom lo = true) (h : x < lo) : m.read x = 0 := by
  induction m generalizing lo with
  | nil => rfl
  | cons p rest ih =>
    obtain ⟨y, b⟩ := p
    obtain ⟨hy, -, hrest⟩ := Mem.wfFrom_cons.mp w
    rw [Mem.read_cons, if_neg (by omega)]
    exact ih hrest (by omega)

/-- The first entry of a canonical memory is the lowest address that reads as another byte than zero. -/
theorem Mem.head_le_of_read_eq {x y lo : Nat} {b c : Byte} {rest rest' : Mem} (hb : b ≠ 0)
    (w' : Mem.wfFrom lo ((y, c) :: rest') = true) (h : Mem.read ((x, b) :: rest) x = Mem.read ((y, c) :: rest') x) : y ≤ x := by
  refine Nat.le_of_not_lt fun below => ?_
  obtain ⟨-, hc, hrest⟩ := Mem.wfFrom_cons.mp w'
  have zero : Mem.read ((y, c) :: rest') x = 0 := Mem.read_below (Mem.wfFrom_cons.mpr ⟨Nat.le_refl y, hc, hrest⟩) below
  rw [zero, Mem.read_cons, if_pos rfl] at h
  exact hb h

/-- Two canonical memories that read alike are equal. -/
theorem Mem.wfFrom_ext {m m' : Mem} {lo lo' : Nat} (w : m.wfFrom lo = true) (w' : m'.wfFrom lo' = true)
    (same : ∀ a, m.read a = m'.read a) : m = m' := by
  induction m generalizing m' lo lo' with
  | nil =>
    cases m' with
    | nil => rfl
    | cons q rest' =>
      obtain ⟨y, c⟩ := q
      obtain ⟨-, hc, -⟩ := Mem.wfFrom_cons.mp w'
      have hy := same y
      rw [Mem.read_cons, if_pos rfl] at hy
      exact absurd hy.symm hc
  | cons p rest ih =>
    obtain ⟨x, b⟩ := p
    obtain ⟨-, hb, hrest⟩ := Mem.wfFrom_cons.mp w
    cases m' with
    | nil =>
      have hx := same x
      rw [Mem.read_cons, if_pos rfl] at hx
      exact absurd hx hb
    | cons q rest' =>
      obtain ⟨y, c⟩ := q
      obtain ⟨-, hc, hrest'⟩ := Mem.wfFrom_cons.mp w'
      obtain rfl : x = y :=
        Nat.le_antisymm (Mem.head_le_of_read_eq hc w (same y).symm) (Mem.head_le_of_read_eq hb w' (same x))
      have heads := same x
      rw [Mem.read_cons, Mem.read_cons, if_pos rfl, if_pos rfl] at heads
      have tails (a : Nat) : Mem.read rest a = Mem.read rest' a := by
        by_cases ha : x = a
        · rw [Mem.read_below hrest (by omega), Mem.read_below hrest' (by omega)]
        · have := same a
          rwa [Mem.read_cons, Mem.read_cons, if_neg ha, if_neg ha] at this
      rw [heads, ih hrest hrest' tails]

/-- Settles O59: the laws of writes and clears, one lemma each, and the extensionality of the canonical form. -/
theorem memoryLaws : Obligations.MemoryLaws := by
  unfold Obligations.MemoryLaws
  intro m m' a lo hi n v bs
  exact ⟨fun w => ⟨Mem.writeN_wf bs w, Mem.clear_wf lo hi w⟩, Mem.read_writeN m a bs, Mem.read_clear m lo hi,
    Mem.readLe_writeN m a n v, Mem.readLe_lt m a n, Mem.readN_length m a n, fun w w' same => Mem.wfFrom_ext w w' same⟩

end Sys2Proof.Machine
end

section
/-! Fields of a register: what a field reads after it is set, and what a write keeps. -/

namespace Sys2Proof.Machine

open Sys2Proof

/-! ### Fields -/

/-- The bits of a field. -/
def fldMask (hi lo : Nat) : W64 := BitVec.ofNat 64 ((2 ^ (hi - lo + 1) - 1) * 2 ^ lo)

theorem setFld_eq (v : W64) (hi lo x : Nat) :
    setFld v hi lo x = (v &&& ~~~fldMask hi lo) ||| (BitVec.ofNat 64 (x * 2 ^ lo) &&& fldMask hi lo) := rfl

theorem getLsbD_fldMask {hi lo i : Nat} (h : i < 64) :
    (fldMask hi lo).getLsbD i = decide (lo ≤ i ∧ i - lo < hi - lo + 1) := by
  rw [fldMask, BitVec.getLsbD_ofNat, Nat.testBit_mul_two_pow, Nat.testBit_two_pow_sub_one]
  simp [h]

theorem getLsbD_setFld (v : W64) (hi lo x : Nat) {i : Nat} (h : i < 64) :
    (setFld v hi lo x).getLsbD i = if lo ≤ i ∧ i - lo < hi - lo + 1 then x.testBit (i - lo) else v.getLsbD i := by
  rw [setFld_eq, BitVec.getLsbD_or, BitVec.getLsbD_and, BitVec.getLsbD_and, BitVec.getLsbD_not, BitVec.getLsbD_ofNat,
    Nat.testBit_mul_two_pow, getLsbD_fldMask h]
  split
  · next inside => rw [decide_eq_true inside]; simp [h, inside.1]
  · next outside => rw [decide_eq_false outside]; simp [h]

theorem testBit_fld (v : W64) (hi lo i : Nat) :
    (fld v hi lo).testBit i = (decide (i < hi - lo + 1) && v.getLsbD (i + lo)) := by
  rw [fld, Nat.testBit_mod_two_pow, Nat.testBit_div_two_pow, BitVec.testBit_toNat]

/-- A field reads back what was set. -/
theorem fld_setFld (v : W64) {hi lo : Nat} (x : Nat) (hlo : lo ≤ hi) (hhi : hi < 64) :
    fld (setFld v hi lo x) hi lo = x % 2 ^ (hi - lo + 1) := by
  refine Nat.eq_of_testBit_eq fun i => ?_
  rw [testBit_fld, Nat.testBit_mod_two_pow]
  by_cases inside : i < hi - lo + 1
  · rw [getLsbD_setFld v hi lo x (by omega), if_pos (by omega), Nat.add_sub_cancel]
  · simp [inside]

/-- A field of `v` put among other bits of `v` adds its bits to those kept. -/
theorem setFld_and_fld (v k : W64) (hi lo : Nat) : setFld (v &&& k) hi lo (fld v hi lo) = v &&& (k ||| fldMask hi lo) := by
  refine BitVec.eq_of_getLsbD_eq fun i h => ?_
  rw [getLsbD_setFld _ _ _ _ h, BitVec.getLsbD_and, BitVec.getLsbD_and, BitVec.getLsbD_or, getLsbD_fldMask h, testBit_fld]
  split
  · next inside => rw [decide_eq_true inside, Nat.sub_add_cancel inside.1]; simp [inside.2]
  · next outside => rw [decide_eq_false outside, Bool.or_false]

theorem keepFlds_eq (v : W64) (fs : List (Nat × Nat)) :
    keepFlds v fs = v &&& fs.foldl (fun k f => k ||| fldMask f.1 f.2) 0 := by
  have kept (k : W64) :
      fs.foldl (fun a f => setFld a f.1 f.2 (fld v f.1 f.2)) (v &&& k)
        = v &&& fs.foldl (fun k f => k ||| fldMask f.1 f.2) k := by
    induction fs generalizing k with
    | nil => rfl
    | cons f fs ih => rw [List.foldl_cons, List.foldl_cons, setFld_and_fld, ih]
  have all := kept 0
  rwa [show v &&& 0 = 0 from BitVec.and_zero] at all

/-- A mask that covers a field leaves it as it is. -/
theorem fld_and (v : W64) {k : W64} {hi lo : Nat} (covers : k &&& fldMask hi lo = fldMask hi lo) (hlo : lo ≤ hi) (hhi : hi < 64) :
    fld (v &&& k) hi lo = fld v hi lo := by
  refine Nat.eq_of_testBit_eq fun i => ?_
  rw [testBit_fld, testBit_fld, BitVec.getLsbD_and]
  by_cases inside : i < hi - lo + 1
  · have bit := congrArg (BitVec.getLsbD · (i + lo)) covers
    simp only [BitVec.getLsbD_and, getLsbD_fldMask (show i + lo < 64 by omega)] at bit
    have kept : k.getLsbD (i + lo) = true := by simpa [inside] using bit
    rw [kept, Bool.and_true]
  · simp [inside]

theorem oneIfZero_of_ne {v : W64} {hi lo : Nat} (h : fld v hi lo ≠ 0) : oneIfZero v hi lo = v := by simp [oneIfZero, h]

theorem keepFlds_low16 (v : W64) : keepFlds v [(15, 0)] = v &&& 0xFFFF := keepFlds_eq v _

/-- TCFG_n as stored when no field whose zero means one is zero. -/
theorem tcfgStored_eq {v : W64} (h1 : fld v 39 32 ≠ 0) (h2 : fld v 31 16 ≠ 0) : tcfgStored v = v &&& 0xBFFCFFFFFFFF0000 := by
  have kept : keepFlds v [(63, 63), (61, 60), (59, 50), (47, 40), (39, 32), (31, 16)] = v &&& 0xBFFCFFFFFFFF0000 :=
    keepFlds_eq v _
  rw [← fld_and v (k := 0xBFFCFFFFFFFF0000) (by decide) (by decide) (by decide)] at h1 h2
  rw [tcfgStored, kept, oneIfZero_of_ne h1, oneIfZero_of_ne h2]

end Sys2Proof.Machine
end

section
/-! Boot, the watchdog, the mailbox and the registers outside the cores (O50). -/

namespace Sys2Proof.Machine

open Sys2Proof

/-! ### Lengths of digests and signatures -/

theorem shaRound_length {v : List W64} (k w : W64) (h : v.length = 8) : (shaRound v k w).length = 8 := by
  unfold shaRound
  split
  · rfl
  · exact h

theorem shaRounds_length {v : List W64} (w ks : List W64) (h : v.length = 8) : (shaRounds v w ks).length = 8 := by
  induction ks generalizing v w with
  | nil => exact h
  | cons k ks ih => exact ih _ (shaRound_length k _ h)

theorem shaBlock_length {hash : List W64} (block : List Byte) (h : hash.length = 8) : (shaBlock hash block).length = 8 := by
  simp [shaBlock, shaRounds_length _ _ h, h]

theorem length_flatMap_beBytes (l : List W64) : (l.flatMap (fun v => beBytes 8 v.toNat)).length = 8 * l.length := by
  induction l with
  | nil => rfl
  | cons v l ih =>
    rw [List.flatMap_cons, List.length_append, ih, beBytes, List.length_reverse, leBytes_length, List.length_cons]
    omega

@[simp] theorem sha512_length (m : List Byte) : (sha512 m).length = 64 := by
  have hash (l : List Nat) (p : List Byte) :
      (l.foldl (fun v i => shaBlock v ((p.drop (128 * i)).take 128)) shaInit).length = 8 :=
    List.foldlRecOn (motive := fun v : List W64 => v.length = 8) l _ rfl fun _ h _ _ => shaBlock_length _ h
  rw [sha512, length_flatMap_beBytes, hash]

theorem pssSign_length (n d : Nat) (m salt : List Byte) : (pssSign n d m salt).length = 512 := by simp [pssSign, beBytes]

theorem reportBody_length (s : State) (nonce : BitVec 512) : (s.reportBody nonce).length = 264 := by simp [State.reportBody]

/-! ### Bring-up -/

theorem step_of_outside {s : State} {o : Outside} {rest : List Turn} (quiet : s.gov.lowering = [])
    (turn : s.agenda = .outside o :: rest) : step s = .next (({ s with agenda := rest }).outside o).afterTurn := by
  simp [step, State.move, quiet, State.nextTurn, turn, State.takeTurn]

/-- A new STAGE raises MSI-X vector 1. -/
theorem State.setHstat_stage {s : State} (w : W64) {n : Nat} (new : s.stage ≠ n) (small : n < 16) :
    s.setHstat (setFld w 3 0 n) = { s with host := { s.host with hstat := setFld w 3 0 n, msix := s.host.msix ++ [1] } } := by
  have differs : (fld (setFld w 3 0 n) 3 0 != s.stage) = true := by
    rw [fld_setFld w n (by decide) (by decide), Nat.mod_eq_of_lt (show n < 2 ^ (3 - 0 + 1) from small)]
    simpa using Ne.symm new
  rw [State.setHstat, differs]
  rfl

theorem HostSt.floorSealed_iff (h : HostSt) :
    h.floorSealed = true ↔ h.sealed = some (Config.floorMac h.floor) ∨ (h.sealed = none ∧ h.floor = 0) := by
  cases hs : h.sealed <;> simp [HostSt.floorSealed, hs]

theorem State.accepted_iff (s : State) (i : Fin 2) : s.accepted i = true ↔ s.host.flash[i.val] ≠ []
    ∧ imageSigned s.host.flash[i.val] = true
    ∧ (s.host.sealed = some (Config.floorMac s.host.floor) ∨ (s.host.sealed = none ∧ s.host.floor = 0))
    ∧ s.host.floor.toNat ≤ (Config.imageVersion s.host.flash[i.val]).toNat := by
  simp [State.accepted, HostSt.floorSealed_iff, and_assoc]

theorem State.bestSlot_some {s : State} {i : Fin 2} (h : s.bestSlot = some i) : s.accepted i = true ∧
    ∀ j, s.accepted j = true →
      (Config.imageVersion s.host.flash[j.val]).toNat ≤ (Config.imageVersion s.host.flash[i.val]).toNat := by
  unfold State.bestSlot at h
  split at h
  · next h0 h1 =>
    split at h
    · next lower =>
      obtain rfl := Option.some.inj h
      exact ⟨h1, fun j _ => by match j with | 0 => exact Nat.le_of_lt lower | 1 => exact Nat.le_refl _⟩
    · next higher =>
      obtain rfl := Option.some.inj h
      exact ⟨h0, fun j _ => by match j with | 0 => exact Nat.le_refl _ | 1 => exact Nat.le_of_not_lt higher⟩
  · next h0 h1 =>
    obtain rfl := Option.some.inj h
    exact ⟨h0, fun j hj => by match j with | 0 => exact Nat.le_refl _ | 1 => simp [h1] at hj⟩
  · next h0 h1 =>
    obtain rfl := Option.some.inj h
    exact ⟨h1, fun j hj => by match j with | 0 => simp [h0] at hj | 1 => exact Nat.le_refl _⟩
  · cases h

theorem State.bestSlot_none {s : State} (h : s.bestSlot = none) (i : Fin 2) : ¬s.accepted i = true := by
  unfold State.bestSlot at h
  split at h
  · split at h <;> cases h
  · cases h
  · cases h
  · next h0 h1 => match i with | 0 => simp [h0] | 1 => simp [h1]

/-- The ROM's choice at STAGE 1. -/
theorem State.verify_of_some {s : State} {i : Fin 2} (stage : s.stage = 1) (h : s.bestSlot = some i) :
    s.verify = { s with host := { s.host with
      floor := Config.imageVersion s.host.flash[i.val], sealed := some (Config.floorMac (Config.imageVersion s.host.flash[i.val]))
      running := s.host.flash[i.val], msix := s.host.msix ++ [1]
      hstat := setFld (setFld (setFld s.host.hstat 63 32 (Config.imageVersion s.host.flash[i.val]).toNat) 23 16 0) 3 0 2 } } := by
  unfold State.verify
  rw [h]
  exact State.setHstat_stage (n := 2) _ (show s.stage ≠ 2 by omega) (by decide)

theorem State.verify_of_none {s : State} (stage : s.stage = 1) (h : s.bestSlot = none) :
    s.verify = { s with host := { s.host with
      hstat := setFld (setFld s.host.hstat 23 16 1) 3 0 15, msix := s.host.msix ++ [1] } } := by
  unfold State.verify
  rw [h]
  exact State.setHstat_stage (n := 15) _ (by omega) (by decide)

/-! Each step of bring-up, by the STAGE at which it is taken. -/

section
variable {s : State} (ok : Bool) (alive : s.mgmt.dead = false)
include alive

theorem State.bringUp_at_0 (stage : s.stage = 0) :
    s.bringUp ok = { s with host := { s.host with hstat := setFld s.host.hstat 3 0 1, msix := s.host.msix ++ [1] } } := by
  rw [State.bringUp, if_neg (by simp [alive]), stage]
  exact State.setHstat_stage _ (by omega) (by decide)

theorem State.bringUp_at_1 (stage : s.stage = 1) : s.bringUp ok = s.verify := by
  rw [State.bringUp, if_neg (by simp [alive]), stage]
  rfl

theorem State.bringUp_at_2_trained (stage : s.stage = 2) : s.bringUp true = { s with
    mgmt := { s.mgmt with tags := [] }
    host := { s.host with hstat := setFld s.host.hstat 3 0 3, msix := s.host.msix ++ [1] } } := by
  rw [State.bringUp, if_neg (by simp [alive]), stage]
  have new : s.stage ≠ 3 := by omega
  exact State.setHstat_stage (s := { s with mgmt := { s.mgmt with tags := [] } }) s.host.hstat new (by decide)

theorem State.bringUp_at_2_failed (stage : s.stage = 2) : s.bringUp false =
    { s with host := { s.host with hstat := setFld (setFld s.host.hstat 23 16 2) 3 0 15, msix := s.host.msix ++ [1] } } := by
  rw [State.bringUp, if_neg (by simp [alive]), stage]
  exact State.setHstat_stage _ (by omega) (by decide)

theorem State.bringUp_at_3 (stage : s.stage = 3) :
    s.bringUp ok = { s with host := { s.host with hstat := setFld s.host.hstat 3 0 4, msix := s.host.msix ++ [1] } } := by
  rw [State.bringUp, if_neg (by simp [alive]), stage]
  exact State.setHstat_stage _ (by omega) (by decide)

end

theorem State.bringUp_ready {s : State} (ok : Bool) (stage : 4 ≤ s.stage) : s.bringUp ok = s := by
  unfold State.bringUp
  split
  · rfl
  · split
    · omega
    · omega
    · omega
    · omega
    · rfl

/-! ### The watchdog -/

theorem State.stopCores_host (s : State) (l : List CoreId) : (s.stopCores l).host = s.host := by
  induction l generalizing s with
  | nil => rfl
  | cons c rest ih => rw [State.stopCores, ih, State.modCore_host]

theorem State.stopCores_mgmt (s : State) (l : List CoreId) : (s.stopCores l).mgmt = s.mgmt := by
  induction l generalizing s with
  | nil => rfl
  | cons c rest ih => rw [State.stopCores, ih, State.modCore_mgmt]

/-- A core of the list stops, and one that has stopped stays so. -/
theorem State.stopCores_stops {s : State} {l : List CoreId} {d : CoreId} (h : d ∈ l ∨ (s.core d).trap.stop = true) :
    ((s.stopCores l).core d).trap.stop = true := by
  induction l generalizing s with
  | nil => simpa [State.stopCores] using h
  | cons c rest ih =>
    refine ih ?_
    by_cases hd : d = c
    · subst hd
      simp
    · rw [State.modCore_core_ne _ _ hd]
      simpa [hd] using h

theorem execWatchdogExpiry_stops (s : State) : ∃ u, exec .watchdogExpiry s = .next u
    ∧ u.host.hstat = setFld (setFld s.host.hstat 23 16 3) 3 0 15 ∧ u.mgmt = { s.mgmt with dead := true } ∧ u.mem = s.mem
    ∧ ∀ c, (s.core c).task.isSome = true → (u.core c).trap.stop = true := by
  refine ⟨_, rfl, ?_, ?_, ?_, fun c hc => ?_⟩
  · simp only [State.setHstat, State.stopCores_host]
  · simp only [State.stopCores_mgmt]
  · exact State.stopCores_mem s _
  · exact State.stopCores_stops (.inl (by simpa [List.mem_filter] using hc))

/-! ### The mailbox -/

/-- Nothing of the mailbox, the queues, the streams and the apertures is served after the watchdog. -/
theorem exec_of_dead {s : State} (dead : s.mgmt.dead = true) (v : W64) (t : Tenant) (r : Reg) (e : Ecc) (off : Nat)
    (acc : HostAcc) (q j : Fin 4) :
    ∀ i ∈ [Instr.hostDoorbell v, .attestationReport, .identityCertificate, .firmwareImageWrite, .lqsub true t q v,
      .ingressRecordWrite j v true, .ingressFlushTimeout j, .hostBar2Access off acc e, .registerWrite true r v],
      exec i s = .next s := by
  have ignored (n : Nat) : s.commanded n = false := by simp [State.commanded, dead]
  simp only [List.forall_mem_cons, List.not_mem_nil, false_imp_iff, implies_true, and_true]
  refine ⟨?_, ?_, ?_, ?_, ?_, ?_, ?_, ?_, ?_⟩ <;> refine congrArg Host.Outcome.next ?_
  · exact if_pos (by simp [dead])
  · exact if_neg (by simp [ignored])
  · exact if_neg (by simp [ignored])
  · exact if_neg (by simp [ignored])
  · exact if_pos (by simp [dead])
  · exact if_pos dead
  · exact if_pos dead
  · exact if_pos dead
  · exact if_pos dead

section
variable {s : State} (alive : s.mgmt.dead = false)
include alive

theorem exec_hostDoorbell_idle {v : W64} (go : v.getLsbD 63 = true) (idle : s.host.pending = false) :
    exec (.hostDoorbell v) s = .next { s with host := { s.host with hdb := hdbWritten s.host.hdb v, pending := true } } := by
  refine congrArg Host.Outcome.next ?_
  rw [if_neg (by simp [go, alive]), idle]
  rfl

theorem exec_hostDoorbell_busy {v : W64} (go : v.getLsbD 63 = true) (busy : s.host.pending = true) :
    exec (.hostDoorbell v) s
      = .next { s with host := { s.host with hdb := setFld (hdbWritten s.host.hdb v) 61 61 1 } } := by
  refine congrArg Host.Outcome.next ?_
  rw [if_neg (by simp [go, alive]), busy]
  rfl

theorem State.commanded_iff (pending : s.host.pending = true) (n : Nat) :
    s.commanded n = true ↔ Config.commandOfRequest s.requestBytes = n := by simp [State.commanded, pending, alive]

end

theorem State.firmwareRuns_of_stage {s : State} (runs : 2 ≤ s.stage ∧ s.stage ≤ 4) : s.firmwareRuns = true := by
  simp [State.firmwareRuns, runs]

section
variable {s : State} (alive : s.mgmt.dead = false) (pending : s.host.pending = true) (runs : 2 ≤ s.stage ∧ s.stage ≤ 4)
include alive pending runs

theorem exec_attestationReport (between : s.time + 160000 = 160000 * s.gov.boundaries) :
    exec .attestationReport s = .next (if Config.commandOfRequest s.requestBytes = 0x0001 then
      let body := s.reportBody (Config.nonceOfRequest s.requestBytes)
      { s.finishRequest (body ++ identitySign body s.draws) with draws := s.draws + 64 } else s) := by
  refine congrArg Host.Outcome.next (ite_congr (propext ?_) (fun _ => rfl) fun _ => rfl)
  simp [State.commanded_iff alive pending, State.firmwareRuns_of_stage runs, between]

theorem exec_identityCertificate : exec .identityCertificate s = .next { s with
    host := if Config.commandOfRequest s.requestBytes = 0x0002 then (s.finishRequest Config.certificate).host else s.host } := by
  refine congrArg Host.Outcome.next ?_
  by_cases command : Config.commandOfRequest s.requestBytes = 0x0002
  · rw [if_pos command, if_pos (by simp [State.commanded_iff alive pending, State.firmwareRuns_of_stage runs, command])]
    rfl
  · rw [if_neg command, if_neg (by simp [State.commanded_iff alive pending, command])]

/-- The image stands in the older slot when it is signed; the ROM is not asked again while firmware runs. -/
theorem exec_firmwareImageWrite : exec .firmwareImageWrite s = .next { s with
    host := if Config.commandOfRequest s.requestBytes ≠ 0x00F0 then s.host
      else if imageSigned (Config.imageOfRequest s.requestBytes) then
        { (s.finishRequest []).host with flash := s.host.flash.set s.olderSlot.val (Config.imageOfRequest s.requestBytes) }
      else (s.finishRequest []).host } := by
  have running : s.stage ≠ 15 := by omega
  refine congrArg Host.Outcome.next ?_
  by_cases command : Config.commandOfRequest s.requestBytes = 0x00F0
  · rw [if_neg (not_not_intro command),
      if_pos (by simp [State.commanded_iff alive pending, State.firmwareRuns_of_stage runs, command])]
    by_cases valid : imageSigned (Config.imageOfRequest s.requestBytes) = true
    · simp only [valid, if_true]
      exact if_neg (by simpa [State.stage, State.finishRequest] using running)
    · simp only [valid]
      exact if_neg (by simpa [State.stage, State.finishRequest] using running)
  · rw [if_pos command, if_neg (by simp [State.commanded_iff alive pending, command])]

end

theorem State.olderSlot_spec (s : State) : s.host.flash[s.olderSlot.val] = [] ∨ ((∀ i : Fin 2, s.host.flash[i.val] ≠ [])
    ∧ ∀ i : Fin 2,
      (Config.imageVersion s.host.flash[s.olderSlot.val]).toNat ≤ (Config.imageVersion s.host.flash[i.val]).toNat) := by
  simp only [State.olderSlot]
  split
  · next h0 => exact .inl (by simpa using h0)
  · next h0 =>
    split
    · next h1 => exact .inl (by simpa using h1)
    · next h1 =>
      refine .inr ⟨fun i => by match i with | 0 => simpa using h0 | 1 => simpa using h1, fun i => ?_⟩
      split
      · next lower => match i with | 0 => exact Nat.le_of_lt lower | 1 => exact Nat.le_refl _
      · next higher => match i with | 0 => exact Nat.le_refl _ | 1 => exact Nat.le_of_not_lt higher

/-! ### Register writes and reads -/

theorem exec_registerWrite_mgmt {s : State} (alive : s.mgmt.dead = false) (r : Reg) (v : W64) :
    exec (.registerWrite false r v) s = .next (s.mgmtWrite r v) := congrArg Host.Outcome.next (if_neg (by simp [alive]))

theorem exec_registerWrite_host {s : State} (alive : s.mgmt.dead = false) (r : Reg) (v : W64) :
    exec (.registerWrite true r v) s = .next (s.hostWrites r v) := congrArg Host.Outcome.next (if_neg (by simp [alive]))

theorem State.mgmtWrite_hacc (s : State) (v : W64) :
    s.mgmtWrite .hacc v = { s with host := { s.host with hacc := v &&& 0xFFFF } } := by
  rw [← keepFlds_low16]
  rfl

theorem State.mgmtWrite_mrate (s : State) (v : W64) :
    s.mgmtWrite .mrate v = { s with gov := { s.gov with mrateNext := v &&& 0xFFFF } } := by
  rw [← keepFlds_low16]
  rfl

theorem State.mgmtWrite_tcfg (s : State) (t : Tenant) {v : W64} (h1 : fld v 39 32 ≠ 0) (h2 : fld v 31 16 ≠ 0) :
    s.mgmtWrite (.tcfg t) v = { s.modTenant t (fun n => { n with tcfg := v &&& 0xBFFCFFFFFFFF0000 }) with
      disp := { s.disp with look := true } } := by
  rw [← tcfgStored_eq h1 h2]
  rfl

theorem State.hostWrites_hdb {s : State} {v : W64} (noGo : v.getLsbD 63 = false) :
    s.hostWrites .hdb v = { s with host := { s.host with hdb := hdbWritten s.host.hdb v } } := if_neg (ne_true_of_eq_false noGo)

theorem State.hostWrites_lqstat_shut {s : State} {t : Tenant} (q : Fin 4) (v : W64) (shut : s.host.hacc.getLsbD t.val = false) :
    s.hostWrites (.lqstat t q) v = s := if_neg (by simp [State.hostReaches, shut])

theorem State.hostWrites_lqstat {s : State} {t : Tenant} (q : Fin 4) (v : W64) (opened : s.host.hacc.getLsbD t.val = true) :
    s.hostWrites (.lqstat t q) v = s.mgmtWrite (.lqstat t q) v := if_pos opened

theorem bar0Reg_lqsub : ∀ (t : Tenant) (q : Fin 4),
    bar0Reg (0x100000 + 0x1000 * t.val + 16 * q.val) = some (.lqsub t q) := by decide

theorem bar0Reg_lqstat : ∀ (t : Tenant) (q : Fin 4),
    bar0Reg (0x100000 + 0x1000 * t.val + 16 * q.val + 8) = some (.plain (.lqstat t q)) := by decide

theorem bar0Reg_past_queues : ∀ (t : Tenant) (q : Fin 4),
    bar0Reg (0x100000 + 0x1000 * t.val + 16 * q.val + 0x400) = none := by decide

theorem fld_lqstat (s : State) (t : Tenant) (q : Fin 4) :
    let l := (s.tenant t).queues[q.val]
    let x := s.lqstat t q
    fld x 63 48 = l.rej.toNat ∧ fld x 47 32 = l.ovf.toNat ∧ fld x 31 24 = 0
      ∧ fld x 23 16 = ((s.queueHead t q).map Kernel.skip).getD 0 % 256 ∧ fld x 15 6 = 0 ∧ fld x 5 0 = l.recs.length % 64 := by
  intro l x
  have rej := l.rej.isLt
  have ovf := l.ovf.isLt
  simp only [l, x, State.lqstat, fld, BitVec.toNat_ofNat] at rej ovf ⊢
  omega

theorem fld_evstat (v : Stream) : fld v.evstat 63 32 = v.drop.toNat ∧ fld v.evstat 31 0 = v.sent.toNat := by
  have drop : v.drop.toNat < 2 ^ 32 := v.drop.isLt
  have sent : v.sent.toNat < 2 ^ 32 := v.sent.isLt
  simp only [Stream.evstat, fld, BitVec.toNat_ofNat]
  omega

/-- What a host read of BAR0 returns for a queue's registers, for the first registers, and where no register stands. -/
theorem bar0Read_values (s : State) (t : Tenant) (q : Fin 4) :
    let at_ := 0x100000 + 0x1000 * t.val + 16 * q.val
    s.bar0Read at_ = 0 ∧ s.bar0Read (at_ + 8) = (if s.host.hacc.getLsbD t.val then s.lqstat t q else 0)
      ∧ s.bar0Read 0x10 = s.host.hacc ∧ s.bar0Read 0x20 = s.host.herr ∧ s.bar0Read 0x28 = 0 ∧ s.bar0Read (at_ + 0x400) = 0 := by
  refine ⟨?_, ?_, rfl, rfl, rfl, ?_⟩
  · rw [State.bar0Read, bar0Reg_lqsub]
    rfl
  · rw [State.bar0Read, bar0Reg_lqstat]
    rfl
  · rw [State.bar0Read, bar0Reg_past_queues]

/-- Settles O50: bring-up by STAGE, the watchdog, the mailbox by its commands, the registers by their fields. -/
theorem bootMailboxAndRegisters : Obligations.BootMailboxAndRegisters := by
  unfold Obligations.BootMailboxAndRegisters
  intro s v t r e off acc q j rest trained h alive goes version signed isSealed ok boots stage cmd asked runs answered ts policy
    report signature img writes
  have byMgmt (r : Reg) {s' : State} (h : s.mgmtWrite r v = s') : writes false r s' :=
    fun alive => h ▸ exec_registerWrite_mgmt alive r v
  have byHost (r : Reg) {s' : State} (h : s.hostWrites r v = s') : writes true r s' :=
    fun alive => h ▸ exec_registerWrite_host alive r v
  refine ⟨rfl, ?_, execWatchdogExpiry_stops s, fun dead => exec_of_dead dead v t r e off acc q j, ?_, reportBody_length s _,
    pssSign_length _ _ _ _, ?_, ?_, ?_, ?_, ?_, ?_, ?_⟩
  · intro alive quiet turn goesTo s0
    have goes_of {u : State} (h : s0.bringUp trained = u) : goesTo u := h ▸ step_of_outside quiet turn
    refine ⟨fun stage => goes_of (State.bringUp_at_0 trained alive stage),
      fun stage => ⟨_, goes_of (State.bringUp_at_1 trained alive stage), ?_⟩, ?_, ?_,
      fun stage => goes_of (State.bringUp_at_3 trained alive stage), fun stage => goes_of (State.bringUp_ready trained stage)⟩
    · cases best : s0.bestSlot with
      | none =>
        rw [State.verify_of_none (s := s0) stage best]
        exact ⟨rfl, rfl, rfl, .inr ⟨fun i hi => State.bestSlot_none best i ((State.accepted_iff s0 i).mpr hi), rfl⟩⟩
      | some i =>
        obtain ⟨accepted, highest⟩ := State.bestSlot_some best
        rw [State.verify_of_some (s := s0) stage best]
        exact ⟨rfl, rfl, rfl, .inl ⟨i, (State.accepted_iff s0 i).mp accepted,
          fun i' hi' => highest i' ((State.accepted_iff s0 i').mpr hi'), rfl, rfl, rfl, rfl⟩⟩
    · rintro stage rfl
      exact goes_of (State.bringUp_at_2_trained alive stage)
    · rintro stage rfl
      exact goes_of (State.bringUp_at_2_failed alive stage)
  · exact fun go alive => ⟨exec_hostDoorbell_idle alive go, exec_hostDoorbell_busy alive go⟩
  · exact fun ⟨pending, alive⟩ runs between => exec_attestationReport alive pending runs between
  · exact fun ⟨pending, alive⟩ runs => exec_identityCertificate alive pending runs
  · exact fun ⟨pending, alive⟩ runs => ⟨s.olderSlot, s.olderSlot_spec, exec_firmwareImageWrite alive pending runs⟩
  · exact ⟨byMgmt .hstat rfl, byMgmt .hacc (s.mgmtWrite_hacc v), byMgmt .mrate (s.mgmtWrite_mrate v), byMgmt .gpol0 rfl,
      byMgmt .herr rfl, byHost .herr rfl, byMgmt .readOnly rfl, byHost .hacc rfl, byHost (.tcfg t) rfl, byHost .gpol0 rfl,
      fun h1 h2 => byMgmt (.tcfg t) (s.mgmtWrite_tcfg t h1 h2), fun noGo => byHost .hdb (State.hostWrites_hdb noGo),
      fun shut => byHost _ (State.hostWrites_lqstat_shut q v shut),
      fun opened => byHost (.lqstat t q) (State.hostWrites_lqstat q v opened)⟩
  · exact bar0Read_values s t q
  · obtain ⟨rej, ovf, high, skip, mid, cnt⟩ := fld_lqstat s t q
    refine ⟨rej, ovf, high, mid, fun few => cnt.trans (Nat.mod_eq_of_lt (by omega)), fun kn hk small => skip.trans ?_⟩
    rw [hk]
    exact Nat.mod_eq_of_lt (show kn.skip < 256 by omega)
  · refine ⟨?_, rfl, fld_setFld _ _ (by decide) (by decide), fld_evstat _⟩
    cases hs : s.mgmt.own.isSome <;> simp [State.readReg, hs, bitCode]

end Sys2Proof.Machine
end
